-- ==== Sys2Proof/Word.lean ====
section
/-! DEFINITION. The word types of the machine and the finite map that its plain-data state is made of. -/

namespace Sys2Proof

set_option Elab.async false

/-- A register: 32 bits (R152). -/
abbrev Word := BitVec 32

/-- One byte: the smallest addressable unit (R4). -/
abbrev Byte := BitVec 8

/-- A 64-bit value, held in a register pair or a memory doubleword (R133). -/
abbrev Dword := BitVec 64

/-- A finite map from numbers, as pairs with strictly rising keys. -/
abbrev AMap (α : Type) := List (Nat × α)

end Sys2Proof
end

