-- ==== Sys2Proof/Machine/Maps.lean ====
section
/-! DEFINITION. The operations on the finite maps and byte lists of State: look up, put, delete, fold. -/

namespace Sys2Proof.Machine

set_option Elab.async false

/-- The value at a key, if the map lists it. -/
def mget {α : Type} : AMap α → Nat → Option α
  | [], _ => none
  | (j, v) :: r, k => if j = k then some v else mget r k

/-- The value at a key, or d. -/
def mgetD {α : Type} (m : AMap α) (k : Nat) (d : α) : α := (mget m k).getD d

/-- The map with v at key k, keys rising. -/
def mput {α : Type} : AMap α → Nat → α → AMap α
  | [], k, v => [(k, v)]
  | (j, w) :: r, k, v =>
    if k < j then (k, v) :: (j, w) :: r
    else if k = j then (k, v) :: r
    else (j, w) :: mput r k v

/-- The map without key k. -/
def mdel {α : Type} : AMap α → Nat → AMap α
  | [], _ => []
  | (j, w) :: r, k => if j = k then mdel r k else (j, w) :: mdel r k

/-- The map with f applied to the value at k, d standing for an unlisted value. -/
def mmod {α : Type} (m : AMap α) (k : Nat) (d : α) (f : α → α) : AMap α := mput m k (f (mgetD m k d))

/-- Apply f at every key of the list in turn, to the keys that the map lists. -/
def mmodAll {α : Type} (m : AMap α) : List Nat → (Nat → α → α) → AMap α
  | [], _ => m
  | k :: r, f =>
    match mget m k with
    | none => mmodAll m r f
    | some v => mmodAll (mput m k (f k v)) r f

/-- Bit k of a vector kept as a number. -/
def bitOf (v k : Nat) : Bool := v / 2 ^ k % 2 = 1

/-- The vector with bit k set, or cleared. -/
def setBit (v k : Nat) : Nat := if bitOf v k then v else v + 2 ^ k
def clrBit (v k : Nat) : Nat := if bitOf v k then v - 2 ^ k else v

/-- Bits hi to lo of a number (R3). -/
def bits (v hi lo : Nat) : Nat := v / 2 ^ lo % 2 ^ (hi + 1 - lo)

/-- x rounded up to a multiple of m, in units of m. -/
def ceilDiv (x m : Nat) : Nat := (x + m - 1) / m

/-- a - b modulo 2^32, for running counts (R381). -/
def count32 (a b : Nat) : Nat := (a + 2 ^ 32 - b % 2 ^ 32) % 2 ^ 32

/-- Two's complement reading of the low n bits. -/
def sextN (v n : Nat) : Int := if v % 2 ^ n < 2 ^ (n - 1) then (v % 2 ^ n : Nat) else (v % 2 ^ n : Nat) - (2 ^ n : Nat)

/-- An integer modulo 2^n. -/
def wrapN (v : Int) (n : Nat) : Nat := (v % (2 ^ n : Nat)).toNat

/-- Saturating addition at 2^n - 1. -/
def satAdd (a b n : Nat) : Nat := min (a + b) (2 ^ n - 1)

/-- The words of a value, least significant first, n of them. -/
def wordsOf : Nat → Nat → List Word
  | 0, _ => []
  | n + 1, v => BitVec.ofNat 32 v :: wordsOf n (v / 2 ^ 32)

/-- The value of words, least significant first (R133). -/
def ofWords : List Word → Nat
  | [] => 0
  | w :: r => w.toNat + 2 ^ 32 * ofWords r

/-- The list with element n replaced. -/
def setNth {α : Type} : List α → Nat → α → List α
  | [], _, _ => []
  | _ :: r, 0, x => x :: r
  | y :: r, n + 1, x => y :: setNth r n x

/-- The first element that passes, by a structural search. -/
def findD {α : Type} (l : List α) (p : α → Bool) (d : α) : α := (l.find? p).getD d

/-- The least of a list by a measure, the earlier on a tie. -/
def leastBy {α : Type} (f : α → Nat) : List α → Option α
  | [] => none
  | x :: r =>
    match leastBy f r with
    | none => some x
    | some y => if f y < f x then some y else some x

/-- An element put in its place among elements in rising order of a number, after its equals; a list put in that order. -/
def insertBy {α : Type} (f : α → Nat) (x : α) : List α → List α
  | [] => [x]
  | y :: r => if f x < f y then x :: y :: r else y :: insertBy f x r
def sortBy {α : Type} (f : α → Nat) (l : List α) : List α := l.foldl (fun r x => insertBy f x r) []

/-- The sum of a measure over a list. -/
def sumBy {α : Type} (f : α → Nat) (l : List α) : Nat := l.foldl (fun n x => n + f x) 0

/-- Numbers a to a + n - 1. -/
def span (a n : Nat) : List Nat := (List.range n).map (a + ·)

end Sys2Proof.Machine
end

