-- ==== Sys2Proof/Machine/IntOps.lean ====
section
/-! DEFINITION. The results of the integer instructions (R158 to R172) as functions of their operands. -/

namespace Sys2Proof.Machine

set_option Elab.async false

/-- The integer clamped to lo..hi. -/
def clamp (x lo hi : Int) : Int := if x < lo then lo else if hi < x then hi else x

def minI32 : Int := -2147483648
def maxI32 : Int := 2147483647

/-- R158. -/
def fIadds (a b : Word) : Word := BitVec.ofInt 32 (clamp (a.toInt + b.toInt) minI32 maxI32)
def fIsubs (a b : Word) : Word := BitVec.ofInt 32 (clamp (a.toInt - b.toInt) minI32 maxI32)
def fUadds (a b : Word) : Word := BitVec.ofNat 32 (min (a.toNat + b.toNat) (2 ^ 32 - 1))
def fUsubs (a b : Word) : Word := BitVec.ofNat 32 (a.toNat - b.toNat)
def fImin (a b : Word) : Word := if a.toInt ≤ b.toInt then a else b
def fImax (a b : Word) : Word := if a.toInt ≤ b.toInt then b else a
def fUmin (a b : Word) : Word := if a.toNat ≤ b.toNat then a else b
def fUmax (a b : Word) : Word := if a.toNat ≤ b.toNat then b else a
def fIabs (a : Word) : Word := BitVec.ofNat 32 a.toInt.natAbs
def fIneg (a : Word) : Word := -a
def fIdiff (a b : Word) : Word := BitVec.ofNat 32 (a.toInt - b.toInt).natAbs

/-- R159. -/
def fAndn (a b : Word) : Word := a &&& ~~~b
def fOrn (a b : Word) : Word := a ||| ~~~b
def fXnor (a b : Word) : Word := ~~~(a ^^^ b)

/-- R160: shifts by the unsigned amount n. -/
def fShl (a : Word) (n : Nat) : Word := if n < 32 then a <<< n else 0
def fShr (a : Word) (n : Nat) : Word := if n < 32 then a >>> n else 0
def fSar (a : Word) (n : Nat) : Word := a.sshiftRight (min n 31)
def fRol (a : Word) (n : Nat) : Word := a.rotateLeft (n % 32)
def fRor (a : Word) (n : Nat) : Word := a.rotateRight (n % 32)

/-- R161: bits are counted over positions 0 to 31. -/
def fPopc (a : Word) : Word := BitVec.ofNat 32 (((List.range 32).filter fun i => a.getLsbD i).length)
def fClz (a : Word) : Word := BitVec.ofNat 32 (if a = 0 then 32 else 31 - a.toNat.log2)
def fCtz (a : Word) : Word := BitVec.ofNat 32 (((List.range 32).find? fun i => a.getLsbD i).getD 32)
def fBrev (a : Word) : Word :=
  BitVec.ofNat 32 ((List.range 32).foldl (fun v i => 2 * v + (if a.getLsbD i then 1 else 0)) 0)
def byteOf (a : Word) (i : Nat) : Nat := bits a.toNat (8 * i + 7) (8 * i)
def ofBytes4 (b0 b1 b2 b3 : Nat) : Word := BitVec.ofNat 32 (b0 + 256 * b1 + 65536 * b2 + 16777216 * b3)
def fBswap (a : Word) : Word := ofBytes4 (byteOf a 3) (byteOf a 2) (byteOf a 1) (byteOf a 0)

/-- The control word of R162: position and length. -/
def bfPos (b : Word) : Nat := bits b.toNat 4 0
def bfLen (b : Word) : Nat := min (bits b.toNat 13 8) 32

/-- R162. -/
def fBfe (a b : Word) : Word :=
  if bfLen b = 0 then 0
  else BitVec.ofInt 32 (sextN (wrapN (a.toInt / (2 ^ bfPos b : Nat)) 32) (bfLen b))
def fBfeu (a b : Word) : Word := BitVec.ofNat 32 (a.toNat / 2 ^ bfPos b % 2 ^ bfLen b)

/-- R163. -/
def fBfi (d a b : Word) : Word :=
  let mask : Word := BitVec.ofNat 32 ((2 ^ bfLen b - 1) * 2 ^ bfPos b)
  (d &&& ~~~mask) ||| (BitVec.ofNat 32 (a.toNat * 2 ^ bfPos b) &&& mask)

/-- One result byte of R164: source byte c[2:0] of a and d, or its sign. -/
def permByte (d a : Word) (c : Nat) : Nat :=
  let x := if bits c 2 0 < 4 then byteOf a (bits c 2 0) else byteOf d (bits c 2 0 - 4)
  if bits c 3 3 = 0 then x else if 128 ≤ x then 255 else 0
def fBperm (d a b : Word) : Word :=
  ofBytes4 (permByte d a (bits b.toNat 3 0)) (permByte d a (bits b.toNat 7 4)) (permByte d a (bits b.toNat 11 8))
    (permByte d a (bits b.toNat 15 12))

/-- R165. -/
def fImulhi (a b : Word) : Word := BitVec.ofInt 32 (a.toInt * b.toInt / (2 ^ 32 : Nat))
def fUmulhi (a b : Word) : Word := BitVec.ofNat 32 (a.toNat * b.toNat / 2 ^ 32)
def fImad (d a b : Word) : Word := d + a * b
def fUmadw (d : Dword) (a b : Word) : Dword := d + BitVec.ofNat 64 (a.toNat * b.toNat)
def fImadw (d : Dword) (a b : Word) : Dword := d + BitVec.ofInt 64 (a.toInt * b.toInt)

/-- R166. -/
def idotSum (d a b : Word) : Int :=
  d.toInt + (List.range 4).foldl (fun s i => s + sextN (byteOf a i) 8 * sextN (byteOf b i) 8) 0
def udotSum (d a b : Word) : Nat :=
  d.toNat + (List.range 4).foldl (fun s i => s + byteOf a i * byteOf b i) 0
def fIdot4 (sat : Bool) (d a b : Word) : Word :=
  BitVec.ofInt 32 (if sat then clamp (idotSum d a b) minI32 maxI32 else idotSum d a b)
def fUdot4 (sat : Bool) (d a b : Word) : Word :=
  BitVec.ofNat 32 (if sat then min (udotSum d a b) (2 ^ 32 - 1) else udotSum d a b)

/-- R168. -/
def fSel (d a b : Word) : Word := if d ≠ 0 then a else b

/-- R169: the immediate without and with HINT IMM. -/
def immS (imm : BitVec 11) : Option (BitVec 21) → Word
  | none => imm.signExtend 32
  | some p => BitVec.ofNat 32 (p.toNat * 2048 + imm.toNat)
def immZ (imm : BitVec 11) : Option (BitVec 21) → Word
  | none => imm.zeroExtend 32
  | some p => BitVec.ofNat 32 (p.toNat * 2048 + imm.toNat)

/-- R171. -/
def fMovi (imm : BitVec 18) : Word := imm.signExtend 32
def fMovhi (d : Word) (imm : BitVec 18) : Word := BitVec.ofNat 32 (imm.toNat * 2 ^ 14 + d.toNat % 2 ^ 14)

/-- R172. -/
def fLeap (k : Nat) (a : Dword) (b : Word) : Dword := a + BitVec.ofInt 64 (b.toInt * (2 ^ k : Nat))
def fAddps (a b : Word) : Word :=
  BitVec.ofNat 32 (a.toNat / 2 ^ 18 * 2 ^ 18 + (a.toNat + b.toNat) % 2 ^ 18)

/-- R188: a signed value saturated to 8 bits. -/
def sat8 (a : Word) : Nat := wrapN (clamp a.toInt (-128) 127) 8
def shiftIn (d : Word) (a b : Nat) : Word := BitVec.ofNat 32 (b * 2 ^ 24 + a * 2 ^ 16 + d.toNat / 2 ^ 16)
def fPack8 (d a b : Word) : Word := shiftIn d (sat8 a) (sat8 b)

end Sys2Proof.Machine
end

