-- ==== Sys2Proof/Syntax.lean ====
section
/-! DEFINITION. The steps of the part: one constructor of Instr for each row of spec/opcode_table.json, which
lists the instruction words of Caerbel (R109) and the device events (spec/95_what_each_step_holds.md). Register
codes, sizes, scopes and operation codes are names here; no raw encoding reaches the machine. -/

namespace Sys2Proof

set_option Elab.async false

/-- A source register operand (R88): a register (native code 0 to 119, virtual number 0 to 1015 in Glomer form,
R113) or a forwarding-window name w1 to w8 (R70). -/
inductive Opnd
  | reg (n : Nat)
  | win (k : Nat)
  deriving DecidableEq, Repr

/-- A destination register operand (R88, R113): a register, or the transient destination (R71). -/
inductive Dst
  | reg (n : Nat)
  | trans
  deriving DecidableEq, Repr

/-- Memory scopes (R96, R243). -/
inductive Scope
  | wave | group | die | module | domain
  deriving DecidableEq, Repr

/-- Access sizes (R96). -/
inductive Size
  | b8 | b16 | b32 | b64 | b128 | s8 | s16
  deriving DecidableEq, Repr

/-- The ORDER field (R96): plain, acquire on a load and release on a store, SC. -/
inductive MemOrder
  | plain | acqRel | sc
  deriving DecidableEq, Repr

/-- Cache policies (R96, R239). -/
inductive CPol
  | dflt | nl1 | strm | na
  deriving DecidableEq, Repr

/-- Atomic operations (R98, R272). -/
inductive AtomOp
  | add | min | max | umin | umax | and | or | xor | exch | fadd | add64 | exch64
  deriving DecidableEq, Repr

/-- Rounding modes (R102, R127). -/
inductive Rnd
  | rne | rz | ru | rd
  deriving DecidableEq, Repr

/-- The special registers that SREAD reads, codes 0 to 15 (R127). -/
inductive SReg
  | lane | waveIx | widLo | widHi | field0 | field1 | field2 | field3 | field4 | field5 | waveW | flight | seed
  | argLo | argHi | prio
  deriving DecidableEq, Repr

/-- The special registers that SWRITE writes, codes 64 and 65 (R127). -/
inductive SWReg
  | round | ftz
  deriving DecidableEq, Repr

/-- Drain modes of MDRAIN (R100, R216). -/
inductive DrainMode
  | acc | ovr | bf16 | i32 | res
  deriving DecidableEq, Repr

/-- What the CRC of a granule found: no error, one mismatch (the granule is read again and resent), or a second
mismatch of the same granule (R287); or source data that cannot be corrected (R288, code UNCORR). -/
inductive Crc
  | good | once | twice | uncorr
  deriving DecidableEq, Repr

/-- One step of the part. A constructor with a field `s` carries the word's S bit (R86). -/
inductive Instr
  /-- HINT_IMM: Supplies a 21-bit prefix that widens the immediate of the following IADDI, ANDI, ORI or XORI to 32 bits. (R102) -/
  | hintImm (p : BitVec 21)
  /-- HINT_OFF: Adds a signed 22-bit byte offset to the effective address of the following M-format or AT-format word. (R102) -/
  | hintOff (p : BitVec 22)
  /-- HINT_MOD: Overrides the rounding, FTZ, SAT or cache policy of the following instruction. (R102) -/
  | hintMod (rov : Bool) (pol : Option CPol) (sat : Bool) (ftz : Bool) (rnd : Rnd)
  /-- HINT_PRIO: Sets the thread's selection boost from its target onward. (R102) -/
  | hintPrio (p : Nat)
  /-- PBLK: Reads a condition once and guards up to eight following words of the block per thread. (R104) -/
  | pblk (c : Opnd) (n : Nat) (p : BitVec 8)
  /-- BRA: Ends the block and continues at the destination head. (R342) -/
  | bra (s : Bool) (disp : BitVec 18)
  /-- BRZ: Ends the block and continues at the destination when the tested register is zero, else at the next word. (R342) -/
  | brz (s : Bool) (a : Opnd) (disp : BitVec 18)
  /-- BRNZ: Ends the block and continues at the destination when the tested register is non-zero. (R342) -/
  | brnz (s : Bool) (a : Opnd) (disp : BitVec 18)
  /-- CALL: Writes the code offset of the next word to the link register and continues at the destination. (R342) -/
  | call (s : Bool) (l : Dst) (disp : BitVec 18)
  /-- BRX: Continues at the code offset held in a register, which must be a listed head. (R343) -/
  | brx (s : Bool) (a : Opnd)
  /-- RET: Continues at a register-held code offset and is recorded as a return. (R343) -/
  | ret (s : Bool) (a : Opnd)
  /-- CALLX: Writes the next word's offset to D and continues at a register-held code offset. (R343) -/
  | callx (s : Bool) (d : Dst) (a : Opnd)
  /-- NOP: Has no effect. (R345) -/
  | nop (s : Bool)
  /-- EXIT: Ends the block; once its accesses are accepted, the thread leaves for good. (R345) -/
  | exit (s : Bool)
  /-- TRAP: Lets the block complete and then parks the thread with a TRAP trap that carries a. (R346) -/
  | trap (s : Bool) (a : Opnd)
  /-- SYSCALL: Sends a service request to the die kernel and waits for its answer. (R347) -/
  | syscall (d : Dst) (a : Opnd) (b : Opnd)
  /-- BKPT: Lets the block complete and then parks the thread with a breakpoint trap. (R346) -/
  | bkpt (s : Bool)
  /-- IFLUSH: Drops the flight's instruction words and knot entries from this core's fetch buffers. (R348) -/
  | iflush
  /-- JOIN: Adds the lane to the mask's arrival set and waits in the join entry of the next head. (R74) -/
  | join (s : Bool) (n : Nat)
  /-- JSET: Replaces a join mask's lane set and evaluates release again. (R350) -/
  | jset (s : Bool) (n : Nat) (b : Opnd)
  /-- JGET: Writes a join mask's current lane set to a pair. (R350) -/
  | jget (s : Bool) (d : Dst) (n : Nat)
  /-- JLEAVE: Removes the lane from a mask's lane set and evaluates release again. (R350) -/
  | jleave (s : Bool) (n : Nat)
  /-- SREAD: Reads a special register into D. (R351) -/
  | sread (s : Bool) (d : Dst) (c : SReg)
  /-- SWRITE: Sets the thread's default rounding or FTZ. (R351) -/
  | swrite (s : Bool) (c : SWReg) (b : Opnd)
  /-- IADD: d := a + b modulo 2^32. (R158) -/
  | iadd (s : Bool) (d : Dst) (a : Opnd) (b : Opnd)
  /-- ISUB: d := a − b modulo 2^32. (R158) -/
  | isub (s : Bool) (d : Dst) (a : Opnd) (b : Opnd)
  /-- IADDS: Signed saturating add. (R158) -/
  | iadds (s : Bool) (d : Dst) (a : Opnd) (b : Opnd)
  /-- ISUBS: Signed saturating subtract. (R158) -/
  | isubs (s : Bool) (d : Dst) (a : Opnd) (b : Opnd)
  /-- UADDS: Unsigned saturating add. (R158) -/
  | uadds (s : Bool) (d : Dst) (a : Opnd) (b : Opnd)
  /-- USUBS: Unsigned saturating subtract. (R158) -/
  | usubs (s : Bool) (d : Dst) (a : Opnd) (b : Opnd)
  /-- IMIN: Signed minimum. (R158) -/
  | imin (s : Bool) (d : Dst) (a : Opnd) (b : Opnd)
  /-- IMAX: Signed maximum. (R158) -/
  | imax (s : Bool) (d : Dst) (a : Opnd) (b : Opnd)
  /-- UMIN: Unsigned minimum. (R158) -/
  | umin (s : Bool) (d : Dst) (a : Opnd) (b : Opnd)
  /-- UMAX: Unsigned maximum. (R158) -/
  | umax (s : Bool) (d : Dst) (a : Opnd) (b : Opnd)
  /-- IABS: Signed absolute value. (R158) -/
  | iabs (s : Bool) (d : Dst) (a : Opnd)
  /-- INEG: Signed negation. (R158) -/
  | ineg (s : Bool) (d : Dst) (a : Opnd)
  /-- IDIFF: Absolute difference of signed values, as unsigned. (R158) -/
  | idiff (s : Bool) (d : Dst) (a : Opnd) (b : Opnd)
  /-- AND: Bitwise AND. (R159) -/
  | and (s : Bool) (d : Dst) (a : Opnd) (b : Opnd)
  /-- OR: Bitwise OR. (R159) -/
  | or (s : Bool) (d : Dst) (a : Opnd) (b : Opnd)
  /-- XOR: Bitwise exclusive OR. (R159) -/
  | xor (s : Bool) (d : Dst) (a : Opnd) (b : Opnd)
  /-- ANDN: a AND NOT b. (R159) -/
  | andn (s : Bool) (d : Dst) (a : Opnd) (b : Opnd)
  /-- ORN: a OR NOT b. (R159) -/
  | orn (s : Bool) (d : Dst) (a : Opnd) (b : Opnd)
  /-- XNOR: NOT (a XOR b). (R159) -/
  | xnor (s : Bool) (d : Dst) (a : Opnd) (b : Opnd)
  /-- NOT: Bitwise NOT of a. (R159) -/
  | not (s : Bool) (d : Dst) (a : Opnd)
  /-- SHL: Shifts left by a register amount. (R160) -/
  | shl (s : Bool) (d : Dst) (a : Opnd) (b : Opnd)
  /-- SHR: Logical right shift by a register amount. (R160) -/
  | shr (s : Bool) (d : Dst) (a : Opnd) (b : Opnd)
  /-- SAR: Arithmetic right shift by a register amount. (R160) -/
  | sar (s : Bool) (d : Dst) (a : Opnd) (b : Opnd)
  /-- ROL: Rotate left. (R160) -/
  | rol (s : Bool) (d : Dst) (a : Opnd) (b : Opnd)
  /-- ROR: Rotate right. (R160) -/
  | ror (s : Bool) (d : Dst) (a : Opnd) (b : Opnd)
  /-- POPC: Counts the 1 bits of a. (R161) -/
  | popc (s : Bool) (d : Dst) (a : Opnd)
  /-- CLZ: Counts leading zeros. (R161) -/
  | clz (s : Bool) (d : Dst) (a : Opnd)
  /-- CTZ: Counts trailing zeros. (R161) -/
  | ctz (s : Bool) (d : Dst) (a : Opnd)
  /-- BREV: Reverses the bit order. (R161) -/
  | brev (s : Bool) (d : Dst) (a : Opnd)
  /-- BFE: Extracts a signed bit field. (R162) -/
  | bfe (s : Bool) (d : Dst) (a : Opnd) (b : Opnd)
  /-- BFEU: Extracts an unsigned bit field. (R162) -/
  | bfeu (s : Bool) (d : Dst) (a : Opnd) (b : Opnd)
  /-- BFI: Inserts the low bits of a into D. (R163) -/
  | bfi (s : Bool) (d : Dst) (a : Opnd) (b : Opnd)
  /-- BPERM: Builds each byte of d from the bytes of a and D. (R164) -/
  | bperm (s : Bool) (d : Dst) (a : Opnd) (b : Opnd)
  /-- BSWAP: Reverses the byte order. (R161) -/
  | bswap (s : Bool) (d : Dst) (a : Opnd)
  /-- IMUL: Low 32 bits of the product. (R165) -/
  | imul (s : Bool) (d : Dst) (a : Opnd) (b : Opnd)
  /-- IMULHI: High 32 bits of the signed product. (R165) -/
  | imulhi (s : Bool) (d : Dst) (a : Opnd) (b : Opnd)
  /-- UMULHI: High 32 bits of the unsigned product. (R165) -/
  | umulhi (s : Bool) (d : Dst) (a : Opnd) (b : Opnd)
  /-- IMAD: d := d + a·b modulo 2^32. (R165) -/
  | imad (s : Bool) (d : Dst) (a : Opnd) (b : Opnd)
  /-- UMADW: Unsigned 64-bit multiply-accumulate into a pair. (R165) -/
  | umadw (s : Bool) (d : Dst) (a : Opnd) (b : Opnd)
  /-- IMADW: Signed 64-bit multiply-accumulate into a pair. (R165) -/
  | imadw (s : Bool) (d : Dst) (a : Opnd) (b : Opnd)
  /-- IDOT4: Signed four-element 8-bit dot product, accumulated into D. (R166) -/
  | idot4 (s : Bool) (d : Dst) (a : Opnd) (b : Opnd)
  /-- UDOT4: Unsigned four-element 8-bit dot product, accumulated into D. (R166) -/
  | udot4 (s : Bool) (d : Dst) (a : Opnd) (b : Opnd)
  /-- ISET_EQ: Writes 1 when the bit patterns are equal. (R167) -/
  | isetEq (s : Bool) (d : Dst) (a : Opnd) (b : Opnd)
  /-- ISET_NE: Writes 1 when the bit patterns differ. (R167) -/
  | isetNe (s : Bool) (d : Dst) (a : Opnd) (b : Opnd)
  /-- ISET_LT: Signed less-than compare. (R167) -/
  | isetLt (s : Bool) (d : Dst) (a : Opnd) (b : Opnd)
  /-- ISET_LE: Signed less-or-equal compare. (R167) -/
  | isetLe (s : Bool) (d : Dst) (a : Opnd) (b : Opnd)
  /-- ISET_GT: Signed greater-than compare. (R167) -/
  | isetGt (s : Bool) (d : Dst) (a : Opnd) (b : Opnd)
  /-- ISET_GE: Signed greater-or-equal compare. (R167) -/
  | isetGe (s : Bool) (d : Dst) (a : Opnd) (b : Opnd)
  /-- USET_LT: Unsigned less-than compare. (R167) -/
  | usetLt (s : Bool) (d : Dst) (a : Opnd) (b : Opnd)
  /-- USET_LE: Unsigned less-or-equal compare. (R167) -/
  | usetLe (s : Bool) (d : Dst) (a : Opnd) (b : Opnd)
  /-- USET_GT: Unsigned greater-than compare. (R167) -/
  | usetGt (s : Bool) (d : Dst) (a : Opnd) (b : Opnd)
  /-- USET_GE: Unsigned greater-or-equal compare. (R167) -/
  | usetGe (s : Bool) (d : Dst) (a : Opnd) (b : Opnd)
  /-- SEL: Selects a when D is non-zero, else b. (R168) -/
  | sel (s : Bool) (d : Dst) (a : Opnd) (b : Opnd)
  /-- IADDI: Adds a sign-extended or HINT-widened immediate. (R169) -/
  | iaddi (s : Bool) (d : Dst) (a : Opnd) (imm : BitVec 11)
  /-- ANDI: ANDs with a zero-extended or HINT-widened immediate. (R169) -/
  | andi (s : Bool) (d : Dst) (a : Opnd) (imm : BitVec 11)
  /-- ORI: ORs with a zero-extended or HINT-widened immediate. (R169) -/
  | ori (s : Bool) (d : Dst) (a : Opnd) (imm : BitVec 11)
  /-- XORI: XORs with a zero-extended or HINT-widened immediate. (R169) -/
  | xori (s : Bool) (d : Dst) (a : Opnd) (imm : BitVec 11)
  /-- SHLI: Shifts left by an immediate amount. (R170) -/
  | shli (s : Bool) (d : Dst) (a : Opnd) (n : BitVec 5)
  /-- SHRI: Logical right shift by an immediate amount. (R170) -/
  | shri (s : Bool) (d : Dst) (a : Opnd) (n : BitVec 5)
  /-- SARI: Arithmetic right shift by an immediate amount. (R170) -/
  | sari (s : Bool) (d : Dst) (a : Opnd) (n : BitVec 5)
  /-- ROLI: Rotate left by an immediate amount. (R170) -/
  | roli (s : Bool) (d : Dst) (a : Opnd) (n : BitVec 5)
  /-- RORI: Rotate right by an immediate amount. (R170) -/
  | rori (s : Bool) (d : Dst) (a : Opnd) (n : BitVec 5)
  /-- MOVI: Writes a sign-extended 18-bit immediate. (R171) -/
  | movi (s : Bool) (d : Dst) (imm : BitVec 18)
  /-- MOVHI: Writes IMM18·2^14 + D[13:0]. (R171) -/
  | movhi (s : Bool) (d : Dst) (imm : BitVec 18)
  /-- ADDP: Adds a sign-extended offset to a 64-bit address. (R172) -/
  | addp (s : Bool) (d : Dst) (a : Opnd) (b : Opnd)
  /-- ADDPS: Adds to a scratch address, wrapping the 18-bit offset. (R172) -/
  | addps (s : Bool) (d : Dst) (a : Opnd) (b : Opnd)
  /-- LEAP1: Adds a scaled offset (×2) to an address. (R172) -/
  | leap1 (s : Bool) (d : Dst) (a : Opnd) (b : Opnd)
  /-- LEAP2: Adds a scaled offset (×4) to an address. (R172) -/
  | leap2 (s : Bool) (d : Dst) (a : Opnd) (b : Opnd)
  /-- LEAP3: Adds a scaled offset (×8) to an address. (R172) -/
  | leap3 (s : Bool) (d : Dst) (a : Opnd) (b : Opnd)
  /-- LEAP4: Adds a scaled offset (×16) to an address. (R172) -/
  | leap4 (s : Bool) (d : Dst) (a : Opnd) (b : Opnd)
  /-- SUBP: Subtracts two 64-bit addresses. (R172) -/
  | subp (s : Bool) (d : Dst) (a : Opnd) (b : Opnd)
  /-- FADD: FP32 add with one rounding. (R173) -/
  | fadd (s : Bool) (d : Dst) (a : Opnd) (b : Opnd)
  /-- FSUB: FP32 subtract with one rounding. (R173) -/
  | fsub (s : Bool) (d : Dst) (a : Opnd) (b : Opnd)
  /-- FMUL: FP32 multiply with one rounding. (R173) -/
  | fmul (s : Bool) (d : Dst) (a : Opnd) (b : Opnd)
  /-- FMIN: IEEE minimumNumber. (R174) -/
  | fmin (s : Bool) (d : Dst) (a : Opnd) (b : Opnd)
  /-- FMAX: IEEE maximumNumber. (R174) -/
  | fmax (s : Bool) (d : Dst) (a : Opnd) (b : Opnd)
  /-- FABS: Clears the sign bit. (R175) -/
  | fabs (s : Bool) (d : Dst) (a : Opnd)
  /-- FNEG: Inverts the sign bit. (R175) -/
  | fneg (s : Bool) (d : Dst) (a : Opnd)
  /-- FCOPYSIGN: Takes the sign of b for a. (R175) -/
  | fcopysign (s : Bool) (d : Dst) (a : Opnd) (b : Opnd)
  /-- FFMA: d := d + a·b in FP32 with one rounding. (R176) -/
  | ffma (s : Bool) (d : Dst) (a : Opnd) (b : Opnd)
  /-- FFMS: d := d − a·b in FP32 with one rounding. (R176) -/
  | ffms (s : Bool) (d : Dst) (a : Opnd) (b : Opnd)
  /-- FDOT2: Adds a BF16 pair dot product to FP32 D. (R177) -/
  | fdot2 (s : Bool) (d : Dst) (a : Opnd) (b : Opnd)
  /-- FSET_EQ: FP32 equality compare. (R178) -/
  | fsetEq (s : Bool) (d : Dst) (a : Opnd) (b : Opnd)
  /-- FSET_NE: FP32 inequality compare. (R178) -/
  | fsetNe (s : Bool) (d : Dst) (a : Opnd) (b : Opnd)
  /-- FSET_LT: FP32 less-than compare. (R178) -/
  | fsetLt (s : Bool) (d : Dst) (a : Opnd) (b : Opnd)
  /-- FSET_LE: FP32 less-or-equal compare. (R178) -/
  | fsetLe (s : Bool) (d : Dst) (a : Opnd) (b : Opnd)
  /-- FSET_GT: FP32 greater-than compare. (R178) -/
  | fsetGt (s : Bool) (d : Dst) (a : Opnd) (b : Opnd)
  /-- FSET_GE: FP32 greater-or-equal compare. (R178) -/
  | fsetGe (s : Bool) (d : Dst) (a : Opnd) (b : Opnd)
  /-- FSET_UN: Writes 1 when either operand is NaN. (R178) -/
  | fsetUn (s : Bool) (d : Dst) (a : Opnd) (b : Opnd)
  /-- FCLASS: Writes a 10-bit class mask of an FP32 value. (R179) -/
  | fclass (s : Bool) (d : Dst) (a : Opnd)
  /-- FRCP: Correctly rounded reciprocal. (R180) -/
  | frcp (s : Bool) (d : Dst) (a : Opnd)
  /-- FRSQ: Correctly rounded reciprocal square root. (R180) -/
  | frsq (s : Bool) (d : Dst) (a : Opnd)
  /-- FSQRT: Correctly rounded square root. (R180) -/
  | fsqrt (s : Bool) (d : Dst) (a : Opnd)
  /-- FEXP2: Correctly rounded 2^x. (R180) -/
  | fexp2 (s : Bool) (d : Dst) (a : Opnd)
  /-- FLOG2: Correctly rounded log2 x. (R180) -/
  | flog2 (s : Bool) (d : Dst) (a : Opnd)
  /-- FSIN2PI: Correctly rounded sin(2πx). (R180) -/
  | fsin2pi (s : Bool) (d : Dst) (a : Opnd)
  /-- FCOS2PI: Correctly rounded cos(2πx). (R180) -/
  | fcos2pi (s : Bool) (d : Dst) (a : Opnd)
  /-- FTANH: Correctly rounded tanh x. (R180) -/
  | ftanh (s : Bool) (d : Dst) (a : Opnd)
  /-- FDIV: Correctly rounded a/b. (R180) -/
  | fdiv (s : Bool) (d : Dst) (a : Opnd) (b : Opnd)
  /-- HADD2_BF: Element-wise BF16 pair add. (R182) -/
  | hadd2Bf (s : Bool) (d : Dst) (a : Opnd) (b : Opnd)
  /-- HSUB2_BF: Element-wise BF16 pair subtract. (R182) -/
  | hsub2Bf (s : Bool) (d : Dst) (a : Opnd) (b : Opnd)
  /-- HMUL2_BF: Element-wise BF16 pair multiply. (R182) -/
  | hmul2Bf (s : Bool) (d : Dst) (a : Opnd) (b : Opnd)
  /-- HFMA2_BF: Element-wise BF16 pair fused multiply-add. (R182) -/
  | hfma2Bf (s : Bool) (d : Dst) (a : Opnd) (b : Opnd)
  /-- HMIN2_BF: Element-wise BF16 minimumNumber. (R182) -/
  | hmin2Bf (s : Bool) (d : Dst) (a : Opnd) (b : Opnd)
  /-- HMAX2_BF: Element-wise BF16 maximumNumber. (R182) -/
  | hmax2Bf (s : Bool) (d : Dst) (a : Opnd) (b : Opnd)
  /-- HADD2_H: Element-wise FP16 pair add. (R182) -/
  | hadd2H (s : Bool) (d : Dst) (a : Opnd) (b : Opnd)
  /-- HSUB2_H: Element-wise FP16 pair subtract. (R182) -/
  | hsub2H (s : Bool) (d : Dst) (a : Opnd) (b : Opnd)
  /-- HMUL2_H: Element-wise FP16 pair multiply. (R182) -/
  | hmul2H (s : Bool) (d : Dst) (a : Opnd) (b : Opnd)
  /-- HFMA2_H: Element-wise FP16 pair fused multiply-add. (R182) -/
  | hfma2H (s : Bool) (d : Dst) (a : Opnd) (b : Opnd)
  /-- HMIN2_H: Element-wise FP16 minimumNumber. (R182) -/
  | hmin2H (s : Bool) (d : Dst) (a : Opnd) (b : Opnd)
  /-- HMAX2_H: Element-wise FP16 maximumNumber. (R182) -/
  | hmax2H (s : Bool) (d : Dst) (a : Opnd) (b : Opnd)
  /-- CFMA: Complex FP32 multiply-accumulate. (R183) -/
  | cfma (s : Bool) (d : Dst) (a : Opnd) (b : Opnd)
  /-- CFMS: Complex FP32 multiply-subtract. (R183) -/
  | cfms (s : Bool) (d : Dst) (a : Opnd) (b : Opnd)
  /-- CMUL: Complex FP32 multiply. (R183) -/
  | cmul (s : Bool) (d : Dst) (a : Opnd) (b : Opnd)
  /-- F2I: Converts FP32 to a saturated signed integer. (R184) -/
  | f2i (s : Bool) (d : Dst) (a : Opnd)
  /-- F2U: Converts FP32 to a saturated unsigned integer. (R184) -/
  | f2u (s : Bool) (d : Dst) (a : Opnd)
  /-- I2F: Converts a signed integer to FP32. (R185) -/
  | i2f (s : Bool) (d : Dst) (a : Opnd)
  /-- U2F: Converts an unsigned integer to FP32. (R185) -/
  | u2f (s : Bool) (d : Dst) (a : Opnd)
  /-- F2BF: Rounds two FP32 values into a BF16 pair. (R186) -/
  | f2bf (s : Bool) (d : Dst) (a : Opnd) (b : Opnd)
  /-- BF2F: Converts BF16 element 0 to FP32. (R186) -/
  | bf2f (s : Bool) (d : Dst) (a : Opnd)
  /-- F2H: Rounds two FP32 values into an FP16 pair. (R186) -/
  | f2h (s : Bool) (d : Dst) (a : Opnd) (b : Opnd)
  /-- H2F: Converts FP16 element 0 to FP32. (R186) -/
  | h2f (s : Bool) (d : Dst) (a : Opnd)
  /-- F2E4: Rounds two FP32 values to E4M3 and shifts them in from the top. (R187) -/
  | f2e4 (s : Bool) (d : Dst) (a : Opnd) (b : Opnd)
  /-- E42F: Converts an E4M3 byte to FP32. (R187) -/
  | e42f (s : Bool) (d : Dst) (a : Opnd)
  /-- F2E5: Rounds two FP32 values to E5M2 and shifts them in from the top. (R187) -/
  | f2e5 (s : Bool) (d : Dst) (a : Opnd) (b : Opnd)
  /-- E52F: Converts an E5M2 byte to FP32. (R187) -/
  | e52f (s : Bool) (d : Dst) (a : Opnd)
  /-- QNT: Quantises each half-wave's FP32 values to block-scaled integers with a shared SC9 scale. (R190) -/
  | qnt (s : Bool) (d : Dst) (a : Opnd) (b : Opnd)
  /-- DQNT: Writes integer element times SC9 scale as FP32. (R191) -/
  | dqnt (s : Bool) (d : Dst) (a : Opnd) (b : Opnd)
  /-- PACK8: Saturates two values to 8 bits and shifts them in from the top. (R188) -/
  | pack8 (s : Bool) (d : Dst) (a : Opnd) (b : Opnd)
  /-- FRND: Rounds FP32 to an integral FP32 value. (R189) -/
  | frnd (s : Bool) (d : Dst) (a : Opnd)
  /-- SHFL_IDX: Reads a from the lane named by b. (R193) -/
  | shflIdx (s : Bool) (d : Dst) (a : Opnd) (b : Opnd)
  /-- SHFL_UP: Reads a from lane ℓ − b. (R193) -/
  | shflUp (s : Bool) (d : Dst) (a : Opnd) (b : Opnd)
  /-- SHFL_DOWN: Reads a from lane ℓ + b. (R193) -/
  | shflDown (s : Bool) (d : Dst) (a : Opnd) (b : Opnd)
  /-- SHFL_XOR: Reads a from lane ℓ XOR b. (R193) -/
  | shflXor (s : Bool) (d : Dst) (a : Opnd) (b : Opnd)
  /-- VOTE_ALL: Writes 1 when every active lane's a is non-zero. (R194) -/
  | voteAll (s : Bool) (d : Dst) (a : Opnd)
  /-- VOTE_ANY: Writes 1 when any active lane's a is non-zero. (R194) -/
  | voteAny (s : Bool) (d : Dst) (a : Opnd)
  /-- VOTE_BALLOT: Writes the 64-bit mask of active lanes with non-zero a. (R194) -/
  | voteBallot (s : Bool) (d : Dst) (a : Opnd)
  /-- WRED_IADD: Integer sum over active lanes. (R195) -/
  | wredIadd (s : Bool) (d : Dst) (a : Opnd)
  /-- WRED_IMAX: Signed maximum over active lanes. (R195) -/
  | wredImax (s : Bool) (d : Dst) (a : Opnd)
  /-- WRED_FADD: Ordered FP32 sum over active lanes in ascending lane order. (R196) -/
  | wredFadd (s : Bool) (d : Dst) (a : Opnd)
  /-- WSCAN_IADD: Exclusive integer scan over active lanes. (R195) -/
  | wscanIadd (s : Bool) (d : Dst) (a : Opnd)
  /-- WMATCH: Writes the mask of active lanes whose a equals this lane's. (R195) -/
  | wmatch (s : Bool) (d : Dst) (a : Opnd)
  /-- LD: Loads from global memory, with optional acquire or SC order. (R266) -/
  | ld (s : Bool) (d : Dst) (b : Opnd) (c : Scope) (z : Size) (o : MemOrder) (pol : CPol)
  /-- ST: Stores to global memory, with optional release or SC order. (R266) -/
  | st (s : Bool) (d : Opnd) (b : Opnd) (c : Scope) (z : Size) (o : MemOrder) (pol : CPol)
  /-- LDS: Loads from scratch. (R267) -/
  | lds (s : Bool) (d : Dst) (b : Opnd) (c : Scope) (z : Size) (o : MemOrder)
  /-- STS: Stores to scratch. (R267) -/
  | sts (s : Bool) (d : Opnd) (b : Opnd) (c : Scope) (z : Size) (o : MemOrder)
  /-- LDM: Loads a run of 1 to 16 words. (R268) -/
  | ldm (s : Bool) (d : Dst) (b : Opnd) (n : Nat) (scr : Bool) (pol : CPol)
  /-- STM: Stores a run of 1 to 16 words. (R268) -/
  | stm (s : Bool) (d : Opnd) (b : Opnd) (n : Nat) (scr : Bool) (pol : CPol)
  /-- LDC: Loads like LD and sets its line's L1 read count. (R269) -/
  | ldc (s : Bool) (d : Dst) (b : Opnd) (r : Nat) (z : Size)
  /-- PREF: Prefetches a line into L1 and L2. (R270) -/
  | pref (s : Bool) (a : Opnd)
  /-- CLOCK: Pins a line in this die's L2 for the flight and returns 0, 1 or 2. (R241) -/
  | clock (s : Bool) (d : Dst) (a : Opnd)
  /-- CUNLOCK: Removes the flight's pin on a line. (R270) -/
  | cunlock (s : Bool) (a : Opnd)
  /-- CFLUSH: Writes back a dirty non-home copy and drops it. (R270) -/
  | cflush (s : Bool) (a : Opnd)
  /-- CCLEAN: Writes back a dirty non-home copy and keeps it clean. (R270) -/
  | cclean (s : Bool) (a : Opnd)
  /-- ATOM: Performs an atomic read-modify-write at the home, aggregated per wave, and returns the old value. (R272) -/
  | atom (d : Dst) (b : Opnd) (a : Opnd) (op : AtomOp)
  /-- RED: Performs an atomic operation at the home with no result. (R273) -/
  | red (b : Opnd) (a : Opnd) (op : AtomOp)
  /-- CAS: 32-bit compare-and-swap at the home. (R274) -/
  | cas (d : Dst) (b : Opnd) (a : Opnd)
  /-- CAS64: 64-bit compare-and-swap at the home. (R274) -/
  | cas64 (d : Dst) (b : Opnd) (a : Opnd)
  /-- FENCE_ACQ: Holds later loads until earlier loads' values return. (R276) -/
  | fenceAcq (s : Bool) (c : Scope)
  /-- FENCE_REL: Release fence, with write-back at MODULE or DOMAIN scope. (R276) -/
  | fenceRel (c : Scope)
  /-- FENCE_ACQREL: Acquire and release fence. (R276) -/
  | fenceAcqrel (c : Scope)
  /-- FENCE_SC: Sequentially consistent fence in the total order of its scope. (R276) -/
  | fenceSc (c : Scope)
  /-- QFENCE: Places an ordering entry in each named engine queue of the group. (R277) -/
  | qfence (m : BitVec 4)
  /-- CTRADD: Adds a saturating unsigned value to a counter, optionally as a release. (R279) -/
  | ctradd (b : Opnd) (a : Opnd) (rel : Bool) (c : Scope)
  /-- CTRREAD: Reads a 64-bit counter at its home, optionally as an acquire. (R280) -/
  | ctrread (s : Bool) (d : Dst) (b : Opnd) (c : Scope) (o : Bool)
  /-- TXBEGIN: Opens a begin level and saves a checkpoint. (R319) -/
  | txbegin (s : Bool) (disp : BitVec 18)
  /-- ORELSE: Opens an orelse level with an alternative and saves a checkpoint. (R331) -/
  | orelse (s : Bool) (disp : BitVec 18)
  /-- TXEND: Closes the innermost level, committing at the outermost one. (R326) -/
  | txend
  /-- RETRY: Takes the next untaken alternative, or puts the whole transaction to sleep. (R331) -/
  | retry
  /-- TXABORT: Closes levels up to the innermost begin level and continues at its failure path. (R338) -/
  | txabort (a : Opnd)
  /-- TXSTAT: Writes the thread's transaction status. (R339) -/
  | txstat (s : Bool) (d : Dst)
  /-- COPY: Queues a tile copy from the source tether to the destination tether. (R284) -/
  | copy (dt : Nat) (sl : Nat) (c : Opnd) (y : Opnd) (k : Bool)
  /-- GATHER: Queues a copy of indexed source rows. (R284) -/
  | gather (dt : Nat) (sl : Nat) (c : Opnd) (y : Opnd) (k : Bool)
  /-- SCATTER: Queues a copy into indexed destination rows. (R284) -/
  | scatter (dt : Nat) (sl : Nat) (c : Opnd) (y : Opnd) (k : Bool)
  /-- COMBINE: Sends a tile contribution to a combining switch key. (R296) -/
  | combine (dt : Nat) (sl : Nat) (c : Opnd) (y : Opnd) (k : Bool)
  /-- RINIT: Registers, re-registers or removes a reel. (R294) -/
  | rinit (a : Opnd) (b : Opnd)
  /-- RFILL: Returns the address of the next filled reel slot, or all ones. (R294) -/
  | rfill (s : Bool) (d : Dst) (a : Opnd)
  /-- RFREE: Frees reel slots. (R294) -/
  | rfree (a : Opnd) (b : Opnd)
  /-- RSPACE: Returns the number of unclaimed reel slots. (R294) -/
  | rspace (s : Bool) (d : Dst) (a : Opnd)
  /-- RSTAT: Returns the reel's fill and error state. (R294) -/
  | rstat (s : Bool) (d : Dst) (a : Opnd)
  /-- LAUNCH: Submits one launch header per active lane to its die's dispatcher. (R353) -/
  | launch (a : Opnd)
  /-- MMUL: Posts one span of residue products of A and B tiles into a bank. (R213) -/
  | mmul (bank : Nat) (x : Nat) (y : Nat) (p : Opnd) (pair : Bool)
  /-- MSTAT: Loads a B slice into the group's SHADOW buffer. (R211) -/
  | mstat (x : Nat) (p : Opnd)
  /-- MSTREAM: Streams A rows past the ACTIVE slice in one pass. (R212) -/
  | mstream (bank : Nat) (x : Nat) (p : Opnd) (pair : Bool) (swapf : Bool)
  /-- MDRAIN: Posts a conversion of bank rows to a destination tile, then clears them. (R216) -/
  | mdrain (s : Bool) (bank : Nat) (x : Nat) (p : Opnd) (m : DrainMode)
  /-- MZERO: Posts a clear of bank rows. (R217) -/
  | mzero (s : Bool) (bank : Nat) (p : Opnd)
  /-- TTSET: Writes a tether slot from 8 registers. (R150) -/
  | ttset (s : Bool) (a : Opnd) (n : Nat)
  /-- TTGET: Reads a tether slot into 8 registers. (R150) -/
  | ttget (s : Bool) (d : Dst) (n : Nat)
  /-- TTCLR: Empties a tether slot. (R150) -/
  | ttclr (s : Bool) (n : Nat)
  /-- MARKPUSH: Pushes a label on each active wave's label stack and emits a PUSH record. (R435) -/
  | markpush (a : Opnd)
  /-- MARKPOP: Pops each active wave's label stack and emits a POP record. (R435) -/
  | markpop
  /-- MARKEVT: Emits an EVENT record with a label and a value. (R435) -/
  | markevt (a : Opnd) (b : Opnd)
  /-- MARKSTAT: Writes the wave's top label, depth and overflow flag, and emits a STAT record. (R435) -/
  | markstat (d : Dst)
  /-- GLOMER_WORD: Executes a 64-bit Glomer word through its NATIVE half with virtual register numbers. (R112) -/
  | glomerWord (w : BitVec 64)
  /-- HEADER_TAKE: The dispatcher takes the next header of a queue whose doorbell declares it, checks it and places its trains. (R37) -/
  | headerTake (die queue : Nat)
  /-- LAUNCH_INTAKE: The dispatcher checks and places a header submitted by LAUNCH from its intake. (R39) -/
  | launchIntake (die : Nat)
  /-- TRAIN_ARRIVAL: A train passed over the fabric enters the target die's pending list. (R305) -/
  | trainArrival (die : Nat)
  /-- TRAIN_ADMIT: The dispatcher admits the head train once GPT cores can hold its groups. (R44) -/
  | trainAdmit (die : Nat)
  /-- SCRATCH_ZEROING_DONE: Zeroing of a new group's scratch pages completes and its first instruction may run. (R34) -/
  | scratchZeroingDone (die core gslot : Nat)
  /-- PREEMPT_START: The dispatcher chooses victim trains for a head that cannot be admitted and stops them. (R309) -/
  | preemptStart (die : Nat)
  /-- PREEMPT_STOP_COMPLETE: Once the train's threads have stopped, its context is saved to the pool. (R310) -/
  | preemptStopComplete (die train : Nat)
  /-- CONTEXT_SAVE_COMPLETE: The saved train's resources are freed and it returns to the pending list. (R310) -/
  | contextSaveComplete (die train : Nat)
  /-- TRAIN_END: When a train's groups have all ended, its die writes back dirty non-home lines and reports the end. (R41) -/
  | trainEnd (die train : Nat)
  /-- TRAIN_END_REPORT: The launching dispatcher records a train's end and, after the last, makes the completion add. (R41) -/
  | trainEndReport (die : Nat)
  /-- THREAD_WAITING: A thread whose block's returns and acceptances are complete becomes waiting at its next head. (R55) -/
  | threadWaiting (die core slot : Nat)
  /-- BUNDLE_SELECT: A free bundle slot selects an entry and takes up to 64 waiting threads into a bundle. (R61) -/
  | bundleSelect (die core bslot : Nat)
  /-- MARIONETTE_COMPARE: At a block end the leader's and twin's stores, requests and next head are compared and released. (R83) -/
  | marionetteCompare (die core slot : Nat)
  /-- PAGE_TABLE_WALK: A walker reads the die's replica on an HLB miss and fills the HLB or reports a fault. (R367) -/
  | pageTableWalk (req : Nat)
  /-- HOME_REQUEST: The home translates, checks and performs a request, or refuses it. (R368) -/
  | homeRequest (req : Nat)
  /-- ANSWER_MOVED: A request refused as moved waits for the COMMIT, is re-walked and resent. (R265) -/
  | answerMoved (req : Nat)
  /-- ANSWER_RESETTING: A request refused as resetting is resent after the home rejoins. (R265) -/
  | answerResetting (req : Nat)
  /-- ANSWER_FAULT: A fault answer from the home is reported as a page trap. (R265) -/
  | answerFault (req : Nat)
  /-- REQUEST_RESEND: Refused requests are re-walked and resent in program order after the COMMIT or rejoin. (R375) -/
  | requestResend (req : Nat)
  /-- DEFERRED_REFUSAL: A fault refusal of a plain store arriving after the thread passed its head stops the thread's accesses and traps it. (R411) -/
  | deferredRefusal (req : Nat)
  /-- HELD_NOTICE: A home records that a die holds a line dirty under a narrow-scope release. (R253) -/
  | heldNotice (home : Nat)
  /-- PUBLISH: A holding die forced by a home writes back covered dirty lines and confirms. (R255) -/
  | publish (die : Nat)
  /-- PUBLISH_CONFIRM: The home answers the waiting acquire with the line and a WIDEN flag. (R255) -/
  | publishConfirm (req : Nat)
  /-- WIDEN_ANSWER: An acquirer receiving WIDEN drops its die's non-home lines. (R255) -/
  | widenAnswer (req : Nat)
  /-- FAULT_QUEUE_ENTRY: A fault is written or merged into the requester die's fault queue once there is room. (R371) -/
  | faultQueueEntry (die : Nat)
  /-- TRAP_RECORD_WRITE: A parked thread's trap record is written to the trap ring once a slot is free. (R408) -/
  | trapRecordWrite (die : Nat)
  /-- EXIT_RECORD_WRITE: The dispatcher writes a group's exit record once the exit ring has room. (R443) -/
  | exitRecordWrite (die : Nat)
  /-- MATRIX_ENTRY_FRONT: An entry at the front of its group queue is checked and becomes READY or is performed. (R210) -/
  | matrixEntryFront (die quad entry : Nat)
  /-- ARBITER_GRANT: At a pass boundary or idle array the arbiter grants one READY entry. (R219) -/
  | arbiterGrant (die quad : Nat)
  /-- PASS_END: A streaming pass completes, PROG is recorded and the entry goes on or is DONE. (R213) -/
  | passEnd (die quad : Nat)
  /-- PAIRED_HOLD_TIMEOUT: After 640 cycles in HOLD an engine withdraws and re-posts as an aged single pass. (R222) -/
  | pairedHoldTimeout (die quad : Nat)
  /-- MSTAT_PERFORM: The engine reads a B slice into SHADOW and completes the MSTAT. (R211) -/
  | mstatPerform (die quad entry : Nat)
  /-- MDRAIN_PERFORM: The engine converts, writes and clears the drained rows. (R216) -/
  | mdrainPerform (die quad entry : Nat)
  /-- MZERO_PERFORM: The engine clears the named bank rows. (R217) -/
  | mzeroPerform (die quad entry : Nat)
  /-- OPERAND_FETCH_STOP: A faulted, moved or resetting operand fetch stops the matrix operation at its boundary. (R223) -/
  | operandFetchStop (die quad entry : Nat)
  /-- STREAMER_ENTRY_START: A streamer begins its next queue entry. (R282) -/
  | streamerEntryStart (die quad : Nat)
  /-- COPY_GRANULE: A streamer moves one 128-byte granule under CRC, resending once on mismatch. (R287) -/
  | copyGranule (die quad : Nat) (crc : Crc)
  /-- COPY_FAULT: A copy fault stops the copy at a granule boundary; fatal faults fail the slot or the flight. (R288) -/
  | copyFault (die quad : Nat) (crc : Crc)
  /-- COPY_SYNC: When every destination word is written, the copy adds to its counter or advances its reel. (R286) -/
  | copySync (die quad : Nat)
  /-- COMBINE_CONTRIBUTION: A switch accepts, sums, bypasses or refuses a contribution to a key. (R298) -/
  | combineContribution (ioDie : Nat)
  /-- COMBINE_ENTRY_TIMEOUT: An INT32 or RES32 entry idle for 16 µs completes early. (R298) -/
  | combineEntryTimeout (ioDie vas key : Nat)
  /-- COMBINE_RESEND: The streamer resends a refused FP32 contribution. (R300) -/
  | combineResend (die quad : Nat)
  /-- COMBINE_COUNTER_ADD: After the destination writes, each contributor's counter receives its add. (R299) -/
  | combineCounterAdd (die quad : Nat)
  /-- CONFLICT_NOTICE: A change to a line of a running attempt's read set dooms the attempt. (R327) -/
  | conflictNotice (die : Nat)
  /-- WAKE_MESSAGE: A change to a watched key wakes its sleeping threads and its coarse bucket. (R333) -/
  | wakeMessage (die : Nat)
  /-- SOLITARY_TOKEN_GRANT: The die's solitary token passes to the next thread in its FIFO. (R330) -/
  | solitaryTokenGrant (die : Nat)
  /-- TOKEN_TIMEOUT: A token holder running for 2^24 cycles loses the token and takes a conflict abort. (R330) -/
  | tokenTimeout (die : Nat)
  /-- LINK_CRC_ERROR: A receiver finding a flit CRC error requests a resend. (R23) -/
  | linkCrcError (link : Nat)
  /-- LINK_REPLAY: The sender replays from its replay buffer. (R23) -/
  | linkReplay (link : Nat) (good : Bool)
  /-- BRIDLE_SEND: The device sends the next message of the send ring. (R385) -/
  | bridleSend (die : Nat)
  /-- BRIDLE_RECEIVE: An arriving message is written into the receive ring and logged at the partner. (R385) -/
  | bridleReceive (die : Nat)
  /-- SEQUENCER_MULTICAST: The sequencer stamps ORDER on a multicast and delivers it to every member. (R386) -/
  | sequencerMulticast (die : Nat)
  /-- KMSG: A die-kernel message is delivered point-to-point or by multicast. (R384) -/
  | kmsg (die : Nat)
  /-- MAP: A MAP message makes absent leaves valid in each member's replica. (R372) -/
  | map (die : Nat)
  /-- REVOKE: Each member invalidates translations, writes back, holds or refuses requests in the range and acknowledges. (R374) -/
  | revoke (die : Nat)
  /-- ACK: The initiator records an acknowledgement; after the last it sends COMMIT. (R374) -/
  | ack (die : Nat)
  /-- COMMIT: Members write the new leaf, close the range and recheck held requests. (R374) -/
  | commit (die : Nat)
  /-- NOTICE: A device notice is delivered to the die's own kernel. (R384) -/
  | notice (die : Nat)
  /-- FQHEAD: Advancing the fault-queue head frees entries for waiting faults. (R381) -/
  | fqhead (die value : Nat)
  /-- BSTAIL: Advancing the send-ring tail places messages for sending. (R385) -/
  | bstail (die value : Nat)
  /-- BRHEAD: Advancing the receive-ring head frees space for held arrivals. (R385) -/
  | brhead (die value : Nat)
  /-- CAUSE: Writing 1 clears interrupt cause bits. (R381) -/
  | cause (die value : Nat)
  /-- CONTROL_REGISTER_WRITE: Writes a die control register that has no behaviour of its own. (R381) -/
  | controlRegisterWrite (die offset value : Nat)
  /-- QUEUE_REGISTER: Registers the queue descriptor at QDESC under an index and VAS. (R382) -/
  | queueRegister (die qctl : Nat)
  /-- QUEUE_HALT: Halts a registered queue. (R382) -/
  | queueHalt (die qctl : Nat)
  /-- QUEUE_RUN: Returns a halted queue to running. (R382) -/
  | queueRun (die qctl : Nat)
  /-- QUEUE_UNREGISTER: Stops the dispatcher watching a queue. (R382) -/
  | queueUnregister (die qctl : Nat)
  /-- CRTAIL: Advancing a copy ring's tail places descriptors for the ring. (R401) -/
  | crtail (die ring value : Nat)
  /-- DESC_VA_TO_VA: A copy-ring descriptor copies bytes between partition VAs. (R401) -/
  | descVaToVa (die ring : Nat)
  /-- DESC_VA_TO_HOST: A descriptor copies from a partition VA to a host bus address. (R401) -/
  | descVaToHost (die ring : Nat)
  /-- DESC_HOST_TO_VA: A descriptor copies from a host bus address to a partition VA. (R401) -/
  | descHostToVa (die ring : Nat)
  /-- DESC_VA_TO_SPAR: A descriptor copies to a VA of a partition in another module over Spar. (R401) -/
  | descVaToSpar (die ring : Nat)
  /-- DESC_FRAME: A descriptor copies physical frames between dies with page-tag checks. (R401) -/
  | descFrame (die ring : Nat)
  /-- DESC_ZERO: A descriptor zeroes physical frames and writes their page tags. (R401) -/
  | descZero (die ring : Nat)
  /-- DESCRIPTOR_END: A finished descriptor writes CODE and DONE, adds to its counter, advances CRHEAD and raises CAUSE[4]. (R401) -/
  | descriptorEnd (die ring : Nat)
  /-- RESUME: A parked thread becomes waiting at head RORD. (R409) -/
  | resume (die : Nat)
  /-- KILL_THREAD: Ends a parked thread as killed. (R409) -/
  | killThread (die : Nat)
  /-- KILL_GROUP: Ends every thread of a group, withdraws its entries and frees its resources. (R409) -/
  | killGroup (die : Nat)
  /-- FAULT_FLIGHT: Stops and kills every train of a flight, writes a FLIGHT record and makes the completion add. (R413) -/
  | faultFlight (die : Nat)
  /-- CHECKPOINT: Halts the supervisor cores and copies the sail region into a checkpoint buffer at the partner. (R424) -/
  | checkpoint (die : Nat)
  /-- RETRYFAULT: Non-thread requesters of a fault-queue entry retry their accesses. (R409) -/
  | retryfault (die : Nat)
  /-- FAILFAULT: Non-thread requesters of a fault-queue entry treat the fault as fatal. (R409) -/
  | failfault (die : Nat)
  /-- PCREATE: The keel allocates a free VAS id. (R392) -/
  | pcreate (src : Nat)
  /-- PASSIGN: The keel gives an unowned die and its sequencer to a VAS. (R392) -/
  | passign (src : Nat)
  /-- PRELEASE: The keel removes a die from a VAS, destroying keys and zeroing state. (R396) -/
  | prelease (src : Nat)
  /-- KEYLOAD: The keel generates a fresh key for a key slot of the VAS. (R392) -/
  | keyload (src : Nat)
  /-- ATTEST: The keel writes a signed attestation report. (R395) -/
  | attest (src : Nat)
  /-- VERIFY: The keel verifies an image for a warm reset. (R391) -/
  | verify (src : Nat)
  /-- ENROLL: The keel fuses the owner key hash, once only. (R392) -/
  | enroll (src : Nat)
  /-- SVNLOCK: The keel raises a fused minimum SVN to the running image's SVN. (R392) -/
  | svnlock (src : Nat)
  /-- SYSCALL_ECHO: Returns the argument. (R388) -/
  | syscallEcho (req : Nat)
  /-- SYSCALL_QREG: Registers a launch queue on this die and returns its index. (R388) -/
  | syscallQreg (req : Nat)
  /-- SYSCALL_QHALT: Halts a launch queue. (R388) -/
  | syscallQhalt (req : Nat)
  /-- SYSCALL_MAP: Obtains and zeroes frames and multicasts MAP for a range. (R389) -/
  | syscallMap (req : Nat) (frames : List Nat)
  /-- SYSCALL_UNMAP: Unmaps a range with a MODE 0 shootdown. (R389) -/
  | syscallUnmap (req : Nat)
  /-- SYSCALL_WINDOW: Registers a PCIe landing window. (R399) -/
  | syscallWindow (req : Nat)
  /-- TRACE_OPEN: Registers a session descriptor on every member die and starts it. (R432) -/
  | traceOpen (req : Nat)
  /-- TRACE_STOP: Stops a session and appends a CUT on each die. (R432) -/
  | traceStop (req : Nat)
  /-- TRACE_STATUS: Returns the session's state and flags with pending changes folded in. (R432) -/
  | traceStatus (req : Nat)
  /-- TRACE_CLOSE: Unregisters a session that is not running. (R432) -/
  | traceClose (req : Nat)
  /-- TRACE_RECORD_WRITE: The trace unit claims a buffer slot and writes the next queued record, or drops it. (R439) -/
  | traceRecordWrite (die : Nat)
  /-- SAMPLE_TIMER: Every 2^(SPER+8) cycles a core samples one thread of an attached flight. (R441) -/
  | sampleTimer (die core : Nat)
  /-- PASS_ADVANCE: Between multi-pass passes the dispatcher sets PASS, flushes caches and restores snapshots. (R446) -/
  | passAdvance (die : Nat)
  /-- PCIE_POSTED_WRITE: A posted write into a landing window is applied in order, or discarded with a notice. (R302) -/
  | pciePostedWrite (die rid fn offset : Nat) (data : List Byte)
  /-- PCIE_FETCHADD: A 64-bit FetchAdd to a window counter waits for earlier writes, then adds and completes. (R303) -/
  | pcieFetchadd (die rid fn offset addend : Nat)
  /-- PCIE_UNSUPPORTED_ATOMICOP: A 32-bit FetchAdd, Swap or CAS to a window completes Unsupported Request. (R304) -/
  | pcieUnsupportedAtomicop (die rid fn offset : Nat)
  /-- PCIE_MEMORY_READ: A host memory read of a window returns data without passing earlier posted writes. (R304) -/
  | pcieMemoryRead (die rid fn offset len : Nat)
  /-- FUNCTION_LEVEL_RESET: Unregisters the function's windows and aborts its DMA. (R398) -/
  | functionLevelReset (die fn : Nat)
  /-- SPAR_WRITE: A Spar stream write arrives at the destination I/O die and is admitted or refused. (R401) -/
  | sparWrite (die : Nat)
  /-- VAUX_GOOD: The boot ROM verifies the keel firmware and bring-up starts. (R403) -/
  | vauxGood (verified : Bool)
  /-- DIE_JOIN: A die that passes self-test and verification joins with NOTICE cause 4. (R403) -/
  | dieJoin (die : Nat) (passed : Bool)
  /-- CALIBRATION_COMPLETE: A die's arithmetic clock moves from 2 GHz to 4 GHz. (R27) -/
  | calibrationComplete (die : Nat)
  /-- HEARTBEAT_TIMEOUT: A die kernel silent for 500 ms makes the keel start warm reset. (R425) -/
  | heartbeatTimeout (die : Nat)
  /-- WARM_RESET_START: The router answers resetting, notices go out and the L2 write-back begins. (R425) -/
  | warmResetStart (die : Nat)
  /-- WARM_RESET_DRAINED: After the L2 write-back, trains are relaunched or faulted and die logic resets. (R425) -/
  | warmResetDrained (die : Nat)
  /-- WARM_RESET_DRAIN_TIMEOUT: An L2 write-back not finished within 10 ms turns the reset into a loss. (R425) -/
  | warmResetDrainTimeout (die : Nat)
  /-- WARM_RESET_REJOIN: The checkpoint is restored, logged messages replayed and the die rejoins. (R425) -/
  | warmResetRejoin (die : Nat)
  /-- DIE_LOSS: The keel declares a die lost, notifies members and clears its slots. (R426) -/
  | dieLoss (die : Nat)
  /-- SCRUB_LINE: The memory controller reads, corrects and rewrites a homed line, logging findings. (R422) -/
  | scrubLine (die pa : Nat)
  /-- ANSWER_PERFORMED: A home's performed answer (load data, atomic old value or acceptance) arrives at the requester and settles the outstanding return. (R265) -/
  | answerPerformed (req : Nat)
  /-- SYSCALL_ANSWER: The die kernel answers a waiting SYSCALL with a 32-bit value for d, or parks the thread with a trap. (R347) -/
  | syscallAnswer (req : Nat) (value : Option Word)
  /-- DIE_LOGIC_HANG: A die's logic hangs, after which it answers nothing while its router keeps forwarding. (R425) -/
  | dieLogicHang (die : Nat)
  /-- DIE_KERNEL_PREEMPT: The die kernel pre-empts any train, whatever its PREEMPT, without counting toward the limit of R309. (R310) -/
  | dieKernelPreempt (die train : Nat)
  /-- ROUTER_RESET: On a keel request, a die's routers reset once their links have drained. (R397) -/
  | routerReset (die : Nat)
  /-- CXL_MEM_REQUEST: A host CXL.mem request through the HDM decoder reaches the capacity-tier frames that the keel assigned to the host. (R402) -/
  | cxlMemRequest (die addr : Nat) (write : Option (List Byte))
  /-- PORT_MODE_CHANGE: The port's mode changes between PCI Express and CXL, which resets the port and unregisters its windows. (R402) -/
  | portModeChange (die : Nat) (cxl : Bool)
  /-- CHECKPOINT_BUFFER_COMPLETE: The checkpoint copy ends, STAMP is written, DONE is set and the supervisor cores resume. (R424) -/
  | checkpointBufferComplete (die : Nat)
  deriving DecidableEq, Repr

end Sys2Proof
end

