-- ==== Sys2Proof/Machine/Float.lean ====
section
/-! DEFINITION. Floating-point formats, exact values, and the one rounding (R128 to R132, R157). -/

namespace Sys2Proof.Machine

set_option Elab.async false

/-- A format (R128): exponent and fraction bits, bias, and whether the exponent of ones holds infinity and NaN. -/
structure Fmt where
  ebits : Nat
  fbits : Nat
  bias : Nat
  ieee : Bool
  deriving DecidableEq, Repr

def fp32 : Fmt := { ebits := 8, fbits := 23, bias := 127, ieee := true }
def bf16 : Fmt := { ebits := 8, fbits := 7, bias := 127, ieee := true }
def fp16 : Fmt := { ebits := 5, fbits := 10, bias := 15, ieee := true }
def e5m2 : Fmt := { ebits := 5, fbits := 2, bias := 15, ieee := true }
def e4m3 : Fmt := { ebits := 4, fbits := 3, bias := 7, ieee := false }

/-- The sign bit's weight, the code of infinity, the largest finite code, and the canonical NaN (R128). -/
def Fmt.signBit (f : Fmt) : Nat := 2 ^ (f.ebits + f.fbits)
def Fmt.infCode (f : Fmt) : Nat := (2 ^ f.ebits - 1) * 2 ^ f.fbits
def Fmt.maxCode (f : Fmt) : Nat := if f.ieee then f.infCode - 1 else 2 ^ (f.ebits + f.fbits) - 2
def Fmt.nan (f : Fmt) : Nat := if f.ieee then f.infCode + 2 ^ (f.fbits - 1) else 2 ^ (f.ebits + f.fbits) - 1

/-- A value: NaN, an infinity, or (-1)^neg · m · 2^e, m = 0 being a signed zero. -/
inductive FVal
  | nan
  | inf (neg : Bool)
  | num (neg : Bool) (m : Nat) (e : Int)
  deriving DecidableEq, Repr

/-- The value of a code (R128); under FTZ a subnormal reads as a zero of its sign (R132). -/
def Fmt.val (f : Fmt) (ftz : Bool) (c : Nat) : FVal :=
  let neg := decide (c / f.signBit % 2 = 1)
  let ex := c / 2 ^ f.fbits % 2 ^ f.ebits
  let fr := c % 2 ^ f.fbits
  if f.ieee && ex = 2 ^ f.ebits - 1 then (if fr = 0 then .inf neg else .nan)
  else if !f.ieee && c % f.signBit = f.nan then .nan
  else if ex = 0 then .num neg (if ftz then 0 else fr) (1 - (f.bias : Int) - f.fbits)
  else .num neg (2 ^ f.fbits + fr) ((ex : Int) - f.bias - f.fbits)

/-- Whether the rounding of n + rem/den goes up in magnitude (R130). -/
def roundsUp (mode : Rnd) (neg : Bool) (n rem den : Nat) : Bool :=
  match mode with
  | .rne => den < 2 * rem || (2 * rem = den && n % 2 = 1)
  | .rz => false
  | .ru => !neg && 0 < rem
  | .rd => neg && 0 < rem

/-- The code of an infinite or overflowing result (R130). -/
def Fmt.overflow (f : Fmt) (mode : Rnd) (sat : Bool) (neg : Bool) : Nat :=
  let s := if neg then f.signBit else 0
  let toMax := sat || (match mode with | .rne => false | .rz => true | .ru => neg | .rd => !neg)
  if toMax then s + f.maxCode else if f.ieee then s + f.infCode else f.nan

/-- The exact magnitude p/q, q > 0, rounded once (R130), with FTZ on the result (R132). -/
def Fmt.roundRat (f : Fmt) (mode : Rnd) (sat ftz : Bool) (neg : Bool) (p q : Nat) : Nat :=
  let s := if neg then f.signBit else 0
  if p = 0 then s
  else
    let e0 : Int := (p.log2 : Int) - q.log2
    -- floor(log2(p/q)) is e0 or e0 - 1
    let ge : Bool := if 0 ≤ e0 then q * 2 ^ e0.toNat ≤ p else q ≤ p * 2 ^ (-e0).toNat
    let e : Int := if ge then e0 else e0 - 1
    let u : Int := max (e - f.fbits) (1 - (f.bias : Int) - f.fbits)
    let num := if 0 ≤ u then p else p * 2 ^ (-u).toNat
    let den := if 0 ≤ u then q * 2 ^ u.toNat else q
    let n := num / den
    let n := if roundsUp mode neg n (num % den) den then n + 1 else n
    let code : Int := (u + f.fbits + f.bias) * (2 ^ f.fbits : Nat) + n - (2 ^ f.fbits : Nat)
    if (f.maxCode : Int) < code then f.overflow mode sat neg
    else if ftz && code < (2 ^ f.fbits : Nat) then s
    else s + code.toNat

/-- A value rounded into a format: an infinity becomes the format's own, NaN in E4M3 without SAT (R130). -/
def Fmt.round (f : Fmt) (mode : Rnd) (sat ftz : Bool) : FVal → Nat
  | .nan => f.nan
  | .inf neg => if sat then (if neg then f.signBit else 0) + f.maxCode
      else if f.ieee then (if neg then f.signBit else 0) + f.infCode else f.nan
  | .num neg m e => if 0 ≤ e then f.roundRat mode sat ftz neg (m * 2 ^ e.toNat) 1
      else f.roundRat mode sat ftz neg m (2 ^ (-e).toNat)

def FVal.isNan : FVal → Bool
  | .nan => true
  | _ => false
def FVal.isInf (neg : Bool) : FVal → Bool
  | .inf n => n = neg
  | _ => false
def FVal.isZero (neg : Bool) : FVal → Bool
  | .num n m _ => n = neg && m = 0
  | _ => false
def FVal.neg : FVal → FVal
  | .nan => .nan
  | .inf n => .inf (!n)
  | .num n m e => .num (!n) m e

/-- A product of inputs is one term (R157). -/
def FVal.mul : FVal → FVal → FVal
  | .nan, _ => .nan
  | _, .nan => .nan
  | .inf a, .inf b => .inf (xor a b)
  | .inf a, .num b m _ => if m = 0 then .nan else .inf (xor a b)
  | .num a m _, .inf b => if m = 0 then .nan else .inf (xor a b)
  | .num a m e, .num b n g => .num (xor a b) (m * n) (e + g)

/-- The lowest exponent among finite terms. -/
def lowExp (ts : List FVal) : Int :=
  ts.foldl (fun lo t => match t with | .num _ _ e => min lo e | _ => lo) 0

/-- The exact sum of finite terms in units of 2^lo. -/
def sumAt (lo : Int) (ts : List FVal) : Int :=
  ts.foldl (fun s t => match t with
    | .num neg m e => s + (if neg then -1 else 1) * ((m * 2 ^ (e - lo).toNat : Nat) : Int)
    | _ => s) 0

/-- The exact sum of terms, special values decided in the order of R157. -/
def sumTerms (mode : Rnd) (ts : List FVal) : FVal :=
  if ts.any FVal.isNan then .nan
  else if ts.any (FVal.isInf true) && ts.any (FVal.isInf false) then .nan
  else if ts.any (FVal.isInf true) then .inf true
  else if ts.any (FVal.isInf false) then .inf false
  else
    let lo := lowExp ts
    let v := sumAt lo ts
    if v = 0 then
      if ts.all (FVal.isZero true) then .num true 0 0
      else if ts.all (FVal.isZero false) then .num false 0 0
      else .num (mode = .rd) 0 0
    else .num (v < 0) v.natAbs lo

/-- What an instruction rounds with: mode, FTZ, SAT (R131, R132, R130). -/
structure FMode where
  rnd : Rnd := .rne
  ftz : Bool := false
  sat : Bool := false
  deriving DecidableEq, Repr

/-- The sum of terms rounded once into f. -/
def Fmt.sum (f : Fmt) (m : FMode) (ts : List FVal) : Nat := f.round m.rnd m.sat m.ftz (sumTerms m.rnd ts)

/-- R173, in any IEEE format. -/
def Fmt.add (f : Fmt) (m : FMode) (a b : Nat) : Nat := f.sum m [f.val m.ftz a, f.val m.ftz b]
def Fmt.sub (f : Fmt) (m : FMode) (a b : Nat) : Nat := f.sum m [f.val m.ftz a, (f.val m.ftz b).neg]
def Fmt.mul (f : Fmt) (m : FMode) (a b : Nat) : Nat := f.sum m [(f.val m.ftz a).mul (f.val m.ftz b)]
/-- R176: d + a·b, or d - a·b. -/
def Fmt.fma (f : Fmt) (m : FMode) (d a b : Nat) : Nat := f.sum m [f.val m.ftz d, (f.val m.ftz a).mul (f.val m.ftz b)]
def Fmt.fms (f : Fmt) (m : FMode) (d a b : Nat) : Nat :=
  f.sum m [f.val m.ftz d, ((f.val m.ftz a).mul (f.val m.ftz b)).neg]

/-- a < b for non-NaN values, -0 below +0 when z says so. -/
def FVal.lt (z : Bool) : FVal → FVal → Bool
  | .nan, _ => false
  | _, .nan => false
  | .inf a, .inf b => a && !b
  | .inf a, .num _ _ _ => a
  | .num _ _ _, .inf b => !b
  | .num a m e, .num b n g =>
    let lo := min e g
    let x : Int := (if a then -1 else 1) * ((m * 2 ^ (e - lo).toNat : Nat) : Int)
    let y : Int := (if b then -1 else 1) * ((n * 2 ^ (g - lo).toNat : Nat) : Int)
    x < y || (z && x = 0 && y = 0 && a && !b)

/-- A code with its subnormals read as zeros of their sign under FTZ. -/
def Fmt.flush (f : Fmt) (ftz : Bool) (c : Nat) : Nat :=
  if ftz && c % f.signBit < 2 ^ f.fbits then c / f.signBit * f.signBit else c

/-- R174: minimumNumber and maximumNumber. -/
def Fmt.minNum (f : Fmt) (ftz : Bool) (a b : Nat) : Nat :=
  let x := f.val ftz a
  let y := f.val ftz b
  if x.isNan && y.isNan then f.nan else if x.isNan then f.flush ftz b else if y.isNan then f.flush ftz a
  else if y.lt true x then f.flush ftz b else f.flush ftz a
def Fmt.maxNum (f : Fmt) (ftz : Bool) (a b : Nat) : Nat :=
  let x := f.val ftz a
  let y := f.val ftz b
  if x.isNan && y.isNan then f.nan else if x.isNan then f.flush ftz b else if y.isNan then f.flush ftz a
  else if x.lt true y then f.flush ftz b else f.flush ftz a

/-- A word of a code, and a code of a word. -/
def w32 (n : Nat) : Word := BitVec.ofNat 32 n

/-- R177. -/
def fFdot2 (m : FMode) (d a b : Word) : Word :=
  let v (x : Word) (i : Nat) := bf16.val m.ftz (bits x.toNat (16 * i + 15) (16 * i))
  w32 (fp32.sum m [fp32.val m.ftz d.toNat, (v a 0).mul (v b 0), (v a 1).mul (v b 1)])

/-- R175. -/
def fFabs (a : Word) : Word := a &&& 0x7FFFFFFF#32
def fFneg (a : Word) : Word := a ^^^ 0x80000000#32
def fFcopysign (a b : Word) : Word := (a &&& 0x7FFFFFFF#32) ||| (b &&& 0x80000000#32)

/-- R182: an operation on both elements of a pair. -/
def packed2 (g : Nat → Nat → Nat → Nat) (d a b : Word) : Word :=
  w32 (g (bits d.toNat 15 0) (bits a.toNat 15 0) (bits b.toNat 15 0)
    + 65536 * g (bits d.toNat 31 16) (bits a.toNat 31 16) (bits b.toNat 31 16))

/-- R183: one part of a complex result: d + s1·p·q + s2·r·t. -/
def cplxPart (m : FMode) (d : Option Word) (s1 : Bool) (p q : Word) (s2 : Bool) (r t : Word) : Word :=
  let v (x : Word) := fp32.val m.ftz x.toNat
  let t1 := (v p).mul (v q)
  let t2 := (v r).mul (v t)
  w32 (fp32.sum m ((match d with | none => [] | some x => [v x]) ++ [if s1 then t1.neg else t1, if s2 then t2.neg else t2]))

/-- An exact value rounded to an integer (R184, R189). -/
def roundInt (mode : Rnd) (neg : Bool) (m : Nat) (e : Int) : Int :=
  let num := if 0 ≤ e then m * 2 ^ e.toNat else m
  let den := if 0 ≤ e then 1 else 2 ^ (-e).toNat
  let n := num / den
  let n := if roundsUp mode neg n (num % den) den then n + 1 else n
  if neg then -(n : Int) else n

/-- R184: to an integer in lo..hi; NaN gives 0. -/
def fToInt (m : FMode) (lo hi : Int) (a : Word) : Word :=
  match fp32.val m.ftz a.toNat with
  | .nan => 0
  | .inf neg => BitVec.ofInt 32 (if neg then lo else hi)
  | .num neg n e => BitVec.ofInt 32 (clamp (roundInt m.rnd neg n e) lo hi)

/-- R185: an integer to FP32. -/
def fOfInt (rnd : Rnd) (v : Int) : Word := w32 (fp32.roundRat rnd false false (v < 0) v.natAbs 1)

/-- R186, R187: an FP32 code into a narrower format. -/
def narrow (f : Fmt) (m : FMode) (a : Word) : Nat := f.round m.rnd m.sat m.ftz (fp32.val m.ftz a.toNat)
def fF2x (f : Fmt) (m : FMode) (a b : Word) : Word := w32 (narrow f m a + 65536 * narrow f m b)
/-- R187: E4M3 and E5M2 know no FTZ. -/
def fF2e (f : Fmt) (m : FMode) (d a b : Word) : Word :=
  shiftIn d (narrow f { m with ftz := false } a) (narrow f { m with ftz := false } b)
/-- R186, R187: exactly to FP32; a narrow subnormal is read as zero under FTZ. -/
def fX2f (f : Fmt) (ftz : Bool) (c : Nat) : Word := w32 (fp32.round .rne false false (f.val ftz c))

/-- R189. -/
def fFrnd (m : FMode) (a : Word) : Word :=
  match fp32.val m.ftz a.toNat with
  | .nan => w32 fp32.nan
  | .inf _ => a
  | .num neg n e =>
    if 0 ≤ e then a
    else
      let v := roundInt m.rnd neg n e
      w32 (fp32.roundRat .rne false false neg v.natAbs 1)

/-- An SC9 scale (R135): none for a NaN scale, else its value as m · 2^e. -/
def sc9Val (sc : Nat) : FVal :=
  let e := bits sc 8 1
  if e = 0 then .num false 0 0 else if e = 255 then .nan else .num false (2 + sc % 2) ((e : Int) - 128)

/-- R191. -/
def fDqnt (m : FMode) (a b : Word) : Word :=
  let x : FVal := .num (a.toInt < 0) a.toInt.natAbs 0
  match sc9Val (bits b.toNat 8 0) with
  | .nan => w32 fp32.nan
  | .num _ 0 _ => 0
  | s => w32 (fp32.sum m [x.mul s])

/-- R144: the random value of a seed and an index. -/
def hash32 (seed idx : Nat) : Nat :=
  let x : Word := BitVec.ofNat 32 seed ^^^ BitVec.ofNat 32 (idx * 0x9E3779B9)
  let x := x ^^^ (x >>> 16)
  let x := x * 0x7FEB352D#32
  let x := x ^^^ (x >>> 15)
  let x := x * 0x846CA68B#32
  (x ^^^ (x >>> 16)).toNat

/-- R190: the smallest SC9 code with e in 1..254 whose value is at least amax/Q, amax = m · 2^e > 0. Codes 2 to 509 rise
with their values. -/
def qntScale (m : Nat) (e : Int) (q : Nat) : Nat :=
  let ge (sc : Nat) : Bool :=
    let sm := 2 + sc % 2
    let se : Int := (sc / 2 : Nat) - 128
    -- sm · 2^se · q ≥ m · 2^e
    let lo := min se e
    m * 2 ^ (e - lo).toNat ≤ sm * 2 ^ (se - lo).toNat * q
  ((span 2 508).find? ge).getD 509

/-- R190: one element, x = a / s exact, rounded and clamped. -/
def qntElem (stoch : Bool) (seed idx q sc : Nat) (neg : Bool) (m : Nat) (e : Int) : Int :=
  let sm := 2 + sc % 2
  let se : Int := (sc / 2 : Nat) - 128
  let d := e - se
  let num := if 0 ≤ d then m * 2 ^ d.toNat else m
  let den := (if 0 ≤ d then 1 else 2 ^ (-d).toNat) * sm
  let v : Int :=
    if stoch then
      let x : Int := if neg then -(num : Int) else num
      let fl := x / (den : Int)
      let frac := (x - fl * den).toNat
      if hash32 seed idx * den < frac * 2 ^ 32 then fl + 1 else fl
    else
      let n := num / den
      let n := if roundsUp .rne neg n (num % den) den then n + 1 else n
      if neg then -(n : Int) else n
  clamp v (-(q : Int)) q

end Sys2Proof.Machine
end

