-- ==== Sys2Proof/WellFormed.lean ====
section
/-! DEFINITION. Well-formed instructions: every operand fits its field of the native encoding (R86 to R107). The
checks that need the thread's flight (R35) or the whole block (R103, R105, R107) stand in Machine/Legal.lean. -/

namespace Sys2Proof

set_option Elab.async false

/-- A native source code (R88): v0 to v119, or w1 to w8. -/
def Opnd.wf : Opnd → Bool
  | .reg n => n < 120
  | .win k => 1 ≤ k && k ≤ 8

/-- A native destination code (R88): v0 to v119, or the transient destination. -/
def Dst.wf : Dst → Bool
  | .reg n => n < 120
  | .trans => true

/-- CALL's link register (R342): codes 120 to 127 are illegal. -/
def Dst.wfLink : Dst → Bool
  | .reg n => n < 120
  | .trans => false

/-- Sizes that a store may carry (R96). -/
def Size.storable : Size → Bool
  | .s8 | .s16 => false
  | _ => true

/-- Codes of R96. -/
def Scope.code : Scope → Nat
  | .wave => 0 | .group => 1 | .die => 2 | .module => 3 | .domain => 4

/-- HINT MOD policy (R102): 0 keeps the target's own, 1 to 3 are NL1, STRM and NA; DEF cannot be written. -/
def hpolWf : Option CPol → Bool
  | some .dflt => false
  | _ => true

/-- The instruction is encodable: its word is one that decodes to it. Device events have no encoding. -/
def Instr.wf : Instr → Bool
  | .hintImm _ => true
  | .hintOff _ => true
  | .hintMod _ pol _ _ _ => hpolWf pol
  | .hintPrio p => p < 4
  | .pblk c n _ => c.wf && (1 ≤ n && n ≤ 8)
  | .bra _ _ => true
  | .brz _ a _ => a.wf
  | .brnz _ a _ => a.wf
  | .call _ l _ => l.wfLink
  | .brx _ a => a.wf
  | .ret _ a => a.wf
  | .callx _ d a => d.wf && a.wf
  | .nop _ => true
  | .exit _ => true
  | .trap _ a => a.wf
  | .syscall d a b => d.wf && a.wf && b.wf
  | .bkpt _ => true
  | .iflush => true
  | .join _ n => n < 8
  | .jset _ n b => n < 8 && b.wf
  | .jget _ d n => d.wf && n < 8
  | .jleave _ n => n < 8
  | .sread _ d _ => d.wf
  | .swrite _ _ b => b.wf
  | .iadd _ d a b => d.wf && a.wf && b.wf
  | .isub _ d a b => d.wf && a.wf && b.wf
  | .iadds _ d a b => d.wf && a.wf && b.wf
  | .isubs _ d a b => d.wf && a.wf && b.wf
  | .uadds _ d a b => d.wf && a.wf && b.wf
  | .usubs _ d a b => d.wf && a.wf && b.wf
  | .imin _ d a b => d.wf && a.wf && b.wf
  | .imax _ d a b => d.wf && a.wf && b.wf
  | .umin _ d a b => d.wf && a.wf && b.wf
  | .umax _ d a b => d.wf && a.wf && b.wf
  | .iabs _ d a => d.wf && a.wf
  | .ineg _ d a => d.wf && a.wf
  | .idiff _ d a b => d.wf && a.wf && b.wf
  | .and _ d a b => d.wf && a.wf && b.wf
  | .or _ d a b => d.wf && a.wf && b.wf
  | .xor _ d a b => d.wf && a.wf && b.wf
  | .andn _ d a b => d.wf && a.wf && b.wf
  | .orn _ d a b => d.wf && a.wf && b.wf
  | .xnor _ d a b => d.wf && a.wf && b.wf
  | .not _ d a => d.wf && a.wf
  | .shl _ d a b => d.wf && a.wf && b.wf
  | .shr _ d a b => d.wf && a.wf && b.wf
  | .sar _ d a b => d.wf && a.wf && b.wf
  | .rol _ d a b => d.wf && a.wf && b.wf
  | .ror _ d a b => d.wf && a.wf && b.wf
  | .popc _ d a => d.wf && a.wf
  | .clz _ d a => d.wf && a.wf
  | .ctz _ d a => d.wf && a.wf
  | .brev _ d a => d.wf && a.wf
  | .bfe _ d a b => d.wf && a.wf && b.wf
  | .bfeu _ d a b => d.wf && a.wf && b.wf
  | .bfi _ d a b => d.wf && a.wf && b.wf
  | .bperm _ d a b => d.wf && a.wf && b.wf
  | .bswap _ d a => d.wf && a.wf
  | .imul _ d a b => d.wf && a.wf && b.wf
  | .imulhi _ d a b => d.wf && a.wf && b.wf
  | .umulhi _ d a b => d.wf && a.wf && b.wf
  | .imad _ d a b => d.wf && a.wf && b.wf
  | .umadw _ d a b => d.wf && a.wf && b.wf
  | .imadw _ d a b => d.wf && a.wf && b.wf
  | .idot4 _ d a b => d.wf && a.wf && b.wf
  | .udot4 _ d a b => d.wf && a.wf && b.wf
  | .isetEq _ d a b => d.wf && a.wf && b.wf
  | .isetNe _ d a b => d.wf && a.wf && b.wf
  | .isetLt _ d a b => d.wf && a.wf && b.wf
  | .isetLe _ d a b => d.wf && a.wf && b.wf
  | .isetGt _ d a b => d.wf && a.wf && b.wf
  | .isetGe _ d a b => d.wf && a.wf && b.wf
  | .usetLt _ d a b => d.wf && a.wf && b.wf
  | .usetLe _ d a b => d.wf && a.wf && b.wf
  | .usetGt _ d a b => d.wf && a.wf && b.wf
  | .usetGe _ d a b => d.wf && a.wf && b.wf
  | .sel _ d a b => d.wf && a.wf && b.wf
  | .iaddi _ d a _ => d.wf && a.wf
  | .andi _ d a _ => d.wf && a.wf
  | .ori _ d a _ => d.wf && a.wf
  | .xori _ d a _ => d.wf && a.wf
  | .shli _ d a _ => d.wf && a.wf
  | .shri _ d a _ => d.wf && a.wf
  | .sari _ d a _ => d.wf && a.wf
  | .roli _ d a _ => d.wf && a.wf
  | .rori _ d a _ => d.wf && a.wf
  | .movi _ d _ => d.wf
  | .movhi _ d _ => d.wf
  | .addp _ d a b => d.wf && a.wf && b.wf
  | .addps _ d a b => d.wf && a.wf && b.wf
  | .leap1 _ d a b => d.wf && a.wf && b.wf
  | .leap2 _ d a b => d.wf && a.wf && b.wf
  | .leap3 _ d a b => d.wf && a.wf && b.wf
  | .leap4 _ d a b => d.wf && a.wf && b.wf
  | .subp _ d a b => d.wf && a.wf && b.wf
  | .fadd _ d a b => d.wf && a.wf && b.wf
  | .fsub _ d a b => d.wf && a.wf && b.wf
  | .fmul _ d a b => d.wf && a.wf && b.wf
  | .fmin _ d a b => d.wf && a.wf && b.wf
  | .fmax _ d a b => d.wf && a.wf && b.wf
  | .fabs _ d a => d.wf && a.wf
  | .fneg _ d a => d.wf && a.wf
  | .fcopysign _ d a b => d.wf && a.wf && b.wf
  | .ffma _ d a b => d.wf && a.wf && b.wf
  | .ffms _ d a b => d.wf && a.wf && b.wf
  | .fdot2 _ d a b => d.wf && a.wf && b.wf
  | .fsetEq _ d a b => d.wf && a.wf && b.wf
  | .fsetNe _ d a b => d.wf && a.wf && b.wf
  | .fsetLt _ d a b => d.wf && a.wf && b.wf
  | .fsetLe _ d a b => d.wf && a.wf && b.wf
  | .fsetGt _ d a b => d.wf && a.wf && b.wf
  | .fsetGe _ d a b => d.wf && a.wf && b.wf
  | .fsetUn _ d a b => d.wf && a.wf && b.wf
  | .fclass _ d a => d.wf && a.wf
  | .frcp _ d a => d.wf && a.wf
  | .frsq _ d a => d.wf && a.wf
  | .fsqrt _ d a => d.wf && a.wf
  | .fexp2 _ d a => d.wf && a.wf
  | .flog2 _ d a => d.wf && a.wf
  | .fsin2pi _ d a => d.wf && a.wf
  | .fcos2pi _ d a => d.wf && a.wf
  | .ftanh _ d a => d.wf && a.wf
  | .fdiv _ d a b => d.wf && a.wf && b.wf
  | .hadd2Bf _ d a b => d.wf && a.wf && b.wf
  | .hsub2Bf _ d a b => d.wf && a.wf && b.wf
  | .hmul2Bf _ d a b => d.wf && a.wf && b.wf
  | .hfma2Bf _ d a b => d.wf && a.wf && b.wf
  | .hmin2Bf _ d a b => d.wf && a.wf && b.wf
  | .hmax2Bf _ d a b => d.wf && a.wf && b.wf
  | .hadd2H _ d a b => d.wf && a.wf && b.wf
  | .hsub2H _ d a b => d.wf && a.wf && b.wf
  | .hmul2H _ d a b => d.wf && a.wf && b.wf
  | .hfma2H _ d a b => d.wf && a.wf && b.wf
  | .hmin2H _ d a b => d.wf && a.wf && b.wf
  | .hmax2H _ d a b => d.wf && a.wf && b.wf
  | .cfma _ d a b => d.wf && a.wf && b.wf
  | .cfms _ d a b => d.wf && a.wf && b.wf
  | .cmul _ d a b => d.wf && a.wf && b.wf
  | .f2i _ d a => d.wf && a.wf
  | .f2u _ d a => d.wf && a.wf
  | .i2f _ d a => d.wf && a.wf
  | .u2f _ d a => d.wf && a.wf
  | .f2bf _ d a b => d.wf && a.wf && b.wf
  | .bf2f _ d a => d.wf && a.wf
  | .f2h _ d a b => d.wf && a.wf && b.wf
  | .h2f _ d a => d.wf && a.wf
  | .f2e4 _ d a b => d.wf && a.wf && b.wf
  | .e42f _ d a => d.wf && a.wf
  | .f2e5 _ d a b => d.wf && a.wf && b.wf
  | .e52f _ d a => d.wf && a.wf
  | .qnt _ d a b => d.wf && a.wf && b.wf
  | .dqnt _ d a b => d.wf && a.wf && b.wf
  | .pack8 _ d a b => d.wf && a.wf && b.wf
  | .frnd _ d a => d.wf && a.wf
  | .shflIdx _ d a b => d.wf && a.wf && b.wf
  | .shflUp _ d a b => d.wf && a.wf && b.wf
  | .shflDown _ d a b => d.wf && a.wf && b.wf
  | .shflXor _ d a b => d.wf && a.wf && b.wf
  | .voteAll _ d a => d.wf && a.wf
  | .voteAny _ d a => d.wf && a.wf
  | .voteBallot _ d a => d.wf && a.wf
  | .wredIadd _ d a => d.wf && a.wf
  | .wredImax _ d a => d.wf && a.wf
  | .wredFadd _ d a => d.wf && a.wf
  | .wscanIadd _ d a => d.wf && a.wf
  | .wmatch _ d a => d.wf && a.wf
  | .ld _ d b c _ o _ => d.wf && b.wf && (o ≠ .plain || c = .wave)
  | .st _ d b c z o _ => d.wf && b.wf && (o ≠ .plain || c = .wave) && z.storable
  | .lds _ d b c _ o => d.wf && b.wf && (o ≠ .plain || c = .wave) && c.code ≤ 2
  | .sts _ d b c z o => d.wf && b.wf && (o ≠ .plain || c = .wave) && z.storable && c.code ≤ 2
  | .ldm _ d b n scr pol => d.wf && b.wf && (1 ≤ n && n ≤ 16) && (!scr || pol = .dflt)
  | .stm _ d b n scr pol => d.wf && b.wf && (1 ≤ n && n ≤ 16) && (!scr || pol = .dflt)
  | .ldc _ d b r _ => d.wf && b.wf && (1 ≤ r && r < 16)
  | .pref _ a => a.wf
  | .clock _ d a => d.wf && a.wf
  | .cunlock _ a => a.wf
  | .cflush _ a => a.wf
  | .cclean _ a => a.wf
  | .atom d b a _ => d.wf && b.wf && a.wf
  | .red b a _ => b.wf && a.wf
  | .cas d b a => d.wf && b.wf && a.wf
  | .cas64 d b a => d.wf && b.wf && a.wf
  | .fenceAcq _ _ => true
  | .fenceRel _ => true
  | .fenceAcqrel _ => true
  | .fenceSc _ => true
  | .qfence m => m ≠ 0
  | .ctradd b a rel c => b.wf && a.wf && (rel || c = .wave)
  | .ctrread _ d b c o => d.wf && b.wf && (o || c = .wave)
  | .txbegin _ _ => true
  | .orelse _ _ => true
  | .txend => true
  | .retry => true
  | .txabort a => a.wf
  | .txstat _ d => d.wf
  | .copy dt sl c y _ => dt < 32 && sl < 32 && c.wf && y.wf
  | .gather dt sl c y _ => dt < 32 && sl < 32 && c.wf && y.wf
  | .scatter dt sl c y _ => dt < 32 && sl < 32 && c.wf && y.wf
  | .combine dt sl c y _ => dt < 32 && sl < 32 && c.wf && y.wf
  | .rinit a b => a.wf && b.wf
  | .rfill _ d a => d.wf && a.wf
  | .rfree a b => a.wf && b.wf
  | .rspace _ d a => d.wf && a.wf
  | .rstat _ d a => d.wf && a.wf
  | .launch a => a.wf
  | .mmul bank x y p _ => bank < 4 && x < 32 && y < 32 && p.wf
  | .mstat x p => x < 32 && p.wf
  | .mstream bank x p _ _ => bank < 4 && x < 32 && p.wf
  | .mdrain _ bank x p _ => bank < 4 && x < 32 && p.wf
  | .mzero _ bank p => bank < 4 && p.wf
  | .ttset _ a n => a.wf && n < 32
  | .ttget _ d n => d.wf && n < 32
  | .ttclr _ n => n < 32
  | .markpush a => a.wf
  | .markpop => true
  | .markevt a b => a.wf && b.wf
  | .markstat d => d.wf
  | .glomerWord _ => true
  | .headerTake _ _ => true
  | .launchIntake _ => true
  | .trainArrival _ => true
  | .trainAdmit _ => true
  | .scratchZeroingDone _ _ _ => true
  | .preemptStart _ => true
  | .preemptStopComplete _ _ => true
  | .contextSaveComplete _ _ => true
  | .trainEnd _ _ => true
  | .trainEndReport _ => true
  | .threadWaiting _ _ _ => true
  | .bundleSelect _ _ _ => true
  | .marionetteCompare _ _ _ => true
  | .pageTableWalk _ => true
  | .homeRequest _ => true
  | .answerMoved _ => true
  | .answerResetting _ => true
  | .answerFault _ => true
  | .requestResend _ => true
  | .deferredRefusal _ => true
  | .heldNotice _ => true
  | .publish _ => true
  | .publishConfirm _ => true
  | .widenAnswer _ => true
  | .faultQueueEntry _ => true
  | .trapRecordWrite _ => true
  | .exitRecordWrite _ => true
  | .matrixEntryFront _ _ _ => true
  | .arbiterGrant _ _ => true
  | .passEnd _ _ => true
  | .pairedHoldTimeout _ _ => true
  | .mstatPerform _ _ _ => true
  | .mdrainPerform _ _ _ => true
  | .mzeroPerform _ _ _ => true
  | .operandFetchStop _ _ _ => true
  | .streamerEntryStart _ _ => true
  | .copyGranule _ _ _ => true
  | .copyFault _ _ _ => true
  | .copySync _ _ => true
  | .combineContribution _ => true
  | .combineEntryTimeout _ _ _ => true
  | .combineResend _ _ => true
  | .combineCounterAdd _ _ => true
  | .conflictNotice _ => true
  | .wakeMessage _ => true
  | .solitaryTokenGrant _ => true
  | .tokenTimeout _ => true
  | .linkCrcError _ => true
  | .linkReplay _ _ => true
  | .bridleSend _ => true
  | .bridleReceive _ => true
  | .sequencerMulticast _ => true
  | .kmsg _ => true
  | .map _ => true
  | .revoke _ => true
  | .ack _ => true
  | .commit _ => true
  | .notice _ => true
  | .fqhead _ _ => true
  | .bstail _ _ => true
  | .brhead _ _ => true
  | .cause _ _ => true
  | .controlRegisterWrite _ _ _ => true
  | .queueRegister _ _ => true
  | .queueHalt _ _ => true
  | .queueRun _ _ => true
  | .queueUnregister _ _ => true
  | .crtail _ _ _ => true
  | .descVaToVa _ _ => true
  | .descVaToHost _ _ => true
  | .descHostToVa _ _ => true
  | .descVaToSpar _ _ => true
  | .descFrame _ _ => true
  | .descZero _ _ => true
  | .descriptorEnd _ _ => true
  | .resume _ => true
  | .killThread _ => true
  | .killGroup _ => true
  | .faultFlight _ => true
  | .checkpoint _ => true
  | .retryfault _ => true
  | .failfault _ => true
  | .pcreate _ => true
  | .passign _ => true
  | .prelease _ => true
  | .keyload _ => true
  | .attest _ => true
  | .verify _ => true
  | .enroll _ => true
  | .svnlock _ => true
  | .syscallEcho _ => true
  | .syscallQreg _ => true
  | .syscallQhalt _ => true
  | .syscallMap _ _ => true
  | .syscallUnmap _ => true
  | .syscallWindow _ => true
  | .traceOpen _ => true
  | .traceStop _ => true
  | .traceStatus _ => true
  | .traceClose _ => true
  | .traceRecordWrite _ => true
  | .sampleTimer _ _ => true
  | .passAdvance _ => true
  | .pciePostedWrite _ _ _ _ _ => true
  | .pcieFetchadd _ _ _ _ _ => true
  | .pcieUnsupportedAtomicop _ _ _ _ => true
  | .pcieMemoryRead _ _ _ _ _ => true
  | .functionLevelReset _ _ => true
  | .sparWrite _ => true
  | .vauxGood _ => true
  | .dieJoin _ _ => true
  | .calibrationComplete _ => true
  | .heartbeatTimeout _ => true
  | .warmResetStart _ => true
  | .warmResetDrained _ => true
  | .warmResetDrainTimeout _ => true
  | .warmResetRejoin _ => true
  | .dieLoss _ => true
  | .scrubLine _ _ => true
  | .answerPerformed _ => true
  | .syscallAnswer _ _ => true
  | .dieLogicHang _ => true
  | .dieKernelPreempt _ _ => true
  | .routerReset _ => true
  | .cxlMemRequest _ _ _ => true
  | .portModeChange _ _ => true
  | .checkpointBufferComplete _ => true

/-- The step is a device event of spec/95_what_each_step_holds.md, not an instruction word. -/
def Instr.isEvent : Instr → Bool
  | .headerTake _ _ => true
  | .launchIntake _ => true
  | .trainArrival _ => true
  | .trainAdmit _ => true
  | .scratchZeroingDone _ _ _ => true
  | .preemptStart _ => true
  | .preemptStopComplete _ _ => true
  | .contextSaveComplete _ _ => true
  | .trainEnd _ _ => true
  | .trainEndReport _ => true
  | .threadWaiting _ _ _ => true
  | .bundleSelect _ _ _ => true
  | .marionetteCompare _ _ _ => true
  | .pageTableWalk _ => true
  | .homeRequest _ => true
  | .answerMoved _ => true
  | .answerResetting _ => true
  | .answerFault _ => true
  | .requestResend _ => true
  | .deferredRefusal _ => true
  | .heldNotice _ => true
  | .publish _ => true
  | .publishConfirm _ => true
  | .widenAnswer _ => true
  | .faultQueueEntry _ => true
  | .trapRecordWrite _ => true
  | .exitRecordWrite _ => true
  | .matrixEntryFront _ _ _ => true
  | .arbiterGrant _ _ => true
  | .passEnd _ _ => true
  | .pairedHoldTimeout _ _ => true
  | .mstatPerform _ _ _ => true
  | .mdrainPerform _ _ _ => true
  | .mzeroPerform _ _ _ => true
  | .operandFetchStop _ _ _ => true
  | .streamerEntryStart _ _ => true
  | .copyGranule _ _ _ => true
  | .copyFault _ _ _ => true
  | .copySync _ _ => true
  | .combineContribution _ => true
  | .combineEntryTimeout _ _ _ => true
  | .combineResend _ _ => true
  | .combineCounterAdd _ _ => true
  | .conflictNotice _ => true
  | .wakeMessage _ => true
  | .solitaryTokenGrant _ => true
  | .tokenTimeout _ => true
  | .linkCrcError _ => true
  | .linkReplay _ _ => true
  | .bridleSend _ => true
  | .bridleReceive _ => true
  | .sequencerMulticast _ => true
  | .kmsg _ => true
  | .map _ => true
  | .revoke _ => true
  | .ack _ => true
  | .commit _ => true
  | .notice _ => true
  | .fqhead _ _ => true
  | .bstail _ _ => true
  | .brhead _ _ => true
  | .cause _ _ => true
  | .controlRegisterWrite _ _ _ => true
  | .queueRegister _ _ => true
  | .queueHalt _ _ => true
  | .queueRun _ _ => true
  | .queueUnregister _ _ => true
  | .crtail _ _ _ => true
  | .descVaToVa _ _ => true
  | .descVaToHost _ _ => true
  | .descHostToVa _ _ => true
  | .descVaToSpar _ _ => true
  | .descFrame _ _ => true
  | .descZero _ _ => true
  | .descriptorEnd _ _ => true
  | .resume _ => true
  | .killThread _ => true
  | .killGroup _ => true
  | .faultFlight _ => true
  | .checkpoint _ => true
  | .retryfault _ => true
  | .failfault _ => true
  | .pcreate _ => true
  | .passign _ => true
  | .prelease _ => true
  | .keyload _ => true
  | .attest _ => true
  | .verify _ => true
  | .enroll _ => true
  | .svnlock _ => true
  | .syscallEcho _ => true
  | .syscallQreg _ => true
  | .syscallQhalt _ => true
  | .syscallMap _ _ => true
  | .syscallUnmap _ => true
  | .syscallWindow _ => true
  | .traceOpen _ => true
  | .traceStop _ => true
  | .traceStatus _ => true
  | .traceClose _ => true
  | .traceRecordWrite _ => true
  | .sampleTimer _ _ => true
  | .passAdvance _ => true
  | .pciePostedWrite _ _ _ _ _ => true
  | .pcieFetchadd _ _ _ _ _ => true
  | .pcieUnsupportedAtomicop _ _ _ _ => true
  | .pcieMemoryRead _ _ _ _ _ => true
  | .functionLevelReset _ _ => true
  | .sparWrite _ => true
  | .vauxGood _ => true
  | .dieJoin _ _ => true
  | .calibrationComplete _ => true
  | .heartbeatTimeout _ => true
  | .warmResetStart _ => true
  | .warmResetDrained _ => true
  | .warmResetDrainTimeout _ => true
  | .warmResetRejoin _ => true
  | .dieLoss _ => true
  | .scrubLine _ _ => true
  | .answerPerformed _ => true
  | .syscallAnswer _ _ => true
  | .dieLogicHang _ => true
  | .dieKernelPreempt _ _ => true
  | .routerReset _ => true
  | .cxlMemRequest _ _ _ => true
  | .portModeChange _ _ => true
  | .checkpointBufferComplete _ => true
  | .glomerWord _ => true
  | _ => false

end Sys2Proof
end

