-- ==== Sys2Proof/Decode.lean ====
section
/-! DEFINITION. The decoder of native words (R86 to R110) and of Glomer words (R112 to R114), total on any bits, and
the encoder written from the same tables. A word that is no instruction decodes to none: the machine then takes the
illegal-instruction trap of R111. -/

namespace Sys2Proof

set_option Elab.async false

/-- The 32-bit word whose fields are read, and for a Glomer word the slots GD, GA and GB (R112). -/
structure Fields where
  w : Nat
  virt : Option (Nat × Nat × Nat) := none
  deriving DecidableEq, Repr

/-- Bits hi to lo (R3). -/
def Fields.fld (r : Fields) (hi lo : Nat) : Nat := r.w / 2 ^ lo % 2 ^ (hi + 1 - lo)

/-- Bit lo. -/
def Fields.bit (r : Fields) (lo : Nat) : Bool := r.fld lo lo = 1

/-- S, which a Glomer word ignores (R112). -/
def Fields.s (r : Fields) : Bool := r.virt.isNone && r.bit 31

/-- S is 1 where R107 requires it; Glomer words need none. -/
def Fields.s1 (r : Fields) : Bool := r.virt.isSome || r.bit 31

/-- S is 0 where R103 and R104 require it. -/
def Fields.s0 (r : Fields) : Bool := r.virt.isSome || !r.bit 31

/-- A source operand of native code c (R88). -/
def opndOf (c : Nat) : Opnd := if c < 120 then .reg c else .win (c - 119)

/-- A destination of native code c (R88). -/
def dstOf (c : Nat) : Option Dst := if c < 120 then some (.reg c) else if c = 127 then some .trans else none

/-- A source operand of virtual number n (R113). -/
def vopndOf (n : Nat) : Opnd := if n < 1016 then .reg n else .win (n - 1015)

/-- A destination of virtual number n (R113). -/
def vdstOf (n : Nat) : Option Dst := if n < 1016 then some (.reg n) else if n = 1023 then some .trans else none

/-- The Glomer slots (R112). -/
def Fields.vd (r : Fields) : Nat := (r.virt.getD (0, 0, 0)).1
def Fields.va (r : Fields) : Nat := (r.virt.getD (0, 0, 0)).2.1
def Fields.vb (r : Fields) : Nat := (r.virt.getD (0, 0, 0)).2.2

/-- Slots that a format does not use must be 0 (R114). -/
def Fields.zeroD (r : Fields) : Bool := r.vd = 0
def Fields.zeroA (r : Fields) : Bool := r.va = 0
def Fields.zeroB (r : Fields) : Bool := r.vb = 0
def Fields.zeroDA (r : Fields) : Bool := r.zeroD && r.zeroA
def Fields.zeroDB (r : Fields) : Bool := r.zeroD && r.zeroB
def Fields.zeroAB (r : Fields) : Bool := r.zeroA && r.zeroB
def Fields.zeroDAB (r : Fields) : Bool := r.zeroD && r.zeroA && r.zeroB

/-- A source register: the 7-bit field at lo, or in Glomer form the slot v, the field then being 0 (R114). -/
def Fields.src (r : Fields) (lo v : Nat) : Option Opnd :=
  match r.virt with
  | none => some (opndOf (r.fld (lo + 6) lo))
  | some _ => if r.fld (lo + 6) lo = 0 then some (vopndOf v) else none

/-- A destination register, likewise. -/
def Fields.dst (r : Fields) (lo v : Nat) : Option Dst :=
  match r.virt with
  | none => dstOf (r.fld (lo + 6) lo)
  | some _ => if r.fld (lo + 6) lo = 0 then vdstOf v else none

/-- CALL's link (R342): a register, never a window code and never transient. -/
def Fields.link (r : Fields) (lo v : Nat) : Option Dst :=
  (r.dst lo v).bind fun d => if d = .trans then none else some d

/-- Codes of R96, R98, R100, R102 and R127; none where the table leaves a code unassigned. -/
def scopeOf : Nat → Option Scope
  | 0 => some .wave | 1 => some .group | 2 => some .die | 3 => some .module | 4 => some .domain | _ => none
def sizeOf : Nat → Option Size
  | 0 => some .b8 | 1 => some .b16 | 2 => some .b32 | 3 => some .b64 | 4 => some .b128 | 5 => some .s8
  | 6 => some .s16 | _ => none
def orderOf : Nat → Option MemOrder
  | 0 => some .plain | 1 => some .acqRel | 2 => some .sc | _ => none
def polOf : Nat → Option CPol
  | 0 => some .dflt | 1 => some .nl1 | 2 => some .strm | 3 => some .na | _ => none
def hpolOf : Nat → Option (Option CPol)
  | 0 => some none | 1 => some (some .nl1) | 2 => some (some .strm) | 3 => some (some .na) | _ => none
def atomOf : Nat → Option AtomOp
  | 0 => some .add | 1 => some .min | 2 => some .max | 3 => some .umin | 4 => some .umax | 5 => some .and
  | 6 => some .or | 7 => some .xor | 8 => some .exch | 9 => some .fadd | 10 => some .add64 | 11 => some .exch64
  | _ => none
def rndOf : Nat → Option Rnd
  | 0 => some .rne | 1 => some .rz | 2 => some .ru | 3 => some .rd | _ => none
def sregOf : Nat → Option SReg
  | 0 => some .lane | 1 => some .waveIx | 2 => some .widLo | 3 => some .widHi | 4 => some .field0 | 5 => some .field1
  | 6 => some .field2 | 7 => some .field3 | 8 => some .field4 | 9 => some .field5 | 10 => some .waveW
  | 11 => some .flight | 12 => some .seed | 13 => some .argLo | 14 => some .argHi | 15 => some .prio | _ => none
def swregOf : Nat → Option SWReg
  | 0 => some .round | 1 => some .ftz | _ => none
def drainOf : Nat → Option DrainMode
  | 0 => some .acc | 1 => some .ovr | 2 => some .bf16 | 3 => some .i32 | 4 => some .res | _ => none

/-- The same codes, from the names. -/
def Opnd.code : Opnd → Nat
  | .reg n => n
  | .win k => 119 + k
def Dst.code : Dst → Nat
  | .reg n => n
  | .trans => 127
def Size.code : Size → Nat
  | .b8 => 0 | .b16 => 1 | .b32 => 2 | .b64 => 3 | .b128 => 4 | .s8 => 5 | .s16 => 6
def MemOrder.code : MemOrder → Nat
  | .plain => 0 | .acqRel => 1 | .sc => 2
def CPol.code : CPol → Nat
  | .dflt => 0 | .nl1 => 1 | .strm => 2 | .na => 3
def hpolCode : Option CPol → Nat
  | none => 0
  | some p => p.code
def AtomOp.code : AtomOp → Nat
  | .add => 0 | .min => 1 | .max => 2 | .umin => 3 | .umax => 4 | .and => 5 | .or => 6 | .xor => 7 | .exch => 8
  | .fadd => 9 | .add64 => 10 | .exch64 => 11
def Rnd.code : Rnd → Nat
  | .rne => 0 | .rz => 1 | .ru => 2 | .rd => 3
def SReg.code : SReg → Nat
  | .lane => 0 | .waveIx => 1 | .widLo => 2 | .widHi => 3 | .field0 => 4 | .field1 => 5 | .field2 => 6 | .field3 => 7
  | .field4 => 8 | .field5 => 9 | .waveW => 10 | .flight => 11 | .seed => 12 | .argLo => 13 | .argHi => 14
  | .prio => 15
def SWReg.code : SWReg → Nat
  | .round => 0 | .ftz => 1
def DrainMode.code : DrainMode → Nat
  | .acc => 0 | .ovr => 1 | .bf16 => 2 | .i32 => 3 | .res => 4

/-- Major 0x00 (R109): HINT_IMM, HINT_OFF, HINT_MOD, HINT_PRIO. -/
def major00 (r : Fields) : Option Instr :=
  match r.fld 24 22 with
  | 0 => if r.fld 21 21 = 0 ∧ r.s0 ∧ r.zeroDAB then some (.hintImm (BitVec.ofNat 21 (r.fld 20 0))) else none
  | 1 => if r.s0 ∧ r.zeroDAB then some (.hintOff (BitVec.ofNat 22 (r.fld 21 0))) else none
  | 2 => if r.fld 21 8 = 0 ∧ r.s0 ∧ r.zeroDAB then (hpolOf (r.fld 6 4)).bind fun pol => (rndOf (r.fld 1 0)).bind fun rnd => some (.hintMod (r.bit 7) pol (r.bit 3) (r.bit 2) rnd) else none
  | 3 => if r.fld 21 2 = 0 ∧ r.s0 ∧ r.zeroDAB then some (.hintPrio (r.fld 1 0)) else none
  | _ => none

/-- Major 0x01 (R109): PBLK. -/
def major01 (r : Fields) : Option Instr :=
  if r.fld 6 0 = 0 ∧ r.s0 ∧ r.zeroDB then (r.src 18 r.va).bind fun c => some (.pblk c (r.fld 17 15 + 1) (BitVec.ofNat 8 (r.fld 14 7))) else none

/-- Major 0x02 (R109): BRA. -/
def major02 (r : Fields) : Option Instr :=
  if r.fld 24 18 = 0 ∧ r.zeroDAB then some (.bra r.s (BitVec.ofNat 18 (r.fld 17 0))) else none

/-- Major 0x03 (R109): BRZ. -/
def major03 (r : Fields) : Option Instr :=
  if r.zeroDB then (r.src 18 r.va).bind fun a => some (.brz r.s a (BitVec.ofNat 18 (r.fld 17 0))) else none

/-- Major 0x04 (R109): BRNZ. -/
def major04 (r : Fields) : Option Instr :=
  if r.zeroDB then (r.src 18 r.va).bind fun a => some (.brnz r.s a (BitVec.ofNat 18 (r.fld 17 0))) else none

/-- Major 0x05 (R109): CALL. -/
def major05 (r : Fields) : Option Instr :=
  if r.zeroAB then (r.link 18 r.vd).bind fun l => some (.call r.s l (BitVec.ofNat 18 (r.fld 17 0))) else none

/-- Major 0x06 (R109): BRX, RET, CALLX. -/
def major06 (r : Fields) : Option Instr :=
  match r.fld 3 0 with
  | 0 => if r.fld 10 4 = 0 ∧ r.fld 24 18 = 0 ∧ r.zeroDB then (r.src 11 r.va).bind fun a => some (.brx r.s a) else none
  | 1 => if r.fld 10 4 = 0 ∧ r.fld 24 18 = 0 ∧ r.zeroDB then (r.src 11 r.va).bind fun a => some (.ret r.s a) else none
  | 2 => if r.fld 10 4 = 0 ∧ r.zeroB then (r.dst 18 r.vd).bind fun d => (r.src 11 r.va).bind fun a => some (.callx r.s d a) else none
  | _ => none

/-- Major 0x07 (R109): NOP, EXIT, TRAP, SYSCALL, BKPT, IFLUSH. -/
def major07 (r : Fields) : Option Instr :=
  match r.fld 3 0 with
  | 0 => if r.fld 24 4 = 0 ∧ r.zeroDAB then some (.nop r.s) else none
  | 1 => if r.fld 24 4 = 0 ∧ r.zeroDAB then some (.exit r.s) else none
  | 2 => if r.fld 10 4 = 0 ∧ r.fld 24 18 = 0 ∧ r.zeroDB then (r.src 11 r.va).bind fun a => some (.trap r.s a) else none
  | 3 => if r.s1 then (r.dst 18 r.vd).bind fun d => (r.src 11 r.va).bind fun a => (r.src 4 r.vb).bind fun b => some (.syscall d a b) else none
  | 4 => if r.fld 24 4 = 0 ∧ r.zeroDAB then some (.bkpt r.s) else none
  | 5 => if r.fld 24 4 = 0 ∧ r.s1 ∧ r.zeroDAB then some (.iflush) else none
  | _ => none

/-- Major 0x08 (R109): JOIN, JSET, JGET, JLEAVE. -/
def major08 (r : Fields) : Option Instr :=
  match r.fld 3 0 with
  | 0 => if r.fld 10 4 = 0 ∧ r.fld 24 14 = 0 ∧ r.zeroDAB then some (.join r.s (r.fld 13 11)) else none
  | 1 => if r.fld 24 14 = 0 ∧ r.zeroDA then (r.src 4 r.vb).bind fun b => some (.jset r.s (r.fld 13 11) b) else none
  | 2 => if r.fld 10 4 = 0 ∧ r.fld 17 14 = 0 ∧ r.zeroAB then (r.dst 18 r.vd).bind fun d => some (.jget r.s d (r.fld 13 11)) else none
  | 3 => if r.fld 10 4 = 0 ∧ r.fld 24 14 = 0 ∧ r.zeroDAB then some (.jleave r.s (r.fld 13 11)) else none
  | _ => none

/-- Major 0x09 (R109): SREAD, SWRITE. -/
def major09 (r : Fields) : Option Instr :=
  match r.fld 3 0 with
  | 0 => if r.fld 10 4 = 0 ∧ r.fld 17 15 = 0 ∧ r.zeroAB then (r.dst 18 r.vd).bind fun d => (sregOf (r.fld 14 11)).bind fun c => some (.sread r.s d c) else none
  | 1 => if r.fld 24 12 = 32 ∧ r.zeroDA then (swregOf (r.fld 11 11)).bind fun c => (r.src 4 r.vb).bind fun b => some (.swrite r.s c b) else none
  | _ => none

/-- Major 0x0A (R109): IADD, ISUB, IADDS, ISUBS, UADDS, USUBS, IMIN, IMAX, UMIN, UMAX, IABS, INEG, IDIFF. -/
def major0A (r : Fields) : Option Instr :=
  match r.fld 3 0 with
  | 0 => (r.dst 18 r.vd).bind fun d => (r.src 11 r.va).bind fun a => (r.src 4 r.vb).bind fun b => some (.iadd r.s d a b)
  | 1 => (r.dst 18 r.vd).bind fun d => (r.src 11 r.va).bind fun a => (r.src 4 r.vb).bind fun b => some (.isub r.s d a b)
  | 2 => (r.dst 18 r.vd).bind fun d => (r.src 11 r.va).bind fun a => (r.src 4 r.vb).bind fun b => some (.iadds r.s d a b)
  | 3 => (r.dst 18 r.vd).bind fun d => (r.src 11 r.va).bind fun a => (r.src 4 r.vb).bind fun b => some (.isubs r.s d a b)
  | 4 => (r.dst 18 r.vd).bind fun d => (r.src 11 r.va).bind fun a => (r.src 4 r.vb).bind fun b => some (.uadds r.s d a b)
  | 5 => (r.dst 18 r.vd).bind fun d => (r.src 11 r.va).bind fun a => (r.src 4 r.vb).bind fun b => some (.usubs r.s d a b)
  | 6 => (r.dst 18 r.vd).bind fun d => (r.src 11 r.va).bind fun a => (r.src 4 r.vb).bind fun b => some (.imin r.s d a b)
  | 7 => (r.dst 18 r.vd).bind fun d => (r.src 11 r.va).bind fun a => (r.src 4 r.vb).bind fun b => some (.imax r.s d a b)
  | 8 => (r.dst 18 r.vd).bind fun d => (r.src 11 r.va).bind fun a => (r.src 4 r.vb).bind fun b => some (.umin r.s d a b)
  | 9 => (r.dst 18 r.vd).bind fun d => (r.src 11 r.va).bind fun a => (r.src 4 r.vb).bind fun b => some (.umax r.s d a b)
  | 10 => if r.fld 10 4 = 0 ∧ r.zeroB then (r.dst 18 r.vd).bind fun d => (r.src 11 r.va).bind fun a => some (.iabs r.s d a) else none
  | 11 => if r.fld 10 4 = 0 ∧ r.zeroB then (r.dst 18 r.vd).bind fun d => (r.src 11 r.va).bind fun a => some (.ineg r.s d a) else none
  | 12 => (r.dst 18 r.vd).bind fun d => (r.src 11 r.va).bind fun a => (r.src 4 r.vb).bind fun b => some (.idiff r.s d a b)
  | _ => none

/-- Major 0x0B (R109): AND, OR, XOR, ANDN, ORN, XNOR, NOT. -/
def major0B (r : Fields) : Option Instr :=
  match r.fld 3 0 with
  | 0 => (r.dst 18 r.vd).bind fun d => (r.src 11 r.va).bind fun a => (r.src 4 r.vb).bind fun b => some (.and r.s d a b)
  | 1 => (r.dst 18 r.vd).bind fun d => (r.src 11 r.va).bind fun a => (r.src 4 r.vb).bind fun b => some (.or r.s d a b)
  | 2 => (r.dst 18 r.vd).bind fun d => (r.src 11 r.va).bind fun a => (r.src 4 r.vb).bind fun b => some (.xor r.s d a b)
  | 3 => (r.dst 18 r.vd).bind fun d => (r.src 11 r.va).bind fun a => (r.src 4 r.vb).bind fun b => some (.andn r.s d a b)
  | 4 => (r.dst 18 r.vd).bind fun d => (r.src 11 r.va).bind fun a => (r.src 4 r.vb).bind fun b => some (.orn r.s d a b)
  | 5 => (r.dst 18 r.vd).bind fun d => (r.src 11 r.va).bind fun a => (r.src 4 r.vb).bind fun b => some (.xnor r.s d a b)
  | 6 => if r.fld 10 4 = 0 ∧ r.zeroB then (r.dst 18 r.vd).bind fun d => (r.src 11 r.va).bind fun a => some (.not r.s d a) else none
  | _ => none

/-- Major 0x0C (R109): SHL, SHR, SAR, ROL, ROR. -/
def major0C (r : Fields) : Option Instr :=
  match r.fld 3 0 with
  | 0 => (r.dst 18 r.vd).bind fun d => (r.src 11 r.va).bind fun a => (r.src 4 r.vb).bind fun b => some (.shl r.s d a b)
  | 1 => (r.dst 18 r.vd).bind fun d => (r.src 11 r.va).bind fun a => (r.src 4 r.vb).bind fun b => some (.shr r.s d a b)
  | 2 => (r.dst 18 r.vd).bind fun d => (r.src 11 r.va).bind fun a => (r.src 4 r.vb).bind fun b => some (.sar r.s d a b)
  | 3 => (r.dst 18 r.vd).bind fun d => (r.src 11 r.va).bind fun a => (r.src 4 r.vb).bind fun b => some (.rol r.s d a b)
  | 4 => (r.dst 18 r.vd).bind fun d => (r.src 11 r.va).bind fun a => (r.src 4 r.vb).bind fun b => some (.ror r.s d a b)
  | _ => none

/-- Major 0x0D (R109): POPC, CLZ, CTZ, BREV, BFE, BFEU, BFI, BPERM, BSWAP. -/
def major0D (r : Fields) : Option Instr :=
  match r.fld 3 0 with
  | 0 => if r.fld 10 4 = 0 ∧ r.zeroB then (r.dst 18 r.vd).bind fun d => (r.src 11 r.va).bind fun a => some (.popc r.s d a) else none
  | 1 => if r.fld 10 4 = 0 ∧ r.zeroB then (r.dst 18 r.vd).bind fun d => (r.src 11 r.va).bind fun a => some (.clz r.s d a) else none
  | 2 => if r.fld 10 4 = 0 ∧ r.zeroB then (r.dst 18 r.vd).bind fun d => (r.src 11 r.va).bind fun a => some (.ctz r.s d a) else none
  | 3 => if r.fld 10 4 = 0 ∧ r.zeroB then (r.dst 18 r.vd).bind fun d => (r.src 11 r.va).bind fun a => some (.brev r.s d a) else none
  | 4 => (r.dst 18 r.vd).bind fun d => (r.src 11 r.va).bind fun a => (r.src 4 r.vb).bind fun b => some (.bfe r.s d a b)
  | 5 => (r.dst 18 r.vd).bind fun d => (r.src 11 r.va).bind fun a => (r.src 4 r.vb).bind fun b => some (.bfeu r.s d a b)
  | 6 => (r.dst 18 r.vd).bind fun d => (r.src 11 r.va).bind fun a => (r.src 4 r.vb).bind fun b => some (.bfi r.s d a b)
  | 7 => (r.dst 18 r.vd).bind fun d => (r.src 11 r.va).bind fun a => (r.src 4 r.vb).bind fun b => some (.bperm r.s d a b)
  | 8 => if r.fld 10 4 = 0 ∧ r.zeroB then (r.dst 18 r.vd).bind fun d => (r.src 11 r.va).bind fun a => some (.bswap r.s d a) else none
  | _ => none

/-- Major 0x0E (R109): IMUL, IMULHI, UMULHI, IMAD, UMADW, IMADW, IDOT4, UDOT4. -/
def major0E (r : Fields) : Option Instr :=
  match r.fld 3 0 with
  | 0 => (r.dst 18 r.vd).bind fun d => (r.src 11 r.va).bind fun a => (r.src 4 r.vb).bind fun b => some (.imul r.s d a b)
  | 1 => (r.dst 18 r.vd).bind fun d => (r.src 11 r.va).bind fun a => (r.src 4 r.vb).bind fun b => some (.imulhi r.s d a b)
  | 2 => (r.dst 18 r.vd).bind fun d => (r.src 11 r.va).bind fun a => (r.src 4 r.vb).bind fun b => some (.umulhi r.s d a b)
  | 3 => (r.dst 18 r.vd).bind fun d => (r.src 11 r.va).bind fun a => (r.src 4 r.vb).bind fun b => some (.imad r.s d a b)
  | 4 => (r.dst 18 r.vd).bind fun d => (r.src 11 r.va).bind fun a => (r.src 4 r.vb).bind fun b => some (.umadw r.s d a b)
  | 5 => (r.dst 18 r.vd).bind fun d => (r.src 11 r.va).bind fun a => (r.src 4 r.vb).bind fun b => some (.imadw r.s d a b)
  | 6 => (r.dst 18 r.vd).bind fun d => (r.src 11 r.va).bind fun a => (r.src 4 r.vb).bind fun b => some (.idot4 r.s d a b)
  | 7 => (r.dst 18 r.vd).bind fun d => (r.src 11 r.va).bind fun a => (r.src 4 r.vb).bind fun b => some (.udot4 r.s d a b)
  | _ => none

/-- Major 0x0F (R109): ISET_EQ, ISET_NE, ISET_LT, ISET_LE, ISET_GT, ISET_GE, USET_LT, USET_LE, USET_GT, USET_GE, SEL. -/
def major0F (r : Fields) : Option Instr :=
  match r.fld 3 0 with
  | 0 => (r.dst 18 r.vd).bind fun d => (r.src 11 r.va).bind fun a => (r.src 4 r.vb).bind fun b => some (.isetEq r.s d a b)
  | 1 => (r.dst 18 r.vd).bind fun d => (r.src 11 r.va).bind fun a => (r.src 4 r.vb).bind fun b => some (.isetNe r.s d a b)
  | 2 => (r.dst 18 r.vd).bind fun d => (r.src 11 r.va).bind fun a => (r.src 4 r.vb).bind fun b => some (.isetLt r.s d a b)
  | 3 => (r.dst 18 r.vd).bind fun d => (r.src 11 r.va).bind fun a => (r.src 4 r.vb).bind fun b => some (.isetLe r.s d a b)
  | 4 => (r.dst 18 r.vd).bind fun d => (r.src 11 r.va).bind fun a => (r.src 4 r.vb).bind fun b => some (.isetGt r.s d a b)
  | 5 => (r.dst 18 r.vd).bind fun d => (r.src 11 r.va).bind fun a => (r.src 4 r.vb).bind fun b => some (.isetGe r.s d a b)
  | 6 => (r.dst 18 r.vd).bind fun d => (r.src 11 r.va).bind fun a => (r.src 4 r.vb).bind fun b => some (.usetLt r.s d a b)
  | 7 => (r.dst 18 r.vd).bind fun d => (r.src 11 r.va).bind fun a => (r.src 4 r.vb).bind fun b => some (.usetLe r.s d a b)
  | 8 => (r.dst 18 r.vd).bind fun d => (r.src 11 r.va).bind fun a => (r.src 4 r.vb).bind fun b => some (.usetGt r.s d a b)
  | 9 => (r.dst 18 r.vd).bind fun d => (r.src 11 r.va).bind fun a => (r.src 4 r.vb).bind fun b => some (.usetGe r.s d a b)
  | 10 => (r.dst 18 r.vd).bind fun d => (r.src 11 r.va).bind fun a => (r.src 4 r.vb).bind fun b => some (.sel r.s d a b)
  | _ => none

/-- Major 0x10 (R109): IADDI. -/
def major10 (r : Fields) : Option Instr :=
  if r.zeroB then (r.dst 18 r.vd).bind fun d => (r.src 11 r.va).bind fun a => some (.iaddi r.s d a (BitVec.ofNat 11 (r.fld 10 0))) else none

/-- Major 0x11 (R109): ANDI. -/
def major11 (r : Fields) : Option Instr :=
  if r.zeroB then (r.dst 18 r.vd).bind fun d => (r.src 11 r.va).bind fun a => some (.andi r.s d a (BitVec.ofNat 11 (r.fld 10 0))) else none

/-- Major 0x12 (R109): ORI. -/
def major12 (r : Fields) : Option Instr :=
  if r.zeroB then (r.dst 18 r.vd).bind fun d => (r.src 11 r.va).bind fun a => some (.ori r.s d a (BitVec.ofNat 11 (r.fld 10 0))) else none

/-- Major 0x13 (R109): XORI. -/
def major13 (r : Fields) : Option Instr :=
  if r.zeroB then (r.dst 18 r.vd).bind fun d => (r.src 11 r.va).bind fun a => some (.xori r.s d a (BitVec.ofNat 11 (r.fld 10 0))) else none

/-- Major 0x14 (R109): SHLI, SHRI, SARI, ROLI, RORI. -/
def major14 (r : Fields) : Option Instr :=
  match r.fld 10 8 with
  | 0 => if r.fld 7 5 = 0 ∧ r.zeroB then (r.dst 18 r.vd).bind fun d => (r.src 11 r.va).bind fun a => some (.shli r.s d a (BitVec.ofNat 5 (r.fld 4 0))) else none
  | 1 => if r.fld 7 5 = 0 ∧ r.zeroB then (r.dst 18 r.vd).bind fun d => (r.src 11 r.va).bind fun a => some (.shri r.s d a (BitVec.ofNat 5 (r.fld 4 0))) else none
  | 2 => if r.fld 7 5 = 0 ∧ r.zeroB then (r.dst 18 r.vd).bind fun d => (r.src 11 r.va).bind fun a => some (.sari r.s d a (BitVec.ofNat 5 (r.fld 4 0))) else none
  | 3 => if r.fld 7 5 = 0 ∧ r.zeroB then (r.dst 18 r.vd).bind fun d => (r.src 11 r.va).bind fun a => some (.roli r.s d a (BitVec.ofNat 5 (r.fld 4 0))) else none
  | 4 => if r.fld 7 5 = 0 ∧ r.zeroB then (r.dst 18 r.vd).bind fun d => (r.src 11 r.va).bind fun a => some (.rori r.s d a (BitVec.ofNat 5 (r.fld 4 0))) else none
  | _ => none

/-- Major 0x16 (R109): MOVI. -/
def major16 (r : Fields) : Option Instr :=
  if r.zeroAB then (r.dst 18 r.vd).bind fun d => some (.movi r.s d (BitVec.ofNat 18 (r.fld 17 0))) else none

/-- Major 0x17 (R109): MOVHI. -/
def major17 (r : Fields) : Option Instr :=
  if r.zeroAB then (r.dst 18 r.vd).bind fun d => some (.movhi r.s d (BitVec.ofNat 18 (r.fld 17 0))) else none

/-- Major 0x18 (R109): ADDP, ADDPS, LEAP1, LEAP2, LEAP3, LEAP4, SUBP. -/
def major18 (r : Fields) : Option Instr :=
  match r.fld 3 0 with
  | 0 => (r.dst 18 r.vd).bind fun d => (r.src 11 r.va).bind fun a => (r.src 4 r.vb).bind fun b => some (.addp r.s d a b)
  | 1 => (r.dst 18 r.vd).bind fun d => (r.src 11 r.va).bind fun a => (r.src 4 r.vb).bind fun b => some (.addps r.s d a b)
  | 2 => (r.dst 18 r.vd).bind fun d => (r.src 11 r.va).bind fun a => (r.src 4 r.vb).bind fun b => some (.leap1 r.s d a b)
  | 3 => (r.dst 18 r.vd).bind fun d => (r.src 11 r.va).bind fun a => (r.src 4 r.vb).bind fun b => some (.leap2 r.s d a b)
  | 4 => (r.dst 18 r.vd).bind fun d => (r.src 11 r.va).bind fun a => (r.src 4 r.vb).bind fun b => some (.leap3 r.s d a b)
  | 5 => (r.dst 18 r.vd).bind fun d => (r.src 11 r.va).bind fun a => (r.src 4 r.vb).bind fun b => some (.leap4 r.s d a b)
  | 6 => (r.dst 18 r.vd).bind fun d => (r.src 11 r.va).bind fun a => (r.src 4 r.vb).bind fun b => some (.subp r.s d a b)
  | _ => none

/-- Major 0x19 (R109): FADD, FSUB, FMUL, FMIN, FMAX, FABS, FNEG, FCOPYSIGN. -/
def major19 (r : Fields) : Option Instr :=
  match r.fld 3 0 with
  | 0 => (r.dst 18 r.vd).bind fun d => (r.src 11 r.va).bind fun a => (r.src 4 r.vb).bind fun b => some (.fadd r.s d a b)
  | 1 => (r.dst 18 r.vd).bind fun d => (r.src 11 r.va).bind fun a => (r.src 4 r.vb).bind fun b => some (.fsub r.s d a b)
  | 2 => (r.dst 18 r.vd).bind fun d => (r.src 11 r.va).bind fun a => (r.src 4 r.vb).bind fun b => some (.fmul r.s d a b)
  | 3 => (r.dst 18 r.vd).bind fun d => (r.src 11 r.va).bind fun a => (r.src 4 r.vb).bind fun b => some (.fmin r.s d a b)
  | 4 => (r.dst 18 r.vd).bind fun d => (r.src 11 r.va).bind fun a => (r.src 4 r.vb).bind fun b => some (.fmax r.s d a b)
  | 5 => if r.fld 10 4 = 0 ∧ r.zeroB then (r.dst 18 r.vd).bind fun d => (r.src 11 r.va).bind fun a => some (.fabs r.s d a) else none
  | 6 => if r.fld 10 4 = 0 ∧ r.zeroB then (r.dst 18 r.vd).bind fun d => (r.src 11 r.va).bind fun a => some (.fneg r.s d a) else none
  | 7 => (r.dst 18 r.vd).bind fun d => (r.src 11 r.va).bind fun a => (r.src 4 r.vb).bind fun b => some (.fcopysign r.s d a b)
  | _ => none

/-- Major 0x1A (R109): FFMA, FFMS, FDOT2. -/
def major1A (r : Fields) : Option Instr :=
  match r.fld 3 0 with
  | 0 => (r.dst 18 r.vd).bind fun d => (r.src 11 r.va).bind fun a => (r.src 4 r.vb).bind fun b => some (.ffma r.s d a b)
  | 1 => (r.dst 18 r.vd).bind fun d => (r.src 11 r.va).bind fun a => (r.src 4 r.vb).bind fun b => some (.ffms r.s d a b)
  | 2 => (r.dst 18 r.vd).bind fun d => (r.src 11 r.va).bind fun a => (r.src 4 r.vb).bind fun b => some (.fdot2 r.s d a b)
  | _ => none

/-- Major 0x1B (R109): FSET_EQ, FSET_NE, FSET_LT, FSET_LE, FSET_GT, FSET_GE, FSET_UN, FCLASS. -/
def major1B (r : Fields) : Option Instr :=
  match r.fld 3 0 with
  | 0 => (r.dst 18 r.vd).bind fun d => (r.src 11 r.va).bind fun a => (r.src 4 r.vb).bind fun b => some (.fsetEq r.s d a b)
  | 1 => (r.dst 18 r.vd).bind fun d => (r.src 11 r.va).bind fun a => (r.src 4 r.vb).bind fun b => some (.fsetNe r.s d a b)
  | 2 => (r.dst 18 r.vd).bind fun d => (r.src 11 r.va).bind fun a => (r.src 4 r.vb).bind fun b => some (.fsetLt r.s d a b)
  | 3 => (r.dst 18 r.vd).bind fun d => (r.src 11 r.va).bind fun a => (r.src 4 r.vb).bind fun b => some (.fsetLe r.s d a b)
  | 4 => (r.dst 18 r.vd).bind fun d => (r.src 11 r.va).bind fun a => (r.src 4 r.vb).bind fun b => some (.fsetGt r.s d a b)
  | 5 => (r.dst 18 r.vd).bind fun d => (r.src 11 r.va).bind fun a => (r.src 4 r.vb).bind fun b => some (.fsetGe r.s d a b)
  | 6 => (r.dst 18 r.vd).bind fun d => (r.src 11 r.va).bind fun a => (r.src 4 r.vb).bind fun b => some (.fsetUn r.s d a b)
  | 7 => if r.fld 10 4 = 0 ∧ r.zeroB then (r.dst 18 r.vd).bind fun d => (r.src 11 r.va).bind fun a => some (.fclass r.s d a) else none
  | _ => none

/-- Major 0x1C (R109): FRCP, FRSQ, FSQRT, FEXP2, FLOG2, FSIN2PI, FCOS2PI, FTANH, FDIV. -/
def major1C (r : Fields) : Option Instr :=
  match r.fld 3 0 with
  | 0 => if r.fld 10 4 = 0 ∧ r.zeroB then (r.dst 18 r.vd).bind fun d => (r.src 11 r.va).bind fun a => some (.frcp r.s d a) else none
  | 1 => if r.fld 10 4 = 0 ∧ r.zeroB then (r.dst 18 r.vd).bind fun d => (r.src 11 r.va).bind fun a => some (.frsq r.s d a) else none
  | 2 => if r.fld 10 4 = 0 ∧ r.zeroB then (r.dst 18 r.vd).bind fun d => (r.src 11 r.va).bind fun a => some (.fsqrt r.s d a) else none
  | 3 => if r.fld 10 4 = 0 ∧ r.zeroB then (r.dst 18 r.vd).bind fun d => (r.src 11 r.va).bind fun a => some (.fexp2 r.s d a) else none
  | 4 => if r.fld 10 4 = 0 ∧ r.zeroB then (r.dst 18 r.vd).bind fun d => (r.src 11 r.va).bind fun a => some (.flog2 r.s d a) else none
  | 5 => if r.fld 10 4 = 0 ∧ r.zeroB then (r.dst 18 r.vd).bind fun d => (r.src 11 r.va).bind fun a => some (.fsin2pi r.s d a) else none
  | 6 => if r.fld 10 4 = 0 ∧ r.zeroB then (r.dst 18 r.vd).bind fun d => (r.src 11 r.va).bind fun a => some (.fcos2pi r.s d a) else none
  | 7 => if r.fld 10 4 = 0 ∧ r.zeroB then (r.dst 18 r.vd).bind fun d => (r.src 11 r.va).bind fun a => some (.ftanh r.s d a) else none
  | 8 => (r.dst 18 r.vd).bind fun d => (r.src 11 r.va).bind fun a => (r.src 4 r.vb).bind fun b => some (.fdiv r.s d a b)
  | _ => none

/-- Major 0x1D (R109): HADD2_BF, HSUB2_BF, HMUL2_BF, HFMA2_BF, HMIN2_BF, HMAX2_BF, HADD2_H, HSUB2_H, HMUL2_H, HFMA2_H, HMIN2_H, HMAX2_H. -/
def major1D (r : Fields) : Option Instr :=
  match r.fld 3 0 with
  | 0 => (r.dst 18 r.vd).bind fun d => (r.src 11 r.va).bind fun a => (r.src 4 r.vb).bind fun b => some (.hadd2Bf r.s d a b)
  | 1 => (r.dst 18 r.vd).bind fun d => (r.src 11 r.va).bind fun a => (r.src 4 r.vb).bind fun b => some (.hsub2Bf r.s d a b)
  | 2 => (r.dst 18 r.vd).bind fun d => (r.src 11 r.va).bind fun a => (r.src 4 r.vb).bind fun b => some (.hmul2Bf r.s d a b)
  | 3 => (r.dst 18 r.vd).bind fun d => (r.src 11 r.va).bind fun a => (r.src 4 r.vb).bind fun b => some (.hfma2Bf r.s d a b)
  | 4 => (r.dst 18 r.vd).bind fun d => (r.src 11 r.va).bind fun a => (r.src 4 r.vb).bind fun b => some (.hmin2Bf r.s d a b)
  | 5 => (r.dst 18 r.vd).bind fun d => (r.src 11 r.va).bind fun a => (r.src 4 r.vb).bind fun b => some (.hmax2Bf r.s d a b)
  | 8 => (r.dst 18 r.vd).bind fun d => (r.src 11 r.va).bind fun a => (r.src 4 r.vb).bind fun b => some (.hadd2H r.s d a b)
  | 9 => (r.dst 18 r.vd).bind fun d => (r.src 11 r.va).bind fun a => (r.src 4 r.vb).bind fun b => some (.hsub2H r.s d a b)
  | 10 => (r.dst 18 r.vd).bind fun d => (r.src 11 r.va).bind fun a => (r.src 4 r.vb).bind fun b => some (.hmul2H r.s d a b)
  | 11 => (r.dst 18 r.vd).bind fun d => (r.src 11 r.va).bind fun a => (r.src 4 r.vb).bind fun b => some (.hfma2H r.s d a b)
  | 12 => (r.dst 18 r.vd).bind fun d => (r.src 11 r.va).bind fun a => (r.src 4 r.vb).bind fun b => some (.hmin2H r.s d a b)
  | 13 => (r.dst 18 r.vd).bind fun d => (r.src 11 r.va).bind fun a => (r.src 4 r.vb).bind fun b => some (.hmax2H r.s d a b)
  | _ => none

/-- Major 0x1E (R109): CFMA, CFMS, CMUL. -/
def major1E (r : Fields) : Option Instr :=
  match r.fld 3 0 with
  | 0 => (r.dst 18 r.vd).bind fun d => (r.src 11 r.va).bind fun a => (r.src 4 r.vb).bind fun b => some (.cfma r.s d a b)
  | 1 => (r.dst 18 r.vd).bind fun d => (r.src 11 r.va).bind fun a => (r.src 4 r.vb).bind fun b => some (.cfms r.s d a b)
  | 2 => (r.dst 18 r.vd).bind fun d => (r.src 11 r.va).bind fun a => (r.src 4 r.vb).bind fun b => some (.cmul r.s d a b)
  | _ => none

/-- Major 0x1F (R109): F2I, F2U, I2F, U2F, F2BF, BF2F, F2H, H2F, F2E4, E42F, F2E5, E52F, QNT, DQNT, PACK8, FRND. -/
def major1F (r : Fields) : Option Instr :=
  match r.fld 3 0 with
  | 0 => if r.fld 10 4 = 0 ∧ r.zeroB then (r.dst 18 r.vd).bind fun d => (r.src 11 r.va).bind fun a => some (.f2i r.s d a) else none
  | 1 => if r.fld 10 4 = 0 ∧ r.zeroB then (r.dst 18 r.vd).bind fun d => (r.src 11 r.va).bind fun a => some (.f2u r.s d a) else none
  | 2 => if r.fld 10 4 = 0 ∧ r.zeroB then (r.dst 18 r.vd).bind fun d => (r.src 11 r.va).bind fun a => some (.i2f r.s d a) else none
  | 3 => if r.fld 10 4 = 0 ∧ r.zeroB then (r.dst 18 r.vd).bind fun d => (r.src 11 r.va).bind fun a => some (.u2f r.s d a) else none
  | 4 => (r.dst 18 r.vd).bind fun d => (r.src 11 r.va).bind fun a => (r.src 4 r.vb).bind fun b => some (.f2bf r.s d a b)
  | 5 => if r.fld 10 4 = 0 ∧ r.zeroB then (r.dst 18 r.vd).bind fun d => (r.src 11 r.va).bind fun a => some (.bf2f r.s d a) else none
  | 6 => (r.dst 18 r.vd).bind fun d => (r.src 11 r.va).bind fun a => (r.src 4 r.vb).bind fun b => some (.f2h r.s d a b)
  | 7 => if r.fld 10 4 = 0 ∧ r.zeroB then (r.dst 18 r.vd).bind fun d => (r.src 11 r.va).bind fun a => some (.h2f r.s d a) else none
  | 8 => (r.dst 18 r.vd).bind fun d => (r.src 11 r.va).bind fun a => (r.src 4 r.vb).bind fun b => some (.f2e4 r.s d a b)
  | 9 => if r.fld 10 4 = 0 ∧ r.zeroB then (r.dst 18 r.vd).bind fun d => (r.src 11 r.va).bind fun a => some (.e42f r.s d a) else none
  | 10 => (r.dst 18 r.vd).bind fun d => (r.src 11 r.va).bind fun a => (r.src 4 r.vb).bind fun b => some (.f2e5 r.s d a b)
  | 11 => if r.fld 10 4 = 0 ∧ r.zeroB then (r.dst 18 r.vd).bind fun d => (r.src 11 r.va).bind fun a => some (.e52f r.s d a) else none
  | 12 => (r.dst 18 r.vd).bind fun d => (r.src 11 r.va).bind fun a => (r.src 4 r.vb).bind fun b => some (.qnt r.s d a b)
  | 13 => (r.dst 18 r.vd).bind fun d => (r.src 11 r.va).bind fun a => (r.src 4 r.vb).bind fun b => some (.dqnt r.s d a b)
  | 14 => (r.dst 18 r.vd).bind fun d => (r.src 11 r.va).bind fun a => (r.src 4 r.vb).bind fun b => some (.pack8 r.s d a b)
  | 15 => if r.fld 10 4 = 0 ∧ r.zeroB then (r.dst 18 r.vd).bind fun d => (r.src 11 r.va).bind fun a => some (.frnd r.s d a) else none
  | _ => none

/-- Major 0x20 (R109): SHFL_IDX, SHFL_UP, SHFL_DOWN, SHFL_XOR, VOTE_ALL, VOTE_ANY, VOTE_BALLOT, WRED_IADD, WRED_IMAX, WRED_FADD, WSCAN_IADD, WMATCH. -/
def major20 (r : Fields) : Option Instr :=
  match r.fld 3 0 with
  | 0 => (r.dst 18 r.vd).bind fun d => (r.src 11 r.va).bind fun a => (r.src 4 r.vb).bind fun b => some (.shflIdx r.s d a b)
  | 1 => (r.dst 18 r.vd).bind fun d => (r.src 11 r.va).bind fun a => (r.src 4 r.vb).bind fun b => some (.shflUp r.s d a b)
  | 2 => (r.dst 18 r.vd).bind fun d => (r.src 11 r.va).bind fun a => (r.src 4 r.vb).bind fun b => some (.shflDown r.s d a b)
  | 3 => (r.dst 18 r.vd).bind fun d => (r.src 11 r.va).bind fun a => (r.src 4 r.vb).bind fun b => some (.shflXor r.s d a b)
  | 4 => if r.fld 10 4 = 0 ∧ r.zeroB then (r.dst 18 r.vd).bind fun d => (r.src 11 r.va).bind fun a => some (.voteAll r.s d a) else none
  | 5 => if r.fld 10 4 = 0 ∧ r.zeroB then (r.dst 18 r.vd).bind fun d => (r.src 11 r.va).bind fun a => some (.voteAny r.s d a) else none
  | 6 => if r.fld 10 4 = 0 ∧ r.zeroB then (r.dst 18 r.vd).bind fun d => (r.src 11 r.va).bind fun a => some (.voteBallot r.s d a) else none
  | 7 => if r.fld 10 4 = 0 ∧ r.zeroB then (r.dst 18 r.vd).bind fun d => (r.src 11 r.va).bind fun a => some (.wredIadd r.s d a) else none
  | 8 => if r.fld 10 4 = 0 ∧ r.zeroB then (r.dst 18 r.vd).bind fun d => (r.src 11 r.va).bind fun a => some (.wredImax r.s d a) else none
  | 9 => if r.fld 10 4 = 0 ∧ r.zeroB then (r.dst 18 r.vd).bind fun d => (r.src 11 r.va).bind fun a => some (.wredFadd r.s d a) else none
  | 10 => if r.fld 10 4 = 0 ∧ r.zeroB then (r.dst 18 r.vd).bind fun d => (r.src 11 r.va).bind fun a => some (.wscanIadd r.s d a) else none
  | 11 => if r.fld 10 4 = 0 ∧ r.zeroB then (r.dst 18 r.vd).bind fun d => (r.src 11 r.va).bind fun a => some (.wmatch r.s d a) else none
  | _ => none

/-- Major 0x21 (R109): LD. -/
def major21 (r : Fields) : Option Instr :=
  if r.zeroB then (r.dst 18 r.vd).bind fun d => (r.src 11 r.va).bind fun b => (scopeOf (r.fld 10 8)).bind fun c => (sizeOf (r.fld 7 5)).bind fun z => (orderOf (r.fld 4 3)).bind fun o => (polOf (r.fld 2 0)).bind fun pol => if (o ≠ .plain ∨ c = .wave) then some (.ld r.s d b c z o pol) else none else none

/-- Major 0x22 (R109): ST. -/
def major22 (r : Fields) : Option Instr :=
  if r.zeroB then (r.src 18 r.vd).bind fun d => (r.src 11 r.va).bind fun b => (scopeOf (r.fld 10 8)).bind fun c => (sizeOf (r.fld 7 5)).bind fun z => (orderOf (r.fld 4 3)).bind fun o => (polOf (r.fld 2 0)).bind fun pol => if (o ≠ .plain ∨ c = .wave) ∧ z.storable then some (.st r.s d b c z o pol) else none else none

/-- Major 0x23 (R109): LDS. -/
def major23 (r : Fields) : Option Instr :=
  if r.fld 2 0 = 0 ∧ r.zeroB then (r.dst 18 r.vd).bind fun d => (r.src 11 r.va).bind fun b => (scopeOf (r.fld 10 8)).bind fun c => (sizeOf (r.fld 7 5)).bind fun z => (orderOf (r.fld 4 3)).bind fun o => if (o ≠ .plain ∨ c = .wave) ∧ c.code ≤ 2 then some (.lds r.s d b c z o) else none else none

/-- Major 0x24 (R109): STS. -/
def major24 (r : Fields) : Option Instr :=
  if r.fld 2 0 = 0 ∧ r.zeroB then (r.src 18 r.vd).bind fun d => (r.src 11 r.va).bind fun b => (scopeOf (r.fld 10 8)).bind fun c => (sizeOf (r.fld 7 5)).bind fun z => (orderOf (r.fld 4 3)).bind fun o => if (o ≠ .plain ∨ c = .wave) ∧ z.storable ∧ c.code ≤ 2 then some (.sts r.s d b c z o) else none else none

/-- Major 0x25 (R109): LDM. -/
def major25 (r : Fields) : Option Instr :=
  if r.fld 5 3 = 0 ∧ r.zeroB then (r.dst 18 r.vd).bind fun d => (r.src 11 r.va).bind fun b => (polOf (r.fld 2 0)).bind fun pol => if (r.bit 6 = false ∨ pol = .dflt) then some (.ldm r.s d b (r.fld 10 7 + 1) (r.bit 6) pol) else none else none

/-- Major 0x26 (R109): STM. -/
def major26 (r : Fields) : Option Instr :=
  if r.fld 5 3 = 0 ∧ r.zeroB then (r.src 18 r.vd).bind fun d => (r.src 11 r.va).bind fun b => (polOf (r.fld 2 0)).bind fun pol => if (r.bit 6 = false ∨ pol = .dflt) then some (.stm r.s d b (r.fld 10 7 + 1) (r.bit 6) pol) else none else none

/-- Major 0x27 (R109): LDC. -/
def major27 (r : Fields) : Option Instr :=
  if r.fld 3 0 = 0 ∧ 0 < r.fld 10 7 ∧ r.zeroB then (r.dst 18 r.vd).bind fun d => (r.src 11 r.va).bind fun b => (sizeOf (r.fld 6 4)).bind fun z => some (.ldc r.s d b (r.fld 10 7) z) else none

/-- Major 0x28 (R109): PREF, CLOCK, CUNLOCK, CFLUSH, CCLEAN. -/
def major28 (r : Fields) : Option Instr :=
  match r.fld 3 0 with
  | 0 => if r.fld 10 4 = 0 ∧ r.fld 24 18 = 0 ∧ r.zeroDB then (r.src 11 r.va).bind fun a => some (.pref r.s a) else none
  | 1 => if r.fld 10 4 = 0 ∧ r.zeroB then (r.dst 18 r.vd).bind fun d => (r.src 11 r.va).bind fun a => some (.clock r.s d a) else none
  | 2 => if r.fld 10 4 = 0 ∧ r.fld 24 18 = 0 ∧ r.zeroDB then (r.src 11 r.va).bind fun a => some (.cunlock r.s a) else none
  | 3 => if r.fld 10 4 = 0 ∧ r.fld 24 18 = 0 ∧ r.zeroDB then (r.src 11 r.va).bind fun a => some (.cflush r.s a) else none
  | 4 => if r.fld 10 4 = 0 ∧ r.fld 24 18 = 0 ∧ r.zeroDB then (r.src 11 r.va).bind fun a => some (.cclean r.s a) else none
  | _ => none

/-- Major 0x29 (R109): ATOM. -/
def major29 (r : Fields) : Option Instr :=
  if r.s1 then (r.dst 18 r.vd).bind fun d => (r.src 11 r.va).bind fun b => (r.src 4 r.vb).bind fun a => (atomOf (r.fld 3 0)).bind fun op => some (.atom d b a op) else none

/-- Major 0x2A (R109): RED. -/
def major2A (r : Fields) : Option Instr :=
  if r.fld 24 18 = 0 ∧ r.s1 ∧ r.zeroD then (r.src 11 r.va).bind fun b => (r.src 4 r.vb).bind fun a => (atomOf (r.fld 3 0)).bind fun op => some (.red b a op) else none

/-- Major 0x2B (R109): CAS, CAS64. -/
def major2B (r : Fields) : Option Instr :=
  match r.fld 3 0 with
  | 0 => if r.s1 then (r.dst 18 r.vd).bind fun d => (r.src 11 r.va).bind fun b => (r.src 4 r.vb).bind fun a => some (.cas d b a) else none
  | 1 => if r.s1 then (r.dst 18 r.vd).bind fun d => (r.src 11 r.va).bind fun b => (r.src 4 r.vb).bind fun a => some (.cas64 d b a) else none
  | _ => none

/-- Major 0x2C (R109): FENCE_ACQ, FENCE_REL, FENCE_ACQREL, FENCE_SC. -/
def major2C (r : Fields) : Option Instr :=
  match r.fld 3 0 with
  | 0 => if r.fld 24 7 = 0 ∧ r.zeroDAB then (scopeOf (r.fld 6 4)).bind fun c => some (.fenceAcq r.s c) else none
  | 1 => if r.fld 24 7 = 0 ∧ r.s1 ∧ r.zeroDAB then (scopeOf (r.fld 6 4)).bind fun c => some (.fenceRel c) else none
  | 2 => if r.fld 24 7 = 0 ∧ r.s1 ∧ r.zeroDAB then (scopeOf (r.fld 6 4)).bind fun c => some (.fenceAcqrel c) else none
  | 3 => if r.fld 24 7 = 0 ∧ r.s1 ∧ r.zeroDAB then (scopeOf (r.fld 6 4)).bind fun c => some (.fenceSc c) else none
  | _ => none

/-- Major 0x2D (R109): QFENCE. -/
def major2D (r : Fields) : Option Instr :=
  match r.fld 3 0 with
  | 0 => if r.fld 24 8 = 0 ∧ r.s1 ∧ 0 < r.fld 7 4 ∧ r.zeroDAB then some (.qfence (BitVec.ofNat 4 (r.fld 7 4))) else none
  | _ => none

/-- Major 0x2E (R109): CTRADD. -/
def major2E (r : Fields) : Option Instr :=
  if r.fld 24 18 = 0 ∧ r.s1 ∧ r.zeroD then (r.src 11 r.va).bind fun b => (r.src 4 r.vb).bind fun a => (scopeOf (r.fld 2 0)).bind fun c => if (r.bit 3 ∨ c = .wave) then some (.ctradd b a (r.bit 3) c) else none else none

/-- Major 0x2F (R109): CTRREAD. -/
def major2F (r : Fields) : Option Instr :=
  if r.fld 2 0 = 0 ∧ r.fld 7 4 = 6 ∧ r.zeroB then (r.dst 18 r.vd).bind fun d => (r.src 11 r.va).bind fun b => (scopeOf (r.fld 10 8)).bind fun c => if (r.bit 3 ∨ c = .wave) then some (.ctrread r.s d b c (r.bit 3)) else none else none

/-- Major 0x30 (R109): TXBEGIN. -/
def major30 (r : Fields) : Option Instr :=
  if r.fld 24 18 = 0 ∧ r.zeroDAB then some (.txbegin r.s (BitVec.ofNat 18 (r.fld 17 0))) else none

/-- Major 0x31 (R109): ORELSE. -/
def major31 (r : Fields) : Option Instr :=
  if r.fld 24 18 = 0 ∧ r.zeroDAB then some (.orelse r.s (BitVec.ofNat 18 (r.fld 17 0))) else none

/-- Major 0x32 (R109): TXEND, RETRY, TXABORT, TXSTAT. -/
def major32 (r : Fields) : Option Instr :=
  match r.fld 3 0 with
  | 0 => if r.fld 24 4 = 0 ∧ r.s1 ∧ r.zeroDAB then some (.txend) else none
  | 1 => if r.fld 24 4 = 0 ∧ r.s1 ∧ r.zeroDAB then some (.retry) else none
  | 2 => if r.fld 10 4 = 0 ∧ r.fld 24 18 = 0 ∧ r.s1 ∧ r.zeroDB then (r.src 11 r.va).bind fun a => some (.txabort a) else none
  | 3 => if r.fld 17 4 = 0 ∧ r.zeroAB then (r.dst 18 r.vd).bind fun d => some (.txstat r.s d) else none
  | _ => none

/-- Major 0x33 (R109): COPY. -/
def major33 (r : Fields) : Option Instr :=
  if r.s1 ∧ r.zeroD then (r.src 8 r.va).bind fun c => (r.src 1 r.vb).bind fun y => some (.copy (r.fld 24 20) (r.fld 19 15) c y (r.bit 0)) else none

/-- Major 0x34 (R109): GATHER. -/
def major34 (r : Fields) : Option Instr :=
  if r.s1 ∧ r.zeroD then (r.src 8 r.va).bind fun c => (r.src 1 r.vb).bind fun y => some (.gather (r.fld 24 20) (r.fld 19 15) c y (r.bit 0)) else none

/-- Major 0x35 (R109): SCATTER. -/
def major35 (r : Fields) : Option Instr :=
  if r.s1 ∧ r.zeroD then (r.src 8 r.va).bind fun c => (r.src 1 r.vb).bind fun y => some (.scatter (r.fld 24 20) (r.fld 19 15) c y (r.bit 0)) else none

/-- Major 0x36 (R109): COMBINE. -/
def major36 (r : Fields) : Option Instr :=
  if r.s1 ∧ r.zeroD then (r.src 8 r.va).bind fun c => (r.src 1 r.vb).bind fun y => some (.combine (r.fld 24 20) (r.fld 19 15) c y (r.bit 0)) else none

/-- Major 0x37 (R109): RINIT, RFILL, RFREE, RSPACE, RSTAT. -/
def major37 (r : Fields) : Option Instr :=
  match r.fld 3 0 with
  | 0 => if r.fld 24 18 = 0 ∧ r.s1 ∧ r.zeroD then (r.src 11 r.va).bind fun a => (r.src 4 r.vb).bind fun b => some (.rinit a b) else none
  | 1 => if r.fld 10 4 = 0 ∧ r.zeroB then (r.dst 18 r.vd).bind fun d => (r.src 11 r.va).bind fun a => some (.rfill r.s d a) else none
  | 2 => if r.fld 24 18 = 0 ∧ r.s1 ∧ r.zeroD then (r.src 11 r.va).bind fun a => (r.src 4 r.vb).bind fun b => some (.rfree a b) else none
  | 3 => if r.fld 10 4 = 0 ∧ r.zeroB then (r.dst 18 r.vd).bind fun d => (r.src 11 r.va).bind fun a => some (.rspace r.s d a) else none
  | 4 => if r.fld 10 4 = 0 ∧ r.zeroB then (r.dst 18 r.vd).bind fun d => (r.src 11 r.va).bind fun a => some (.rstat r.s d a) else none
  | _ => none

/-- Major 0x38 (R109): LAUNCH. -/
def major38 (r : Fields) : Option Instr :=
  match r.fld 3 0 with
  | 0 => if r.fld 10 4 = 0 ∧ r.fld 24 18 = 0 ∧ r.s1 ∧ r.zeroDB then (r.src 11 r.va).bind fun a => some (.launch a) else none
  | _ => none

/-- Major 0x39 (R109): MMUL, MSTAT, MSTREAM, MDRAIN, MZERO. -/
def major39 (r : Fields) : Option Instr :=
  match r.fld 5 3 with
  | 0 => if r.fld 0 0 = 0 ∧ r.fld 2 2 = 0 ∧ r.s1 ∧ r.zeroDB then (r.src 6 r.va).bind fun p => some (.mmul (r.fld 24 23) (r.fld 22 18) (r.fld 17 13) p (r.bit 1)) else none
  | 1 => if r.fld 2 0 = 0 ∧ r.fld 17 13 = 0 ∧ r.fld 24 23 = 0 ∧ r.s1 ∧ r.zeroDB then (r.src 6 r.va).bind fun p => some (.mstat (r.fld 22 18) p) else none
  | 2 => if r.fld 2 2 = 0 ∧ r.fld 17 13 = 0 ∧ r.s1 ∧ r.zeroDB then (r.src 6 r.va).bind fun p => some (.mstream (r.fld 24 23) (r.fld 22 18) p (r.bit 1) (r.bit 0)) else none
  | 3 => if r.fld 17 13 = 0 ∧ r.zeroDB then (r.src 6 r.va).bind fun p => (drainOf (r.fld 2 0)).bind fun m => some (.mdrain r.s (r.fld 24 23) (r.fld 22 18) p m) else none
  | 4 => if r.fld 2 0 = 0 ∧ r.fld 22 13 = 0 ∧ r.zeroDB then (r.src 6 r.va).bind fun p => some (.mzero r.s (r.fld 24 23) p) else none
  | _ => none

/-- Major 0x3A (R109): TTSET, TTGET, TTCLR. -/
def major3A (r : Fields) : Option Instr :=
  match r.fld 3 0 with
  | 0 => if r.fld 10 9 = 0 ∧ r.fld 24 18 = 0 ∧ r.zeroDB then (r.src 11 r.va).bind fun a => some (.ttset r.s a (r.fld 8 4)) else none
  | 1 => if r.fld 17 9 = 0 ∧ r.zeroAB then (r.dst 18 r.vd).bind fun d => some (.ttget r.s d (r.fld 8 4)) else none
  | 2 => if r.fld 24 9 = 0 ∧ r.zeroDAB then some (.ttclr r.s (r.fld 8 4)) else none
  | _ => none

/-- Major 0x3B (R109): MARKPUSH, MARKPOP, MARKEVT, MARKSTAT. -/
def major3B (r : Fields) : Option Instr :=
  match r.fld 3 0 with
  | 0 => if r.fld 10 4 = 0 ∧ r.fld 24 18 = 0 ∧ r.s1 ∧ r.zeroDB then (r.src 11 r.va).bind fun a => some (.markpush a) else none
  | 1 => if r.fld 24 4 = 0 ∧ r.s1 ∧ r.zeroDAB then some (.markpop) else none
  | 2 => if r.fld 24 18 = 0 ∧ r.s1 ∧ r.zeroD then (r.src 11 r.va).bind fun a => (r.src 4 r.vb).bind fun b => some (.markevt a b) else none
  | 3 => if r.fld 17 4 = 0 ∧ r.s1 ∧ r.zeroAB then (r.dst 18 r.vd).bind fun d => some (.markstat d) else none
  | _ => none

/-- The instruction that a word's fields make (R109, R110): every pattern is an instruction of the opcode map or
none; none is an illegal-instruction trap. -/
def decodeFields (r : Fields) : Option Instr :=
  match r.fld 30 25 with
  | 0 => major00 r
  | 1 => major01 r
  | 2 => major02 r
  | 3 => major03 r
  | 4 => major04 r
  | 5 => major05 r
  | 6 => major06 r
  | 7 => major07 r
  | 8 => major08 r
  | 9 => major09 r
  | 10 => major0A r
  | 11 => major0B r
  | 12 => major0C r
  | 13 => major0D r
  | 14 => major0E r
  | 15 => major0F r
  | 16 => major10 r
  | 17 => major11 r
  | 18 => major12 r
  | 19 => major13 r
  | 20 => major14 r
  | 22 => major16 r
  | 23 => major17 r
  | 24 => major18 r
  | 25 => major19 r
  | 26 => major1A r
  | 27 => major1B r
  | 28 => major1C r
  | 29 => major1D r
  | 30 => major1E r
  | 31 => major1F r
  | 32 => major20 r
  | 33 => major21 r
  | 34 => major22 r
  | 35 => major23 r
  | 36 => major24 r
  | 37 => major25 r
  | 38 => major26 r
  | 39 => major27 r
  | 40 => major28 r
  | 41 => major29 r
  | 42 => major2A r
  | 43 => major2B r
  | 44 => major2C r
  | 45 => major2D r
  | 46 => major2E r
  | 47 => major2F r
  | 48 => major30 r
  | 49 => major31 r
  | 50 => major32 r
  | 51 => major33 r
  | 52 => major34 r
  | 53 => major35 r
  | 54 => major36 r
  | 55 => major37 r
  | 56 => major38 r
  | 57 => major39 r
  | 58 => major3A r
  | 59 => major3B r
  | _ => none

/-- The instruction of a native word (R86), its 32 bits given as a number. -/
def decodeWord (w : Nat) : Option Instr := decodeFields { w := w % 2 ^ 32 }

/-- The instruction of a Glomer word (R112) through its NATIVE half, and whether H marks it a head; bit 0 must be 0. -/
def decodeGlomer (w : Nat) : Option (Instr × Bool) :=
  if w % 2 = 0 then
    (decodeFields { w := w / 2 ^ 32 % 2 ^ 32, virt := some (w / 2 ^ 22 % 1024, w / 2 ^ 12 % 1024, w / 4 % 1024) }).map
      fun i => (i, decide (w / 2 % 2 = 1))
  else none

/-- An illegal word breaks a placement rule (R107, SUB 6) when it would be an instruction with the other S. -/
def wrongS (w : Nat) : Bool :=
  (decodeWord w).isNone && (decodeWord (if w / 2 ^ 31 % 2 = 1 then w % 2 ^ 31 else w % 2 ^ 31 + 2 ^ 31)).isSome

/-- The little-endian value of bytes (R3). -/
def leValue : List Byte → Nat
  | [] => 0
  | b :: r => b.toNat + 256 * leValue r

/-- n bytes of a value, least significant first (R3). -/
def leBytes : Nat → Nat → List Byte
  | 0, _ => []
  | n + 1, v => BitVec.ofNat 8 v :: leBytes n (v / 256)

/-- Decodes the native word at the front of the bytes (R86), and gives the rest; none where it is no instruction. -/
def decode (bytes : List Byte) : Option (Instr × List Byte) :=
  if bytes.length < 4 then none
  else (decodeWord (leValue (bytes.take 4))).map fun i => (i, bytes.drop 4)

/-- The 32-bit word of a well-formed instruction (R109, R261), as a number. Events have none. -/
def Instr.word : Instr → Nat
  | .hintImm p => 0x0 + p.toNat
  | .hintOff p => 0x400000 + p.toNat
  | .hintMod rov pol sat ftz rnd => 0x800000 + rov.toNat * 128 + (hpolCode pol) * 16 + sat.toNat * 8 + ftz.toNat * 4 + rnd.code
  | .hintPrio p => 0xc00000 + p
  | .pblk c n p => 0x2000000 + c.code * 262144 + (n - 1) * 32768 + p.toNat * 128
  | .bra s disp => 0x4000000 + s.toNat * 2147483648 + disp.toNat
  | .brz s a disp => 0x6000000 + s.toNat * 2147483648 + a.code * 262144 + disp.toNat
  | .brnz s a disp => 0x8000000 + s.toNat * 2147483648 + a.code * 262144 + disp.toNat
  | .call s l disp => 0xa000000 + s.toNat * 2147483648 + l.code * 262144 + disp.toNat
  | .brx s a => 0xc000000 + s.toNat * 2147483648 + a.code * 2048
  | .ret s a => 0xc000001 + s.toNat * 2147483648 + a.code * 2048
  | .callx s d a => 0xc000002 + s.toNat * 2147483648 + d.code * 262144 + a.code * 2048
  | .nop s => 0xe000000 + s.toNat * 2147483648
  | .exit s => 0xe000001 + s.toNat * 2147483648
  | .trap s a => 0xe000002 + s.toNat * 2147483648 + a.code * 2048
  | .syscall d a b => 0x8e000003 + d.code * 262144 + a.code * 2048 + b.code * 16
  | .bkpt s => 0xe000004 + s.toNat * 2147483648
  | .iflush => 0x8e000005
  | .join s n => 0x10000000 + s.toNat * 2147483648 + n * 2048
  | .jset s n b => 0x10000001 + s.toNat * 2147483648 + n * 2048 + b.code * 16
  | .jget s d n => 0x10000002 + s.toNat * 2147483648 + d.code * 262144 + n * 2048
  | .jleave s n => 0x10000003 + s.toNat * 2147483648 + n * 2048
  | .sread s d c => 0x12000000 + s.toNat * 2147483648 + d.code * 262144 + c.code * 2048
  | .swrite s c b => 0x12020001 + s.toNat * 2147483648 + c.code * 2048 + b.code * 16
  | .iadd s d a b => 0x14000000 + s.toNat * 2147483648 + d.code * 262144 + a.code * 2048 + b.code * 16
  | .isub s d a b => 0x14000001 + s.toNat * 2147483648 + d.code * 262144 + a.code * 2048 + b.code * 16
  | .iadds s d a b => 0x14000002 + s.toNat * 2147483648 + d.code * 262144 + a.code * 2048 + b.code * 16
  | .isubs s d a b => 0x14000003 + s.toNat * 2147483648 + d.code * 262144 + a.code * 2048 + b.code * 16
  | .uadds s d a b => 0x14000004 + s.toNat * 2147483648 + d.code * 262144 + a.code * 2048 + b.code * 16
  | .usubs s d a b => 0x14000005 + s.toNat * 2147483648 + d.code * 262144 + a.code * 2048 + b.code * 16
  | .imin s d a b => 0x14000006 + s.toNat * 2147483648 + d.code * 262144 + a.code * 2048 + b.code * 16
  | .imax s d a b => 0x14000007 + s.toNat * 2147483648 + d.code * 262144 + a.code * 2048 + b.code * 16
  | .umin s d a b => 0x14000008 + s.toNat * 2147483648 + d.code * 262144 + a.code * 2048 + b.code * 16
  | .umax s d a b => 0x14000009 + s.toNat * 2147483648 + d.code * 262144 + a.code * 2048 + b.code * 16
  | .iabs s d a => 0x1400000a + s.toNat * 2147483648 + d.code * 262144 + a.code * 2048
  | .ineg s d a => 0x1400000b + s.toNat * 2147483648 + d.code * 262144 + a.code * 2048
  | .idiff s d a b => 0x1400000c + s.toNat * 2147483648 + d.code * 262144 + a.code * 2048 + b.code * 16
  | .and s d a b => 0x16000000 + s.toNat * 2147483648 + d.code * 262144 + a.code * 2048 + b.code * 16
  | .or s d a b => 0x16000001 + s.toNat * 2147483648 + d.code * 262144 + a.code * 2048 + b.code * 16
  | .xor s d a b => 0x16000002 + s.toNat * 2147483648 + d.code * 262144 + a.code * 2048 + b.code * 16
  | .andn s d a b => 0x16000003 + s.toNat * 2147483648 + d.code * 262144 + a.code * 2048 + b.code * 16
  | .orn s d a b => 0x16000004 + s.toNat * 2147483648 + d.code * 262144 + a.code * 2048 + b.code * 16
  | .xnor s d a b => 0x16000005 + s.toNat * 2147483648 + d.code * 262144 + a.code * 2048 + b.code * 16
  | .not s d a => 0x16000006 + s.toNat * 2147483648 + d.code * 262144 + a.code * 2048
  | .shl s d a b => 0x18000000 + s.toNat * 2147483648 + d.code * 262144 + a.code * 2048 + b.code * 16
  | .shr s d a b => 0x18000001 + s.toNat * 2147483648 + d.code * 262144 + a.code * 2048 + b.code * 16
  | .sar s d a b => 0x18000002 + s.toNat * 2147483648 + d.code * 262144 + a.code * 2048 + b.code * 16
  | .rol s d a b => 0x18000003 + s.toNat * 2147483648 + d.code * 262144 + a.code * 2048 + b.code * 16
  | .ror s d a b => 0x18000004 + s.toNat * 2147483648 + d.code * 262144 + a.code * 2048 + b.code * 16
  | .popc s d a => 0x1a000000 + s.toNat * 2147483648 + d.code * 262144 + a.code * 2048
  | .clz s d a => 0x1a000001 + s.toNat * 2147483648 + d.code * 262144 + a.code * 2048
  | .ctz s d a => 0x1a000002 + s.toNat * 2147483648 + d.code * 262144 + a.code * 2048
  | .brev s d a => 0x1a000003 + s.toNat * 2147483648 + d.code * 262144 + a.code * 2048
  | .bfe s d a b => 0x1a000004 + s.toNat * 2147483648 + d.code * 262144 + a.code * 2048 + b.code * 16
  | .bfeu s d a b => 0x1a000005 + s.toNat * 2147483648 + d.code * 262144 + a.code * 2048 + b.code * 16
  | .bfi s d a b => 0x1a000006 + s.toNat * 2147483648 + d.code * 262144 + a.code * 2048 + b.code * 16
  | .bperm s d a b => 0x1a000007 + s.toNat * 2147483648 + d.code * 262144 + a.code * 2048 + b.code * 16
  | .bswap s d a => 0x1a000008 + s.toNat * 2147483648 + d.code * 262144 + a.code * 2048
  | .imul s d a b => 0x1c000000 + s.toNat * 2147483648 + d.code * 262144 + a.code * 2048 + b.code * 16
  | .imulhi s d a b => 0x1c000001 + s.toNat * 2147483648 + d.code * 262144 + a.code * 2048 + b.code * 16
  | .umulhi s d a b => 0x1c000002 + s.toNat * 2147483648 + d.code * 262144 + a.code * 2048 + b.code * 16
  | .imad s d a b => 0x1c000003 + s.toNat * 2147483648 + d.code * 262144 + a.code * 2048 + b.code * 16
  | .umadw s d a b => 0x1c000004 + s.toNat * 2147483648 + d.code * 262144 + a.code * 2048 + b.code * 16
  | .imadw s d a b => 0x1c000005 + s.toNat * 2147483648 + d.code * 262144 + a.code * 2048 + b.code * 16
  | .idot4 s d a b => 0x1c000006 + s.toNat * 2147483648 + d.code * 262144 + a.code * 2048 + b.code * 16
  | .udot4 s d a b => 0x1c000007 + s.toNat * 2147483648 + d.code * 262144 + a.code * 2048 + b.code * 16
  | .isetEq s d a b => 0x1e000000 + s.toNat * 2147483648 + d.code * 262144 + a.code * 2048 + b.code * 16
  | .isetNe s d a b => 0x1e000001 + s.toNat * 2147483648 + d.code * 262144 + a.code * 2048 + b.code * 16
  | .isetLt s d a b => 0x1e000002 + s.toNat * 2147483648 + d.code * 262144 + a.code * 2048 + b.code * 16
  | .isetLe s d a b => 0x1e000003 + s.toNat * 2147483648 + d.code * 262144 + a.code * 2048 + b.code * 16
  | .isetGt s d a b => 0x1e000004 + s.toNat * 2147483648 + d.code * 262144 + a.code * 2048 + b.code * 16
  | .isetGe s d a b => 0x1e000005 + s.toNat * 2147483648 + d.code * 262144 + a.code * 2048 + b.code * 16
  | .usetLt s d a b => 0x1e000006 + s.toNat * 2147483648 + d.code * 262144 + a.code * 2048 + b.code * 16
  | .usetLe s d a b => 0x1e000007 + s.toNat * 2147483648 + d.code * 262144 + a.code * 2048 + b.code * 16
  | .usetGt s d a b => 0x1e000008 + s.toNat * 2147483648 + d.code * 262144 + a.code * 2048 + b.code * 16
  | .usetGe s d a b => 0x1e000009 + s.toNat * 2147483648 + d.code * 262144 + a.code * 2048 + b.code * 16
  | .sel s d a b => 0x1e00000a + s.toNat * 2147483648 + d.code * 262144 + a.code * 2048 + b.code * 16
  | .iaddi s d a imm => 0x20000000 + s.toNat * 2147483648 + d.code * 262144 + a.code * 2048 + imm.toNat
  | .andi s d a imm => 0x22000000 + s.toNat * 2147483648 + d.code * 262144 + a.code * 2048 + imm.toNat
  | .ori s d a imm => 0x24000000 + s.toNat * 2147483648 + d.code * 262144 + a.code * 2048 + imm.toNat
  | .xori s d a imm => 0x26000000 + s.toNat * 2147483648 + d.code * 262144 + a.code * 2048 + imm.toNat
  | .shli s d a n => 0x28000000 + s.toNat * 2147483648 + d.code * 262144 + a.code * 2048 + n.toNat
  | .shri s d a n => 0x28000100 + s.toNat * 2147483648 + d.code * 262144 + a.code * 2048 + n.toNat
  | .sari s d a n => 0x28000200 + s.toNat * 2147483648 + d.code * 262144 + a.code * 2048 + n.toNat
  | .roli s d a n => 0x28000300 + s.toNat * 2147483648 + d.code * 262144 + a.code * 2048 + n.toNat
  | .rori s d a n => 0x28000400 + s.toNat * 2147483648 + d.code * 262144 + a.code * 2048 + n.toNat
  | .movi s d imm => 0x2c000000 + s.toNat * 2147483648 + d.code * 262144 + imm.toNat
  | .movhi s d imm => 0x2e000000 + s.toNat * 2147483648 + d.code * 262144 + imm.toNat
  | .addp s d a b => 0x30000000 + s.toNat * 2147483648 + d.code * 262144 + a.code * 2048 + b.code * 16
  | .addps s d a b => 0x30000001 + s.toNat * 2147483648 + d.code * 262144 + a.code * 2048 + b.code * 16
  | .leap1 s d a b => 0x30000002 + s.toNat * 2147483648 + d.code * 262144 + a.code * 2048 + b.code * 16
  | .leap2 s d a b => 0x30000003 + s.toNat * 2147483648 + d.code * 262144 + a.code * 2048 + b.code * 16
  | .leap3 s d a b => 0x30000004 + s.toNat * 2147483648 + d.code * 262144 + a.code * 2048 + b.code * 16
  | .leap4 s d a b => 0x30000005 + s.toNat * 2147483648 + d.code * 262144 + a.code * 2048 + b.code * 16
  | .subp s d a b => 0x30000006 + s.toNat * 2147483648 + d.code * 262144 + a.code * 2048 + b.code * 16
  | .fadd s d a b => 0x32000000 + s.toNat * 2147483648 + d.code * 262144 + a.code * 2048 + b.code * 16
  | .fsub s d a b => 0x32000001 + s.toNat * 2147483648 + d.code * 262144 + a.code * 2048 + b.code * 16
  | .fmul s d a b => 0x32000002 + s.toNat * 2147483648 + d.code * 262144 + a.code * 2048 + b.code * 16
  | .fmin s d a b => 0x32000003 + s.toNat * 2147483648 + d.code * 262144 + a.code * 2048 + b.code * 16
  | .fmax s d a b => 0x32000004 + s.toNat * 2147483648 + d.code * 262144 + a.code * 2048 + b.code * 16
  | .fabs s d a => 0x32000005 + s.toNat * 2147483648 + d.code * 262144 + a.code * 2048
  | .fneg s d a => 0x32000006 + s.toNat * 2147483648 + d.code * 262144 + a.code * 2048
  | .fcopysign s d a b => 0x32000007 + s.toNat * 2147483648 + d.code * 262144 + a.code * 2048 + b.code * 16
  | .ffma s d a b => 0x34000000 + s.toNat * 2147483648 + d.code * 262144 + a.code * 2048 + b.code * 16
  | .ffms s d a b => 0x34000001 + s.toNat * 2147483648 + d.code * 262144 + a.code * 2048 + b.code * 16
  | .fdot2 s d a b => 0x34000002 + s.toNat * 2147483648 + d.code * 262144 + a.code * 2048 + b.code * 16
  | .fsetEq s d a b => 0x36000000 + s.toNat * 2147483648 + d.code * 262144 + a.code * 2048 + b.code * 16
  | .fsetNe s d a b => 0x36000001 + s.toNat * 2147483648 + d.code * 262144 + a.code * 2048 + b.code * 16
  | .fsetLt s d a b => 0x36000002 + s.toNat * 2147483648 + d.code * 262144 + a.code * 2048 + b.code * 16
  | .fsetLe s d a b => 0x36000003 + s.toNat * 2147483648 + d.code * 262144 + a.code * 2048 + b.code * 16
  | .fsetGt s d a b => 0x36000004 + s.toNat * 2147483648 + d.code * 262144 + a.code * 2048 + b.code * 16
  | .fsetGe s d a b => 0x36000005 + s.toNat * 2147483648 + d.code * 262144 + a.code * 2048 + b.code * 16
  | .fsetUn s d a b => 0x36000006 + s.toNat * 2147483648 + d.code * 262144 + a.code * 2048 + b.code * 16
  | .fclass s d a => 0x36000007 + s.toNat * 2147483648 + d.code * 262144 + a.code * 2048
  | .frcp s d a => 0x38000000 + s.toNat * 2147483648 + d.code * 262144 + a.code * 2048
  | .frsq s d a => 0x38000001 + s.toNat * 2147483648 + d.code * 262144 + a.code * 2048
  | .fsqrt s d a => 0x38000002 + s.toNat * 2147483648 + d.code * 262144 + a.code * 2048
  | .fexp2 s d a => 0x38000003 + s.toNat * 2147483648 + d.code * 262144 + a.code * 2048
  | .flog2 s d a => 0x38000004 + s.toNat * 2147483648 + d.code * 262144 + a.code * 2048
  | .fsin2pi s d a => 0x38000005 + s.toNat * 2147483648 + d.code * 262144 + a.code * 2048
  | .fcos2pi s d a => 0x38000006 + s.toNat * 2147483648 + d.code * 262144 + a.code * 2048
  | .ftanh s d a => 0x38000007 + s.toNat * 2147483648 + d.code * 262144 + a.code * 2048
  | .fdiv s d a b => 0x38000008 + s.toNat * 2147483648 + d.code * 262144 + a.code * 2048 + b.code * 16
  | .hadd2Bf s d a b => 0x3a000000 + s.toNat * 2147483648 + d.code * 262144 + a.code * 2048 + b.code * 16
  | .hsub2Bf s d a b => 0x3a000001 + s.toNat * 2147483648 + d.code * 262144 + a.code * 2048 + b.code * 16
  | .hmul2Bf s d a b => 0x3a000002 + s.toNat * 2147483648 + d.code * 262144 + a.code * 2048 + b.code * 16
  | .hfma2Bf s d a b => 0x3a000003 + s.toNat * 2147483648 + d.code * 262144 + a.code * 2048 + b.code * 16
  | .hmin2Bf s d a b => 0x3a000004 + s.toNat * 2147483648 + d.code * 262144 + a.code * 2048 + b.code * 16
  | .hmax2Bf s d a b => 0x3a000005 + s.toNat * 2147483648 + d.code * 262144 + a.code * 2048 + b.code * 16
  | .hadd2H s d a b => 0x3a000008 + s.toNat * 2147483648 + d.code * 262144 + a.code * 2048 + b.code * 16
  | .hsub2H s d a b => 0x3a000009 + s.toNat * 2147483648 + d.code * 262144 + a.code * 2048 + b.code * 16
  | .hmul2H s d a b => 0x3a00000a + s.toNat * 2147483648 + d.code * 262144 + a.code * 2048 + b.code * 16
  | .hfma2H s d a b => 0x3a00000b + s.toNat * 2147483648 + d.code * 262144 + a.code * 2048 + b.code * 16
  | .hmin2H s d a b => 0x3a00000c + s.toNat * 2147483648 + d.code * 262144 + a.code * 2048 + b.code * 16
  | .hmax2H s d a b => 0x3a00000d + s.toNat * 2147483648 + d.code * 262144 + a.code * 2048 + b.code * 16
  | .cfma s d a b => 0x3c000000 + s.toNat * 2147483648 + d.code * 262144 + a.code * 2048 + b.code * 16
  | .cfms s d a b => 0x3c000001 + s.toNat * 2147483648 + d.code * 262144 + a.code * 2048 + b.code * 16
  | .cmul s d a b => 0x3c000002 + s.toNat * 2147483648 + d.code * 262144 + a.code * 2048 + b.code * 16
  | .f2i s d a => 0x3e000000 + s.toNat * 2147483648 + d.code * 262144 + a.code * 2048
  | .f2u s d a => 0x3e000001 + s.toNat * 2147483648 + d.code * 262144 + a.code * 2048
  | .i2f s d a => 0x3e000002 + s.toNat * 2147483648 + d.code * 262144 + a.code * 2048
  | .u2f s d a => 0x3e000003 + s.toNat * 2147483648 + d.code * 262144 + a.code * 2048
  | .f2bf s d a b => 0x3e000004 + s.toNat * 2147483648 + d.code * 262144 + a.code * 2048 + b.code * 16
  | .bf2f s d a => 0x3e000005 + s.toNat * 2147483648 + d.code * 262144 + a.code * 2048
  | .f2h s d a b => 0x3e000006 + s.toNat * 2147483648 + d.code * 262144 + a.code * 2048 + b.code * 16
  | .h2f s d a => 0x3e000007 + s.toNat * 2147483648 + d.code * 262144 + a.code * 2048
  | .f2e4 s d a b => 0x3e000008 + s.toNat * 2147483648 + d.code * 262144 + a.code * 2048 + b.code * 16
  | .e42f s d a => 0x3e000009 + s.toNat * 2147483648 + d.code * 262144 + a.code * 2048
  | .f2e5 s d a b => 0x3e00000a + s.toNat * 2147483648 + d.code * 262144 + a.code * 2048 + b.code * 16
  | .e52f s d a => 0x3e00000b + s.toNat * 2147483648 + d.code * 262144 + a.code * 2048
  | .qnt s d a b => 0x3e00000c + s.toNat * 2147483648 + d.code * 262144 + a.code * 2048 + b.code * 16
  | .dqnt s d a b => 0x3e00000d + s.toNat * 2147483648 + d.code * 262144 + a.code * 2048 + b.code * 16
  | .pack8 s d a b => 0x3e00000e + s.toNat * 2147483648 + d.code * 262144 + a.code * 2048 + b.code * 16
  | .frnd s d a => 0x3e00000f + s.toNat * 2147483648 + d.code * 262144 + a.code * 2048
  | .shflIdx s d a b => 0x40000000 + s.toNat * 2147483648 + d.code * 262144 + a.code * 2048 + b.code * 16
  | .shflUp s d a b => 0x40000001 + s.toNat * 2147483648 + d.code * 262144 + a.code * 2048 + b.code * 16
  | .shflDown s d a b => 0x40000002 + s.toNat * 2147483648 + d.code * 262144 + a.code * 2048 + b.code * 16
  | .shflXor s d a b => 0x40000003 + s.toNat * 2147483648 + d.code * 262144 + a.code * 2048 + b.code * 16
  | .voteAll s d a => 0x40000004 + s.toNat * 2147483648 + d.code * 262144 + a.code * 2048
  | .voteAny s d a => 0x40000005 + s.toNat * 2147483648 + d.code * 262144 + a.code * 2048
  | .voteBallot s d a => 0x40000006 + s.toNat * 2147483648 + d.code * 262144 + a.code * 2048
  | .wredIadd s d a => 0x40000007 + s.toNat * 2147483648 + d.code * 262144 + a.code * 2048
  | .wredImax s d a => 0x40000008 + s.toNat * 2147483648 + d.code * 262144 + a.code * 2048
  | .wredFadd s d a => 0x40000009 + s.toNat * 2147483648 + d.code * 262144 + a.code * 2048
  | .wscanIadd s d a => 0x4000000a + s.toNat * 2147483648 + d.code * 262144 + a.code * 2048
  | .wmatch s d a => 0x4000000b + s.toNat * 2147483648 + d.code * 262144 + a.code * 2048
  | .ld s d b c z o pol => 0x42000000 + s.toNat * 2147483648 + d.code * 262144 + b.code * 2048 + c.code * 256 + z.code * 32 + o.code * 8 + pol.code
  | .st s d b c z o pol => 0x44000000 + s.toNat * 2147483648 + d.code * 262144 + b.code * 2048 + c.code * 256 + z.code * 32 + o.code * 8 + pol.code
  | .lds s d b c z o => 0x46000000 + s.toNat * 2147483648 + d.code * 262144 + b.code * 2048 + c.code * 256 + z.code * 32 + o.code * 8
  | .sts s d b c z o => 0x48000000 + s.toNat * 2147483648 + d.code * 262144 + b.code * 2048 + c.code * 256 + z.code * 32 + o.code * 8
  | .ldm s d b n scr pol => 0x4a000000 + s.toNat * 2147483648 + d.code * 262144 + b.code * 2048 + (n - 1) * 128 + scr.toNat * 64 + pol.code
  | .stm s d b n scr pol => 0x4c000000 + s.toNat * 2147483648 + d.code * 262144 + b.code * 2048 + (n - 1) * 128 + scr.toNat * 64 + pol.code
  | .ldc s d b r z => 0x4e000000 + s.toNat * 2147483648 + d.code * 262144 + b.code * 2048 + r * 128 + z.code * 16
  | .pref s a => 0x50000000 + s.toNat * 2147483648 + a.code * 2048
  | .clock s d a => 0x50000001 + s.toNat * 2147483648 + d.code * 262144 + a.code * 2048
  | .cunlock s a => 0x50000002 + s.toNat * 2147483648 + a.code * 2048
  | .cflush s a => 0x50000003 + s.toNat * 2147483648 + a.code * 2048
  | .cclean s a => 0x50000004 + s.toNat * 2147483648 + a.code * 2048
  | .atom d b a op => 0xd2000000 + d.code * 262144 + b.code * 2048 + a.code * 16 + op.code
  | .red b a op => 0xd4000000 + b.code * 2048 + a.code * 16 + op.code
  | .cas d b a => 0xd6000000 + d.code * 262144 + b.code * 2048 + a.code * 16
  | .cas64 d b a => 0xd6000001 + d.code * 262144 + b.code * 2048 + a.code * 16
  | .fenceAcq s c => 0x58000000 + s.toNat * 2147483648 + c.code * 16
  | .fenceRel c => 0xd8000001 + c.code * 16
  | .fenceAcqrel c => 0xd8000002 + c.code * 16
  | .fenceSc c => 0xd8000003 + c.code * 16
  | .qfence m => 0xda000000 + m.toNat * 16
  | .ctradd b a rel c => 0xdc000000 + b.code * 2048 + a.code * 16 + rel.toNat * 8 + c.code
  | .ctrread s d b c o => 0x5e000060 + s.toNat * 2147483648 + d.code * 262144 + b.code * 2048 + c.code * 256 + o.toNat * 8
  | .txbegin s disp => 0x60000000 + s.toNat * 2147483648 + disp.toNat
  | .orelse s disp => 0x62000000 + s.toNat * 2147483648 + disp.toNat
  | .txend => 0xe4000000
  | .retry => 0xe4000001
  | .txabort a => 0xe4000002 + a.code * 2048
  | .txstat s d => 0x64000003 + s.toNat * 2147483648 + d.code * 262144
  | .copy dt sl c y k => 0xe6000000 + dt * 1048576 + sl * 32768 + c.code * 256 + y.code * 2 + k.toNat
  | .gather dt sl c y k => 0xe8000000 + dt * 1048576 + sl * 32768 + c.code * 256 + y.code * 2 + k.toNat
  | .scatter dt sl c y k => 0xea000000 + dt * 1048576 + sl * 32768 + c.code * 256 + y.code * 2 + k.toNat
  | .combine dt sl c y k => 0xec000000 + dt * 1048576 + sl * 32768 + c.code * 256 + y.code * 2 + k.toNat
  | .rinit a b => 0xee000000 + a.code * 2048 + b.code * 16
  | .rfill s d a => 0x6e000001 + s.toNat * 2147483648 + d.code * 262144 + a.code * 2048
  | .rfree a b => 0xee000002 + a.code * 2048 + b.code * 16
  | .rspace s d a => 0x6e000003 + s.toNat * 2147483648 + d.code * 262144 + a.code * 2048
  | .rstat s d a => 0x6e000004 + s.toNat * 2147483648 + d.code * 262144 + a.code * 2048
  | .launch a => 0xf0000000 + a.code * 2048
  | .mmul bank x y p pair => 0xf2000000 + bank * 8388608 + x * 262144 + y * 8192 + p.code * 64 + pair.toNat * 2
  | .mstat x p => 0xf2000008 + x * 262144 + p.code * 64
  | .mstream bank x p pair swapf => 0xf2000010 + bank * 8388608 + x * 262144 + p.code * 64 + pair.toNat * 2 + swapf.toNat
  | .mdrain s bank x p m => 0x72000018 + s.toNat * 2147483648 + bank * 8388608 + x * 262144 + p.code * 64 + m.code
  | .mzero s bank p => 0x72000020 + s.toNat * 2147483648 + bank * 8388608 + p.code * 64
  | .ttset s a n => 0x74000000 + s.toNat * 2147483648 + a.code * 2048 + n * 16
  | .ttget s d n => 0x74000001 + s.toNat * 2147483648 + d.code * 262144 + n * 16
  | .ttclr s n => 0x74000002 + s.toNat * 2147483648 + n * 16
  | .markpush a => 0xf6000000 + a.code * 2048
  | .markpop => 0xf6000001
  | .markevt a b => 0xf6000002 + a.code * 2048 + b.code * 16
  | .markstat d => 0xf6000003 + d.code * 262144
  | .glomerWord _ => 0
  | .headerTake _ _ => 0
  | .launchIntake _ => 0
  | .trainArrival _ => 0
  | .trainAdmit _ => 0
  | .scratchZeroingDone _ _ _ => 0
  | .preemptStart _ => 0
  | .preemptStopComplete _ _ => 0
  | .contextSaveComplete _ _ => 0
  | .trainEnd _ _ => 0
  | .trainEndReport _ => 0
  | .threadWaiting _ _ _ => 0
  | .bundleSelect _ _ _ => 0
  | .marionetteCompare _ _ _ => 0
  | .pageTableWalk _ => 0
  | .homeRequest _ => 0
  | .answerMoved _ => 0
  | .answerResetting _ => 0
  | .answerFault _ => 0
  | .requestResend _ => 0
  | .deferredRefusal _ => 0
  | .heldNotice _ => 0
  | .publish _ => 0
  | .publishConfirm _ => 0
  | .widenAnswer _ => 0
  | .faultQueueEntry _ => 0
  | .trapRecordWrite _ => 0
  | .exitRecordWrite _ => 0
  | .matrixEntryFront _ _ _ => 0
  | .arbiterGrant _ _ => 0
  | .passEnd _ _ => 0
  | .pairedHoldTimeout _ _ => 0
  | .mstatPerform _ _ _ => 0
  | .mdrainPerform _ _ _ => 0
  | .mzeroPerform _ _ _ => 0
  | .operandFetchStop _ _ _ => 0
  | .streamerEntryStart _ _ => 0
  | .copyGranule _ _ _ => 0
  | .copyFault _ _ _ => 0
  | .copySync _ _ => 0
  | .combineContribution _ => 0
  | .combineEntryTimeout _ _ _ => 0
  | .combineResend _ _ => 0
  | .combineCounterAdd _ _ => 0
  | .conflictNotice _ => 0
  | .wakeMessage _ => 0
  | .solitaryTokenGrant _ => 0
  | .tokenTimeout _ => 0
  | .linkCrcError _ => 0
  | .linkReplay _ _ => 0
  | .bridleSend _ => 0
  | .bridleReceive _ => 0
  | .sequencerMulticast _ => 0
  | .kmsg _ => 0
  | .map _ => 0
  | .revoke _ => 0
  | .ack _ => 0
  | .commit _ => 0
  | .notice _ => 0
  | .fqhead _ _ => 0
  | .bstail _ _ => 0
  | .brhead _ _ => 0
  | .cause _ _ => 0
  | .controlRegisterWrite _ _ _ => 0
  | .queueRegister _ _ => 0
  | .queueHalt _ _ => 0
  | .queueRun _ _ => 0
  | .queueUnregister _ _ => 0
  | .crtail _ _ _ => 0
  | .descVaToVa _ _ => 0
  | .descVaToHost _ _ => 0
  | .descHostToVa _ _ => 0
  | .descVaToSpar _ _ => 0
  | .descFrame _ _ => 0
  | .descZero _ _ => 0
  | .descriptorEnd _ _ => 0
  | .resume _ => 0
  | .killThread _ => 0
  | .killGroup _ => 0
  | .faultFlight _ => 0
  | .checkpoint _ => 0
  | .retryfault _ => 0
  | .failfault _ => 0
  | .pcreate _ => 0
  | .passign _ => 0
  | .prelease _ => 0
  | .keyload _ => 0
  | .attest _ => 0
  | .verify _ => 0
  | .enroll _ => 0
  | .svnlock _ => 0
  | .syscallEcho _ => 0
  | .syscallQreg _ => 0
  | .syscallQhalt _ => 0
  | .syscallMap _ _ => 0
  | .syscallUnmap _ => 0
  | .syscallWindow _ => 0
  | .traceOpen _ => 0
  | .traceStop _ => 0
  | .traceStatus _ => 0
  | .traceClose _ => 0
  | .traceRecordWrite _ => 0
  | .sampleTimer _ _ => 0
  | .passAdvance _ => 0
  | .pciePostedWrite _ _ _ _ _ => 0
  | .pcieFetchadd _ _ _ _ _ => 0
  | .pcieUnsupportedAtomicop _ _ _ _ => 0
  | .pcieMemoryRead _ _ _ _ _ => 0
  | .functionLevelReset _ _ => 0
  | .sparWrite _ => 0
  | .vauxGood _ => 0
  | .dieJoin _ _ => 0
  | .calibrationComplete _ => 0
  | .heartbeatTimeout _ => 0
  | .warmResetStart _ => 0
  | .warmResetDrained _ => 0
  | .warmResetDrainTimeout _ => 0
  | .warmResetRejoin _ => 0
  | .dieLoss _ => 0
  | .scrubLine _ _ => 0
  | .answerPerformed _ => 0
  | .syscallAnswer _ _ => 0
  | .dieLogicHang _ => 0
  | .dieKernelPreempt _ _ => 0
  | .routerReset _ => 0
  | .cxlMemRequest _ _ _ => 0
  | .portModeChange _ _ => 0
  | .checkpointBufferComplete _ => 0

/-- The bytes of a well-formed native instruction as memory holds them. -/
def encode (i : Instr) : List Byte := leBytes 4 i.word

/-- The instruction that the decoder reads from nbits bits w, numbered as the opcode table numbers them: a native word
of 32 bits, or a Glomer word of 64; none for the events, which have no bits. -/
def decodeTableWord (nbits w : Nat) : Option Instr :=
  if nbits = 0 then none
  else if nbits ≤ 32 then (decode (leBytes 4 w)).map (·.1)
  else if nbits ≤ 64 then some (.glomerWord (BitVec.ofNat 64 w))
  else none

end Sys2Proof
end

