-- ==== Sys2Proof/Machine/State.lean ====
section
/-! DEFINITION. The state of the machine: plain data, everything the spec gives it, and the state after reset.

Maps are finite and keyed by numbers: a die by its die number (R12); a core by die·128 + core; a quad (its engine
and its streamer) by die·32 + quad; a wave slot by core key·8 + slot, a group slot by core key·2^16 + slot; a thread by core key·512 +
thread slot (R56). A key that a map does not list stands for the structure's initial value, given by the fields'
defaults. One list of cells holds every memory (Memory.lean): die d's DRAM or capacity tier at d·2^48 + physical
address, and core c's scratch banks at 2^60 + (core key)·2^18 + byte. -/

namespace Sys2Proof.Machine

set_option Elab.async false

/-! ### Reasons a step can stop -/

/-- Why a step stops with a fault. -/
inductive Fault
  /-- Raised by the meaning of an instruction word when no bundle is in focus: no bundle slot streams, so there is
  no thread for the word to act on. Safe: `step` never executes a word then. -/
  | noBundle
  deriving DecidableEq, Repr

/-- Why a step is refused. -/
inductive Refusal
  /-- Raised by an arm of `exec` that has no meaning yet. Safe: nothing is claimed of it. -/
  | notModelled (mnemonic : String)
  deriving DecidableEq, Repr

/-! ### Small names -/

/-- The life of a die (R403, R425, R426): not joined, running, its logic hung, in warm reset, lost. -/
inductive Life
  | out | up | hung | resetting | lost
  deriving DecidableEq, Repr

/-- Trap kinds (R405), in the order of their codes 0x01 to 0x12. -/
inductive TrapKind
  | illegal | converge | copyRights | scrBound | page | align | tether | span | reel | txCap | txRemote | brk | trap
  | parity | marionette | residue | data | flight
  deriving DecidableEq, Repr

/-- Thread states (R312); `exited` is a thread that EXIT or a kill has taken out of every state. -/
inductive TStat
  | stream | ret | wait | overflow | joinWait | asleep | parked | stopped | exited
  deriving DecidableEq, Repr

/-- How a thread's block ends: on to the next head, in JOIN on a mask (R74), in EXIT (R345), in RETRY (R331), in TXABORT
with its CODE (R338). -/
inductive BlockEnd
  | go | join (mask : Nat) | exit | retry | abort (code : Nat)
  deriving DecidableEq, Repr

/-- Fault-queue kinds (R370): 1 MISS to 6 ADDR. -/
inductive PageFault
  | miss | invalid | perm | lost | ctrPage | addr
  deriving DecidableEq, Repr

/-- Sources of a fault (R370): 0 thread to 4 DMA engine or port. -/
inductive FaultSrc
  | thread | streamer | matrix | dispatcher | dma
  deriving DecidableEq, Repr

/-- What a trap reports (R406, R407): its kind, SUB, the in-block offset and ordinal of the word, the address, the
two details, and whether it is reported at a head after the word's block (DEFER). -/
structure TrapInfo where
  kind : TrapKind
  sub : Nat := 0
  off : Nat := 0
  ord : Nat := 0
  va : Nat := 0
  detail : Nat := 0
  detail2 : Nat := 0
  defer : Bool := false
  /-- The request whose fault it reports, 0 for none (R371). -/
  who : Nat := 0
  /-- Found for a request or an engine entry of the word, which a marionette twin does not make (R81). -/
  asked : Bool := false
  /-- R411; the number of the refused request, 0 for none. -/
  rid : Nat := 0
  deriving DecidableEq, Repr

/-! ### Threads -/

/-- One entry of a transaction's read set (R322): a line of the partition, or a reel by group slot key and header
offset, with the count of changes it had when it was read. -/
inductive ReadEnt
  | line (addr ver : Nat)
  | reel (group hdr ver : Nat)
  deriving DecidableEq, Repr

/-- One open transaction level (R319): its kind, the head of its TXBEGIN or ORELSE, the failure path or the
alternative, the form they are offsets of, the head's ordinal, the checkpoint (R320), the buffered bytes of its write set (R322), whether its
alternative runs, its read entries (R322), the number of its block (R81), and the identity below which requests are older than it. -/
structure Level where
  orelse : Bool := false
  glomer : Bool := false
  no : Nat := 0
  head : Nat := 0
  ord : Nat := 0
  path : Nat := 0
  ckpt : AMap Word := []
  writes : AMap Byte := []
  alt : Bool := false
  reads : List ReadEnt := []
  first : Nat := 0
  deriving DecidableEq, Repr

/-- A store or a request of a block, for the store hash (R451) and the marionette comparison (R83). -/
structure Effect where
  off : Nat := 0
  op : Nat := 0
  addr : Nat := 0
  size : Nat := 0
  data : List Byte := []
  deriving DecidableEq, Repr

/-- A memory-class result that lands at the thread's next head (R68): the word's in-block offset, the destination
register and the words. -/
structure Pend where
  off : Nat := 0
  dst : Dst := .trans
  vals : List Word := []
  deriving DecidableEq, Repr

/-- A knot-table entry that a core has read (R52). -/
structure Knot where
  flight : Nat := 0
  glomer : Bool := false
  off : Nat := 0
  ord : Nat := 0
  noswap : Bool := false
  live : Nat := 0
  deriving DecidableEq, Repr

/-- A block that a marionette leader has streamed and its twin has not yet been compared on (R83): its number, the
load-value queue it holds (R82), its stores, requests and next head, the traps of its TRAP and BKPT words, and what a mismatch
restores (R84, R66): the leader's registers, ROUND, FTZ, release signal and arrival by RET as they stood at the block's head, and the head. -/
structure BlockRec where
  no : Nat := 0
  /-- R126; the form in which the leader streamed it, 1 Glomer. -/
  glomer : Bool := false
  /-- R82, R83; the load-value queue that the block holds, its stores and requests, its next head and the traps of its TRAP and BKPT words. -/
  queue : Nat := 0
  stores : List Effect := []
  sends : List Effect := []
  next : Nat := 0
  late : List TrapInfo := []
  /-- R66, R84; what a mismatch restores: the leader's state at the block's head. -/
  regs : AMap Word := []
  rnd : Rnd := .rne
  ftz : Bool := false
  sig : Option Scope := none
  viaRet : Bool := false
  knot : Knot := {}
  wgen : Option (Nat × Nat) := none
  deriving DecidableEq, Repr

/-- One resident thread. Every reset value is the value at admission (R34), since no thread is resident at reset. -/
structure Thread where
  /-- R312; the thread state; starts in `ret`, on its way to the entry head. -/
  stat : TStat := .ret
  /-- R112; form of the text the thread runs, 1 Glomer; R126: it has moved to native form. -/
  glomer : Bool := false
  swapped : Bool := false
  /-- R35, R113; registers v1 to v119, 32 bits each, and in Glomer form the spill slots; unlisted reads 0 (R34). -/
  regs : AMap Word := []
  /-- R66; the registers as they stood on arrival at the block's head. -/
  headRegs : AMap Word := []
  /-- R127; default rounding, 2 bits; RNE at launch. -/
  rnd : Rnd := .rne
  /-- R127; default FTZ, 1 bit; 0 at launch. -/
  ftz : Bool := false
  /-- R66; ROUND and FTZ as they stood at the block's head (DEDUCED, log 9). -/
  headRnd : Rnd := .rne
  headFtz : Bool := false
  /-- R59; selection boost, 0 to 3; 0 at launch. -/
  boost : Nat := 0
  /-- R49; code offset and ordinal of the head of the current block, 32 bits each. -/
  head : Nat := 0
  ord : Nat := 0
  /-- R50; in-block offset of the next word, 0 to 64. -/
  off : Nat := 0
  /-- R342; code offset of the next head, and whether RET reaches it (R437). -/
  next : Nat := 0
  viaRet : Bool := false
  /-- R52; the knot-table entry of the head that the thread has reached. -/
  ahead : Knot := {}
  /-- R52; the knot-table entry of the head of the current block. -/
  here : Knot := {}
  /-- R437; RET reached the head of the current block. -/
  headRet : Bool := false
  /-- R49; how the current block ends, and whether its last word carried S = 1 (R69). -/
  bend : BlockEnd := .go
  /-- R75; the release that the lane belongs to once its mask has released. -/
  jgen : Option Nat := none
  /-- R223, R226; the mask and the release of the wave bundle that streams the thread's block, where a word of the block needs one:
  lanes that go back to the block's head together form it again (DEDUCED, log 33). -/
  wgen : Option (Nat × Nat) := none
  sEnd : Bool := false
  /-- R70; the forwarding window, newest first: the destination value of each earlier word, none without one. -/
  win : List (Option (List Word)) := []
  /-- R102; the pending hints of the next non-HINT word. -/
  hImm : Option (BitVec 21) := none
  hOff : Option (BitVec 22) := none
  hRnd : Option Rnd := none
  hFtz : Option Bool := none
  hSat : Bool := false
  hPol : Option CPol := none
  hPrio : Option Nat := none
  /-- R104; the guard: words left under it, their pattern (next word first), and whether COND was not 0. -/
  gLeft : Nat := 0
  gPat : Nat := 0
  gCond : Bool := false
  /-- R68; memory-class results that wait for the next head, and the in-block offset of each register's last
  ALU-class write. -/
  pend : List Pend := []
  wrote : AMap Nat := []
  /-- R410; traps of the block found so far, a deferred trap (R228, R346, R411), and those to be reported after it, in order. -/
  cands : List TrapInfo := []
  deferred : Option TrapInfo := none
  owed : List TrapInfo := []
  /-- R405; the trap a parked thread reports, whether its record is written and with which SEQ, and RORD's head. -/
  park : Option TrapInfo := none
  parkSeq : Option Nat := none
  resumeAt : Nat := 0
  /-- R312; the state that a thread in `ret` is in until the machine has moved it on: it waited, and stops, traps or restarts from there; RESUME has
  let it go, and it waits at the head RORD (R409); it was parked, and is killed. -/
  was : Option TStat := none
  /-- R406, R409; the parking's own number, and the thread key that its record names. -/
  parkId : Nat := 0
  parkKey : Nat := 0
  /-- R319; the open levels, innermost first. -/
  tx : List Level := []
  /-- R339; TXSTAT's CODE, REASON and CONFL. -/
  txCode : Nat := 0
  txReason : Nat := 0
  confl : Nat := 0
  /-- R327; the attempt is doomed, with the REASON that its restart records (R339); R330: it waits for the token before its
  next attempt; R330: the core's cycle count when the attempt began. -/
  doomed : Bool := false
  doomWhy : Nat := 2
  wantToken : Bool := false
  txCycles : Nat := 0
  /-- R245; scope of a release fence whose signal is the thread's next store, atomic or counter add. -/
  relSig : Option Scope := none
  /-- R66, R245; the same as it stood at the block's head (DEDUCED, log 9). -/
  headSig : Option Scope := none
  /-- R250; stores of the core, still to be performed, that the thread has read early, by their numbers. -/
  early : List Nat := []
  /-- R55; requests with this identity or above belong to the current block. -/
  first : Nat := 0
  /-- R411; the block's last word is one that R107 requires to carry S = 1, and it acted for the thread. -/
  sMust : Bool := false
  /-- R449, R451; path hash and store hash, 64 bits, FNV-1a offset basis at launch. -/
  pathH : Nat := 0xCBF29CE484222325
  storeH : Nat := 0xCBF29CE484222325
  /-- R449; the head of the current block has been folded. -/
  folded : Bool := false
  /-- R449; ordinals of heads of blocks that trapped inside a transaction: the next arrival at each is folded no more. -/
  skipFold : List Nat := []
  /-- R83, R451; stores and requests of the current block in program order. -/
  stores : List Effect := []
  sends : List Effect := []
  /-- R440; the next check of a breakpoint at this head is skipped. -/
  skipBrk : Bool := false
  /-- R81; the thread is a marionette twin, and the results of its leader that it has still to take, by block number. -/
  twin : Bool := false
  lvq : List (Nat × Pend) := []
  /-- R82, R83; the number of the current block, the load-value queue that its bundle holds, and a leader's earlier blocks
  still to be compared. -/
  blockNo : Nat := 0
  queue : Nat := 0
  done : List BlockRec := []
  /-- R83; the number of the last block that has been compared. -/
  compared : Nat := 0
  deriving DecidableEq, Repr

/-- A wave (R31): its group slot, f1, label stack (R433), join masks (R74: lane set and arrival set by mask), and its
register granules (R46); a twin's wave names its leader's slot. -/
structure Wave where
  gslot : Nat := 0
  f1 : Nat := 0
  /-- R433; 16 entries of 16 bits; DEPTH 0 to 255; OVFSEEN; all 0 at launch. -/
  labels : List Nat := []
  depth : Nat := 0
  ovf : Bool := false
  /-- R74; per mask the 64-bit lane set and arrival set; both empty at launch. -/
  sets : AMap (BitVec 64) := []
  arrs : AMap (BitVec 64) := []
  /-- R46; the granule map: indices of half-granules of 1 KiB, at most 32. -/
  granules : List Nat := []
  twin : Bool := false
  deriving DecidableEq, Repr

/-! ### Groups, trains and flights -/

/-- A live reel (R292). -/
structure Reel where
  hdr : Nat := 0
  nslot : Nat := 0
  slotb : Nat := 0
  widx : Nat := 0
  ridx : Nat := 0
  claim : Nat := 0
  ecode : Nat := 0
  eslot : Nat := 0
  ecount : Nat := 0
  failed : Nat := 0
  /-- R294; count of changes of WIDX or RIDX, and the thread keys that watch it (R322). -/
  ver : Nat := 0
  watch : List Nat := []
  deriving DecidableEq, Repr

/-- A slice buffer of a plane record (R201): elements by k·64 + column, scales of the in-range columns, the tether
image, k origin, depth and JB. -/
structure Slice where
  elems : AMap Int := []
  scales : AMap Nat := []
  image : List Word := []
  k0 : Nat := 0
  depth : Nat := 0
  jb : Nat := 0
  deriving DecidableEq, Repr

/-- A QFENCE entry (R258): its queue mask and its place in the group's order. -/
structure QFence where
  mask : Nat := 0
  seq : Nat := 0
  deriving DecidableEq, Repr

/-- A queued trace record (R437): words 0x00, 0x08, 0x10, 0x18, its session, its group and its place in the group's order, and for a
record of a word its thread and the number of the word's request (R256). -/
structure TraceRec where
  session : Nat := 0
  w0 : Nat := 0
  w1 : Nat := 0
  w2 : Nat := 0
  w3 : Nat := 0
  seq : Nat := 0
  group : Nat := 0
  by' : Option (Nat × Nat) := none
  deriving DecidableEq, Repr

/-- A change of one word that an engine of a replayable group makes and the ballast holds (R415): an element that MDRAIN adds in mode 0 or 4
(R216), or the masked bits of a word that a copy writes in part (R284). -/
inductive WordUpd
  | drain (m : DrainMode) (v : Int) (sa sb : Nat)
  | mask (m v : Nat)
  deriving DecidableEq, Repr

/-- A store that the ballast holds (R415, R83): its address (a global VA, or the cell of a scratch word), its bytes, its
thread, its place in the order of requests, whether it waits for a twin's comparison and of which block, the release of
which it is the signal (R245), the request that performs it once it is committed, and its policy (R239). -/
structure BStore where
  addr : Nat := 0
  data : List Byte := []
  thread : Nat := 0
  id : Nat := 0
  held : Bool := false
  block : Nat := 0
  sig : Option Scope := none
  req : Nat := 0
  pol : CPol := .dflt
  /-- R83; a release or SC store of a leader, which its own request performs. -/
  rel : Bool := false
  /-- R216, R284; a change of the word, whose bytes `data` then only counts. -/
  upd : Option WordUpd := none
  /-- R419; an uncorrectable error in its bytes. -/
  bad : Bool := false
  deriving DecidableEq, Repr

/-- A resident group. -/
structure Group where
  train : Nat := 0
  /-- R30; f2, the group's index in its train. -/
  f2 : Nat := 0
  /-- R45; wave slots, scratch pages of the core, engine banks of the quad. -/
  wslots : List Nat := []
  pages : List Nat := []
  banks : List Nat := []
  /-- R145; tether slots, 8 words each; an unlisted slot is empty (R34). -/
  tethers : AMap (List Word) := []
  /-- R292; the reel table, at most 8 entries. -/
  reels : List Reel := []
  /-- R201; ACTIVE and SHADOW; empty at admission. -/
  active : Option Slice := none
  shadow : Option Slice := none
  /-- R212; MSTREAM words that were stopped after their exchange, by f1·64 + lane of their first thread. -/
  swapDone : List Nat := []
  /-- R201, R414; words of the two buffers that were written through the die view of the OPM, by place. -/
  opm : AMap Word := []
  /-- R415; held stores in the order the group made them; OPEN until the first commit point. -/
  ballast : List BStore := []
  opened : Bool := true
  /-- R442; sixteen 48-bit stall counters, 0 at admission. -/
  stalls : AMap Nat := []
  /-- R256; order of issue over the four engine queues, and pending QFENCE entries. -/
  qseq : Nat := 0
  fences : List QFence := []
  /-- R435; the trace queue. -/
  trace : List TraceRec := []
  /-- R34; scratch pages still to be zeroed. -/
  zeroing : Nat := 0
  /-- R310; the group is being stopped; R413: its flight faults; R409: killed. -/
  stopping : Bool := false
  killed : Bool := false
  faulted : Bool := false
  /-- R47; every thread has exited and its resources but the scratch pages are free. -/
  ended : Bool := false
  /-- R444; the group was not counted. -/
  evskip : Bool := false
  /-- R449, R451; sums over threads that have exited. -/
  pathSum : Nat := 0
  storeSum : Nat := 0
  deriving DecidableEq, Repr

/-- A launch header as it was taken (R32). -/
structure Header where
  code : Nat := 0
  entry : Nat := 0
  nregs : Nat := 8
  nwaves : Nat := 1
  narrow : Bool := false
  replay : Bool := false
  marionette : Bool := false
  preempt : Bool := false
  tfilt : Bool := false
  widths : List Nat := []
  prio : Nat := 0
  producer : Nat := 0xFF
  e3 : Nat := 1
  e4 : Nat := 1
  e5 : Nat := 1
  gpt : Nat := 1
  scratch : Nat := 0
  njoin : Nat := 0
  nteth : Nat := 0
  nacc : Nat := 0
  args : Nat := 0
  pbase : Nat := 0
  pstride : Nat := 0
  done : Nat := 0
  seed : Nat := 0
  tsess : Nat := 15
  tmask : Nat := 0
  deriving DecidableEq, Repr

/-- A flight (R31) as its launching die's dispatcher keeps it: the header, the partition, the code object's parts
(R122), templates (R34), and what has ended. -/
structure Flight where
  hdr : Header := {}
  vas : Nat := 0
  die : Nat := 0
  seq : Nat := 0
  /-- R33; the form started, 1 Glomer; text bases and sizes of both forms; the knot table. -/
  glomer : Bool := false
  natBase : Nat := 0
  natSize : Nat := 0
  gloBase : Nat := 0
  gloSize : Nat := 0
  knotBase : Nat := 0
  knotCount : Nat := 0
  /-- R48; class floor. -/
  floor : Bool := false
  /-- R320; the code object contains TXBEGIN. -/
  txs : Bool := false
  /-- R34; tether templates by slot. -/
  templates : AMap (List Word) := []
  /-- R126; native text installed for a Glomer-only object, and its native offset of each head, by ordinal. -/
  swap : Bool := false
  heads : List Nat := []
  /-- R41; trains still to report their end; the flight faults; the done add has been made. -/
  left : Nat := 0
  faulted : Bool := false
  done : Bool := false
  /-- R432, R446; session attached to at launch, none 15, and its pass. -/
  session : Nat := 15
  pass : Nat := 1
  /-- R446; the registration of a MODE 1 session of which the launch is a pass, by its number; 0 none. -/
  reg : Nat := 0
  deriving DecidableEq, Repr

/-- Where a train stands (R305 to R311). -/
inductive TrainStat
  | sending | travelling | pending | resident | stopping | saving | ended
  deriving DecidableEq, Repr

/-- A train: its flight, index t (R42), die, place in the admission order, and pre-emption counts. -/
structure Train where
  flight : Nat := 0
  t : Nat := 0
  die : Nat := 0
  from_ : Nat := 0
  stat : TrainStat := .sending
  /-- R305; order of entry into the list; R308: pass count 0 to 32. -/
  age : Nat := 0
  passes : Nat := 0
  prio : Nat := 0
  /-- R309; pre-emptions for priority. R417: relaunches for errors. -/
  preempts : Nat := 0
  relaunches : Nat := 0
  /-- R418; the die that R42 gave when it was placed. -/
  placed : Nat := 0
  placedLocal : Bool := false
  admitted : Nat := 0
  /-- R310; its context is in the save pool, of this many bytes. -/
  saved : Bool := false
  ctxBytes : Nat := 0
  /-- R310; the pre-emption counts toward R309. R413: stopped without save. -/
  forPrio : Bool := false
  noSave : Bool := false
  /-- Group slot keys of its groups, by f2. -/
  groups : List Nat := []
  deriving DecidableEq, Repr

/-! ### Bundles and cores -/

/-- A bundle that streams its block (R64): its flight, form, head, the block's words as fetched, the threads taken in
ascending slot order, whether it is a wave bundle (R76), and its place in the block. -/
structure Bundle where
  flight : Nat := 0
  glomer : Bool := false
  head : Nat := 0
  ord : Nat := 0
  lanes : List Nat := []
  waveBundle : Bool := false
  code : List (Nat × Bool) := []
  pos : Nat := 0
  /-- R52; the head's live map. -/
  live : Nat := 0
  /-- R65; the bundle still waits for the fetch of its block. -/
  fetching : Bool := false
  deriving DecidableEq, Repr

/-- Block-table entry states (R313). -/
inductive EntStat
  | live | aged | held
  deriving DecidableEq, Repr

/-- A block-table entry (R56); `vec` is the 512-bit waiting vector, `ord` and `knot` the knot data. -/
structure BEntry where
  flight : Nat := 0
  glomer : Bool := false
  head : Nat := 0
  join : Option (Nat × Nat) := none
  vec : Nat := 0
  passes : Nat := 0
  cursor : Nat := 0
  ord : Nat := 0
  live : Nat := 0
  stat : EntStat := .live
  /-- R76; the release that the entry's lanes belong to, none before their mask has released. -/
  gen : Option Nat := none
  /-- R59; order of allocation. R60: order of joining the aged list. -/
  born : Nat := 0
  agedAt : Nat := 0
  deriving DecidableEq, Repr

/-- A cached translation: HLB entry (R366: no permission, key or frame is used from it) or home TLB entry (R368). -/
structure Tlb where
  vas : Nat := 0
  page : Nat := 0
  size : Nat := 4096
  leaf : Nat := 0
  deriving DecidableEq, Repr

/-- A precise wake-table entry (R333): the key's home and the sleeping thread slots. -/
structure WakeEnt where
  key : ReadEnt
  home : Nat := 0
  vec : Nat := 0
  deriving DecidableEq, Repr

/-- A core. -/
structure Core where
  /-- R56; the block table, at most 64 entries; empty at reset. -/
  table : List BEntry := []
  /-- R57; the overflow FIFO of thread slots, at most 512. -/
  fifo : List Nat := []
  /-- R59, R60; numbers handed out for allocation and aging order. -/
  clock : Nat := 0
  /-- R65; the slot that issued last. -/
  lastSlot : Nat := 1
  /-- R366; the HLB, at most 512 entries, newest first. -/
  hlb : List Tlb := []
  /-- R239, R240, R355; L1 lines by VAS·2^57 + line address, with the read count and whether STRM put it in. -/
  l1 : AMap (Option Nat × Bool) := []
  /-- R348; fetch buffers: words by flight, form and offset, and knot entries. -/
  words : List (Nat × Bool × Nat × Nat) := []
  knots : List Knot := []
  /-- R333; the wake table: precise entries (at most 1,024) and 64 coarse buckets of thread slots. -/
  wakes : List WakeEnt := []
  coarse : AMap Nat := []
  /-- R444; four 48-bit event counters, and the session that claims them (8·VAS + session + 1, 0 none). -/
  events : AMap Nat := []
  claim : Nat := 0
  /-- R437; cycles of the core; per-session SEQ and start. -/
  cycles : Nat := 0
  seqs : AMap Nat := []
  starts : AMap Nat := []
  /-- R441; thread slot sampled last, and the samples taken per session. -/
  sampled : Nat := 511
  samples : AMap Nat := []
  /-- R420; replay queues: bundle slot, first register, register count and thread slots of the last 32 ALU-class
  writers per bundle slot, newest first; thread slots and registers whose parity is bad. -/
  replay : List (Nat × Nat × Nat × List Nat) := []
  parity : List (Nat × Nat) := []
  /-- R420; thread slots and registers whose last writer was a memory-class result, a restore or a write of the die kernel. -/
  loaded : List (Nat × Nat) := []
  /-- R419; lines of the L1, by key, with an uncorrectable error. -/
  l1Bad : List Nat := []
  deriving DecidableEq, Repr

/-! ### Engines and streamers -/

/-- An accumulator element (R200): residues modulo 1024, 1023 and 1021, and the check channel modulo 59. -/
structure Residue where
  r0 : Nat := 0
  r1 : Nat := 0
  r2 : Nat := 0
  chk : Nat := 0
  deriving DecidableEq, Repr

/-- Matrix operations (R100). -/
inductive MOp
  | mmul | mstat | mstream | mdrain | mzero
  deriving DecidableEq, Repr

/-- States of a reservation-table entry (R218); DONE and STOPPED entries leave the table. -/
inductive MStat
  | posted | ready | hold | stream | perform | waiting
  deriving DecidableEq, Repr

/-- A reservation-table entry (R218): the group, its place in the group's order, priority, PASSED, kind, state;
the tether images read at issue (R149; [] for an empty slot), bank, origin and progress words, and the threads that wait. The
table lists its entries in the order of their ages. -/
structure MEntry where
  id : Nat := 0
  group : Nat := 0
  seq : Nat := 0
  prio : Nat := 0
  passed : Nat := 0
  op : MOp := .mmul
  stat : MStat := .posted
  t1 : List Word := []
  t2 : List Word := []
  slot1 : Nat := 0
  slot2 : Nat := 0
  bank : Nat := 0
  origin : Word := 0
  prog : Word := 0
  pair : Bool := false
  swapf : Bool := false
  mode : DrainMode := .acc
  /-- R213; completed k-steps or rows. -/
  done : Nat := 0
  /-- R218, R223; returned to POSTED by an operand's home that rejoins or has moved. -/
  returned : Bool := false
  /-- R215; the scales read before the operation: of its rows, and of the in-range columns. -/
  sa : List Nat := []
  sb : AMap Nat := []
  core : Nat := 0
  lanes : List Nat := []
  off : Nat := 0
  ord : Nat := 0
  dst : Opnd := .reg 0
  reqId : Nat := 0
  deriving DecidableEq, Repr

/-- Copy-family kinds (R282). -/
inductive CopyKind
  | copy | gather | scatter | combine
  deriving DecidableEq, Repr

/-- Where a streamer entry stands (R282, R288). -/
inductive SStat
  | queued | moving | faulted | failed | written | refused | sent
  deriving DecidableEq, Repr

/-- A streamer entry (R282): images read at issue, coordinates, sync, progress in granules, and for a combine its key
and contributor fields (R296). -/
structure SEntry where
  id : Nat := 0
  group : Nat := 0
  seq : Nat := 0
  kind : CopyKind := .copy
  stat : SStat := .queued
  src : List Word := []
  dst : List Word := []
  c0 : Word := 0
  c1 : Word := 0
  key : Word := 0
  con : Word := 0
  byCtr : Bool := false
  sync : Nat := 0
  slot : Nat := 0
  granule : Nat := 0
  crcBad : Bool := false
  code : Nat := 0
  fseq : Nat := 0
  core : Nat := 0
  thread : Nat := 0
  /-- A fault that waits for the die kernel (R288), and the code a FAILFAULT gives it. -/
  fault : Option Nat := none
  /-- R296; the tile that a COMBINE sends. -/
  data : List Word := []
  /-- R284, R289; the index words and the words of the source, by number, that the streamer has read: it reads each once. -/
  idx : List Nat := []
  seen : AMap Nat := []
  deriving DecidableEq, Repr

/-- A quad: its matrix engine (R197 to R201) and its streamer (R282). -/
structure Quad where
  /-- R200; elements by bank·16384 + row·64 + column; unlisted 0. -/
  acc : AMap Residue := []
  /-- R200; COUNT by bank·256 + row, 0 to 16,384; RSCALE by the same; CSCALE by bank·64 + column; unlisted unlatched. -/
  count : AMap Nat := []
  rscale : AMap Nat := []
  cscale : AMap Nat := []
  /-- R414; the codes that software has written of RSCALE and CSCALE with [15] clear, by the same keys; unlisted 0. -/
  rcodes : AMap Nat := []
  ccodes : AMap Nat := []
  /-- R218; the reservation table, at most 16 entries. -/
  table : List MEntry := []
  /-- R199; entries whose slices the active and the shadow working plane hold, and the k-step of each slice. -/
  planeA : Option Nat := none
  planeS : Option Nat := none
  stepA : Nat := 0
  stepS : Nat := 0
  /-- R282; the streamer queue, at most 16 entries. -/
  queue : List SEntry := []
  deriving DecidableEq, Repr

/-- A saved group (R310, R414): the core it was saved from, the group, its waves and threads by place, its scratch bytes, its
accumulator banks, and its engine entries. -/
structure SavedGroup where
  core : Nat := 0
  group : Group := {}
  waves : List Wave := []
  threads : List (Nat × Thread) := []
  scratch : List Byte := []
  /-- R200; of the group's bank i: elements by i·16384 + row·64 + column, COUNT and RSCALE by i·256 + row, CSCALE by i·64 + column. -/
  acc : AMap Residue := []
  count : AMap Nat := []
  rscale : AMap Nat := []
  cscale : AMap Nat := []
  rcodes : AMap Nat := []
  ccodes : AMap Nat := []
  /-- R290; queued streamer and combine entries. -/
  queue : List SEntry := []
  deriving DecidableEq, Repr

/-! ### Requests -/

/-- What a request asks (R264, R270). A probe is the lookup and the walk of a store that waits in the ballast (R55, R415); `join` is such
a store that waits for room in it (R416), and tells whether a twin is to be compared first (R83). -/
inductive ReqKind
  | load | store | probe | rmw (op : AtomOp) (ret : Bool) | cas (wide : Bool) | ctrAdd | ctrRead | pref | clock | flush
  | change (u : WordUpd) | clean | join (held : Bool) | scrLoad | scrStore | fence (kind : Nat) | qfence (mask : Nat) | copy (e : SEntry) | matrix (e : MEntry)
  | reel (op : Nat) (a b : Word) | launch | syscall | iflush | mark (op : Nat) | txend
  deriving DecidableEq, Repr

/-- How a home answers (R265), with the bytes read; an uncorrectable word (R405 DATA); a transactional store's trap
(R323). -/
inductive Answer
  | performed (data : List Byte) | moved | resetting | fault (k : PageFault) (det : Nat) | data (sub det : Nat)
  | trap (kind : TrapKind) (sub : Nat)
  deriving DecidableEq, Repr

/-- Where a request stands: to be walked (R366), sent to the home that the leaf gives, held by an open range
(R374), waiting for publishes (R255), its answer on its way back (R314), answered, waiting to be walked again (R375). -/
inductive Phase
  | walk | sent | held | widening (left : List Nat) | back (a : Answer) (widen : Bool) | answered (a : Answer) (widen : Bool) | resend | act
  deriving DecidableEq, Repr

/-- One lane of a request: its thread slot, its data and (for CAS) its expected value. -/
structure ReqLane where
  slot : Nat := 0
  data : List Word := []
  expect : List Word := []
  deriving DecidableEq, Repr

/-- A request of the load-store unit. Requests stand in the order they were made; `id` rises. -/
structure Req where
  id : Nat := 0
  die : Nat := 0
  core : Nat := 0
  vas : Nat := 0
  lanes : List ReqLane := []
  kind : ReqKind := .load
  va : Nat := 0
  size : Size := .b32
  order : MemOrder := .plain
  scope : Scope := .wave
  pol : CPol := .dflt
  dst : Dst := .trans
  /-- R240; the read count of LDC. -/
  reads : Nat := 0
  /-- R108; sent only once every earlier access of its threads is accepted. -/
  late : Bool := false
  /-- R245; the release scope of which this access is the signal. -/
  sig : Option Scope := none
  off : Nat := 0
  ord : Nat := 0
  tx : Bool := false
  phase : Phase := .walk
  leaf : Nat := 0
  home : Nat := 0
  /-- R353; the number that the headers of one LAUNCH word share. -/
  batch : Nat := 0
  /-- R83; marionette leaders whose twins have still to produce the same request, by thread slot. -/
  waitTwin : List Nat := []
  /-- R416; a commit-point operation: the ballast's stores are performed before it. -/
  commits : Bool := false
  /-- R416; a store of the ballast that a commit point performs. -/
  flush : Bool := false
  /-- R240; a load that found its line in its core's L1 as its word issued. -/
  l1 : Bool := false
  /-- R411, R407; the store of 16 bytes of which this is a half: its address and its first 8 bytes. -/
  wide : Option (Nat × Nat) := none
  /-- R375; the shootdown for which it has been refused as moved, by SDID; 0 none. -/
  mvd : Nat := 0
  deriving DecidableEq, Repr

/-! ### Memory system of a die -/

/-- A non-home line that a die's L2 holds (R252): 128 bytes, the mask of dirty bytes, the write right, and whether a
release covers its dirty bytes (R253). -/
structure L2Line where
  data : List Byte := []
  dirty : Nat := 0
  right : Bool := false
  covered : Bool := false
  /-- The leaf and page size it was filled under: the home that its write-back goes to (R374). -/
  leaf : Nat := 0
  size : Nat := 4096
  /-- R419; an uncorrectable error in its bytes, by its SUB of a DATA trap; 0 none. -/
  bad : Nat := 0
  deriving DecidableEq, Repr

/-- A watch that a transactional read registers (R322): the thread, and its order of registration (R334). -/
structure Watch where
  die : Nat := 0
  core : Nat := 0
  slot : Nat := 0
  seq : Nat := 0
  deriving DecidableEq, Repr

/-- The directory's record of a home line (R253): held notices, the last release, watches (R334), and the count of
performed writes (the model's means to say that a line has changed since it was read). -/
structure DirLine where
  held : List (Nat × Scope) := []
  last : Option (Nat × Scope) := none
  watches : List Watch := []
  ver : Nat := 0
  /-- Written by the home die's own threads and not yet covered by a release (R253). -/
  fresh : Bool := false
  deriving DecidableEq, Repr

/-- A held notice on its way to a home (R253). -/
structure Held where
  vas : Nat := 0
  line : Nat := 0
  die : Nat := 0
  scope : Scope := .wave
  deriving DecidableEq, Repr

/-- A wake message (R314, R334) for a thread of the receiving die. -/
structure WakeMsg where
  core : Nat := 0
  slot : Nat := 0
  key : ReadEnt
  /-- R334; a home that rejoins wakes every watcher of its lines. -/
  all : Bool := false
  deriving DecidableEq, Repr

/-- A partition slot (R356) with its loaded key slots (R394). -/
structure PSlot where
  vas : Nat := 0
  root : Nat := 0
  seq : Nat := 0
  en : Bool := false
  mirBase : Nat := 0
  keys : Nat := 0
  deriving DecidableEq, Repr

/-- An open range (R374): the message's fields, whether this die has acknowledged, and the identity below which
requests count as in flight. -/
structure Range where
  vas : Nat := 0
  start : Nat := 0
  npages : Nat := 0
  mode : Nat := 0
  sdid : Nat := 0
  order : Nat := 0
  acked : Bool := false
  upTo : Nat := 0
  deriving DecidableEq, Repr

/-- A fault on its way to the fault queue (R370, R371): the fields of the entry, and the requester. -/
structure FaultWait where
  va : Nat := 0
  vas : Nat := 0
  kind : PageFault := .miss
  src : FaultSrc := .thread
  wr : Bool := false
  core : Nat := 0
  slot : Nat := 0
  det : Nat := 0
  /-- The requester's own number: request id, streamer or matrix entry id, ring, flight. -/
  who : Nat := 0
  deriving DecidableEq, Repr

/-- The waiter list of a fault-queue entry (R371). -/
structure FaultEnt where
  seq : Nat := 0
  count : Nat := 0
  vas : Nat := 0
  page : Nat := 0
  kind : PageFault := .miss
  merge : Nat := 0
  waiters : List FaultWait := []
  deriving DecidableEq, Repr

/-- A trap record waiting for a slot of the trap ring (R408): words 0x00 to 0x30; the number of the parking that it reports, none for
a FLIGHT record. -/
structure TrapRec where
  thread : Option Nat := none
  words : List Nat := []
  /-- The fault whose entry in the fault queue it waits for (R371), 0 for none. -/
  who : Nat := 0
  deriving DecidableEq, Repr

/-- An exit record waiting for the exit ring (R443): the group's train and slot, the record's 8-byte words without VALID
and the bits of R450, the session it is attached to (by key), its number g and pass (R450), its hashes to be compared or
written, and the event counts that it adds to EVTOT (R444). -/
structure ExitRec where
  train : Nat := 0
  group : Nat := 0
  /-- The core on which the group ended. -/
  core : Nat := 0
  words : List Nat := []
  session : Option Nat := none
  g : Nat := 0
  pass : Nat := 1
  reg : Nat := 0
  events : List Nat := []
  /-- R442; the core's cycle count when the record began to wait. -/
  since : Nat := 0
  deriving DecidableEq, Repr

/-! ### Dispatcher, bridle and rings of a die -/

/-- A registered launch queue (R36, R382): descriptor address, VAS, and the descriptor's fields. -/
structure Queue where
  desc : Nat := 0
  vas : Nat := 0
  hbase : Nat := 0
  lslots : Nat := 0
  pceil : Nat := 0
  bell : Nat := 0
  taken : Nat := 0
  stat : Nat := 0
  lastref : Nat := 0
  refused : Nat := 0
  order : Nat := 0
  /-- R371; a read of the dispatcher for this queue waits for the die kernel, by its number, 0 for none; FAILFAULT has answered it. -/
  wait : Nat := 0
  fail : Bool := false
  deriving DecidableEq, Repr

/-- A header that LAUNCH put into the intake (R353). -/
structure Intake where
  vas : Nat := 0
  addr : Nat := 0
  flight : Nat := 0
  prio : Nat := 0
  /-- The header's 16 words of 8 bytes; empty when it could not be read. -/
  words : List Nat := []
  wait : Nat := 0
  fail : Bool := false
  deriving DecidableEq, Repr

/-- A completion or refusal add that waits for its counter (R40, R41). -/
structure DoneAdd where
  flight : Nat := 0
  vas : Nat := 0
  addr : Nat := 0
  addend : Nat := 0
  seq : Nat := 0
  deriving DecidableEq, Repr

/-- A bridle message: eight 64-bit words (R383). -/
structure Msg where
  w0 : Nat := 0
  w1 : Nat := 0
  w2 : Nat := 0
  w3 : Nat := 0
  w4 : Nat := 0
  w5 : Nat := 0
  w6 : Nat := 0
  w7 : Nat := 0
  deriving DecidableEq, Repr

/-- A shootdown at its initiator (R374): its REVOKE, the members still to acknowledge, and whether COMMIT
has been sent. -/
structure Shoot where
  sdid : Nat := 0
  vas : Nat := 0
  start : Nat := 0
  npages : Nat := 0
  mode : Nat := 0
  waiting : List Nat := []
  committed : Bool := false
  /-- The UNMAP request it serves (R388), 0 for none. -/
  req : Nat := 0
  deriving DecidableEq, Repr

/-- A copy ring (R401), with its descriptor's progress: 0 not performed, 1 performed with `code`, 2 waiting on a fault, 3 waiting
for a Spar write's answer; `done` bytes have been moved. -/
structure Ring where
  base : Dword := 0
  log : Nat := 0
  vas : Nat := 0
  tail : Word := 0
  head : Word := 0
  state : Nat := 0
  code : Nat := 0
  done : Nat := 0
  /-- R371; the number of the fault that it waits on, 0 for none. -/
  wait : Nat := 0
  deriving DecidableEq, Repr

/-- A landing window (R399). -/
structure Window where
  vas : Nat := 0
  va : Nat := 0
  len : Nat := 0
  fn : Nat := 0
  bar : Nat := 0
  /-- R388; the index that the WINDOW service gave it. -/
  idx : Nat := 0
  deriving DecidableEq, Repr

/-- A combining-switch entry (R298). -/
structure Combine where
  vas : Nat := 0
  key : Word := 0
  dst : List Word := []
  c1 : Word := 0
  rows : Nat := 0
  cols : Nat := 0
  con : Word := 0
  sum : List Word := []
  next : Nat := 0
  early : List (Nat × List Word) := []
  who : List Nat := []
  /-- A fault of the destination's write waits for the die kernel, by its number; 0 for none. -/
  fault : Nat := 0
  deriving DecidableEq, Repr

/-- A contribution on its way to a switch (R297). -/
structure Contrib where
  vas : Nat := 0
  entry : SEntry := {}
  quad : Nat := 0
  rows : Nat := 0
  cols : Nat := 0
  data : List Word := []
  deriving DecidableEq, Repr

/-- A completion add owed to a contributor (R299): its group's order, counter and whether its writes are made. -/
structure CombAdd where
  id : Nat := 0
  group : Nat := 0
  seq : Nat := 0
  vas : Nat := 0
  ctr : Nat := 0
  ready : Bool := false
  /-- A fault of the add waits for the die kernel, and its code (R288). -/
  fault : Option Nat := none
  deriving DecidableEq, Repr

/-- A Spar write on its way (R400, R401): source module and VAS, destination VAS and address, the bytes, the
stream's counter add, made after the write is accepted, and the die and copy ring that sent it, if they lie in this domain. -/
structure SparPkt where
  smod : Nat := 0
  svas : Nat := 0
  vas : Nat := 0
  va : Nat := 0
  data : List Byte := []
  ctr : Option Nat := none
  src : Option (Nat × Nat) := none
  deriving DecidableEq, Repr

/-- A write that the hold buffer keeps (R378): its address and bytes; of a posted PCIe write its Requester ID, function and
offset (R384); or a Spar write. -/
structure HeldWrite where
  vas : Nat := 0
  va : Nat := 0
  data : List Byte := []
  rid : Nat := 0
  fn : Nat := 0
  off : Nat := 0
  spar : Option SparPkt := none
  deriving DecidableEq, Repr

/-- A request of the host that a port has not taken in or holds (R303, R304, R378): a posted write without credits, a FetchAdd, a read.
Fields: Requester ID, function, offset, then the bytes, the addend or the length. -/
inductive HostReq
  | posted (rid fn off : Nat) (data : List Byte) | add (rid fn off addend : Nat) | read (rid fn off len : Nat)
  deriving DecidableEq, Repr

/-- A supervisor core (R13, R20): the registers of RV64GC, the program counter, machine or supervisor mode, and the CSRs; unlisted reads 0. -/
structure SupCore where
  x : AMap Dword := []
  f : AMap Dword := []
  pc : Dword := 0
  machine : Bool := true
  csr : AMap Dword := []
  deriving DecidableEq, Repr

/-- The keel security core (R13, R20): the registers of RV32, the program counter and the CSRs; unlisted reads 0. -/
structure KeelCore where
  x : AMap Word := []
  pc : Word := 0
  csr : AMap Word := []
  deriving DecidableEq, Repr

/-- Traffic classes (R314). -/
inductive PClass
  | rsp | bridle | req | bulk | sys
  deriving DecidableEq, Repr

/-- What a packet carries: a request to its home, an answer to its requester, a forced publish and its confirmation (R255), a held notice
(R253), a wake (R334), a bridle message, a contribution (R297), a Spar write (R400), a bridle message for a sequencer (R386). -/
inductive Body
  | req (id : Nat) | rsp (id : Nat) | pub (id : Nat) | confirm (id die : Nat) | held (h : Held) | wake (m : WakeMsg) | msg (m : Msg)
  | contrib (c : Contrib) | spar (p : SparPkt) | toSeq (m : Msg)
  deriving DecidableEq, Repr

/-- A packet of the fabric (R314): its place in the order of sending, its ends, its partition and its class. -/
structure Packet where
  no : Nat := 0
  src : Nat := 0
  dst : Nat := 0
  vas : Nat := 0
  cls : PClass := .req
  body : Body
  deriving DecidableEq, Repr

/-- A die: its control registers (R381), memory system, dispatcher, bridle, fault handling and recovery state. -/
structure Die where
  life : Life := .out
  /-- R27; calibrated to 4 GHz. -/
  calib : Bool := false
  /-- R16, R363; memory size in bytes. -/
  memSize : Nat := 0
  /-- R379; SVAS, 12 bits; the sail region, a keel-defined range. -/
  svas : Nat := 0
  sailBase : Nat := 0
  sailSize : Nat := 0
  /-- R356; 16 partition slots, all 0 at reset. -/
  slots : AMap PSlot := []
  /-- R381; control registers, all 0 at reset. -/
  fqBase : Dword := 0
  fqLog : Nat := 0
  fqHead : Word := 0
  fqTail : Word := 0
  bsBase : Dword := 0
  bsTail : Word := 0
  bsHead : Word := 0
  brBase : Dword := 0
  brHead : Word := 0
  brTail : Word := 0
  cause : BitVec 5 := 0
  kmbox : Dword := 0
  poolBase : Dword := 0
  poolSize : Word := 0
  qdesc : Dword := 0
  qstat : BitVec 8 := 0
  /-- R401; copy rings and the Spar admit table (64 entries), all 0 at reset. -/
  rings : AMap Ring := []
  admits : AMap Dword := []
  /-- R370, R371; faults to be entered, the live entries' waiter lists, the per-die SEQ. -/
  faults : List FaultWait := []
  fents : List FaultEnt := []
  fseq : Nat := 0
  /-- R408; records to be written, the per-die SEQ (from 1). -/
  traps : List TrapRec := []
  tseq : Nat := 0
  /-- R443; exit records to be written and the next ring entry. -/
  exits : List ExitRec := []
  exitNext : Nat := 0
  /-- R366, R368; walker caches of pointers (VAS, level, address prefix, frame) and the home TLB, 16,384 entries. -/
  walks : List (Nat × Nat × Nat × Nat) := []
  tlb : List Tlb := []
  /-- R252; non-home lines of the L2 by VAS·2^57 + line address; R241: pins by the same key, the flights that pin. -/
  l2 : AMap L2Line := []
  /-- R239; home lines that the L2 holds, by the same key, newest last: their bytes are the memory's. -/
  l2home : List Nat := []
  pins : AMap (List Nat) := []
  /-- R253, R334; the directory by VAS·2^57 + line address. -/
  dir : AMap DirLine := []
  heldIn : List Held := []
  pubs : List Nat := []
  wakes : List WakeMsg := []
  /-- R330; the solitary token's holder, its FIFO of thread keys. -/
  token : Option Nat := none
  tokenQ : List Nat := []
  /-- R307; registered queues, 0 to 63; the registration from which the round robin goes on; the next registration. -/
  queues : AMap Queue := []
  turnQ : Nat := 0
  regSeq : Nat := 0
  /-- R353; the intake of 64 headers; R39: flight sequence number. -/
  intake : List Intake := []
  flightSeq : Nat := 0
  /-- R305; ages handed out. R308, R309: the trains of this die stand in State.trains. -/
  ages : Nat := 0
  admissions : Nat := 0
  /-- R41; flights whose trains have reported an end here, and the adds to be made. -/
  ends : List Nat := []
  adds : List DoneAdd := []
  /-- R385; messages on their way to this die's receive ring; messages received and not yet acted on. -/
  inbox : List Msg := []
  todo : List Msg := []
  /-- R384; notices for this die's own kernel. -/
  notes : List Msg := []
  /-- R386; multicasts to be stamped, ORDER per VAS, and shootdowns delivered and not committed. -/
  seqIn : List Msg := []
  seqNo : AMap Nat := []
  seqOpen : List Msg := []
  /-- R374; revokes to be handled, open ranges, own shootdowns and their sequence. -/
  revokes : List Msg := []
  ranges : List Range := []
  shoots : List Shoot := []
  sdSeq : Nat := 0
  /-- R470; dies of which cause 6 has been received; R374: dies whose state a sequencer knows. -/
  gone : List Nat := []
  /-- R375; the shootdowns whose COMMIT the die has applied, by SDID. -/
  applied : List Nat := []
  /-- R424; a checkpoint that is being taken, by buffer; the supervisor cores are halted. The images of the control registers and of
  the copy rings in the two checkpoint buffers (log 21). -/
  ckpt : Option Nat := none
  images : AMap (List Nat) := []
  ringImages : AMap (AMap Ring) := []
  /-- R399; landing windows; R378: the hold buffer; R402: port in CXL mode. -/
  windows : List Window := []
  hold : List HeldWrite := []
  cxl : Bool := false
  /-- R402; frames the keel assigns to the host: base and size. -/
  hdmBase : Nat := 0
  hdmSize : Nat := 0
  /-- R298, R300; the combining switch: entries, contributions on their way, adds owed, partial-flag count. -/
  combines : List Combine := []
  contribs : List Contrib := []
  partials : Nat := 0
  combAdds : List CombAdd := []
  /-- R400; Spar writes on their way to this I/O die. -/
  spar : List SparPkt := []
  /-- R439; records held by the trace unit, in order; 7 marks a CUT of STOP (R432). -/
  traceHold : List (Nat × TraceRec) := []
  /-- R422; scrub SEQ and the last logged finding. -/
  scrubSeq : Nat := 0
  /-- R392; the mailbox request of KMBOX that the keel has not answered. -/
  mail : Bool := false
  /-- R397; the keel has asked for a reset of the die's routers. -/
  router : Bool := false
  /-- R425; stages 2 to 4 of a warm reset are done. Reset: no. -/
  drained : Bool := false
  /-- R24; packets that have come to their end and wait for earlier ones of their source, partition and class. -/
  late : List Packet := []
  /-- R18; of an I/O die, the link that each of its 8 Spar ports served last, by port. -/
  sparTurn : AMap Nat := []
  /-- R303, R304, R378; requests of the host that wait at the port, oldest first. -/
  port : List HostReq := []
  /-- R354; of an I/O die, the part of its capacity tier that the keel gives to a partition, by VAS: base and size. -/
  shares : AMap (Nat × Nat) := []
  /-- R13, R20; the supervisor cores, 0 to 3. -/
  sup : AMap SupCore := []
  deriving DecidableEq, Repr

/-! ### Sessions, links, keel and host -/

/-- A registered session (R431) with the descriptor fields read at OPEN, the changes still owed to the descriptor,
and the gates of replay mode. -/
structure Session where
  vas : Nat := 0
  num : Nat := 0
  desc : Nat := 0
  words : List Nat := []
  stat : Nat := 0
  pass : Nat := 1
  flags : Nat := 0
  dropped : Nat := 0
  /-- R446; the registration's own number, by which a MODE 1 flight knows it; launches attached so far in MODE 1. -/
  reg : Nat := 0
  launches : Nat := 0
  /-- R439; STATE, FLAGS and PASS of the descriptor are still to be written; event counts owed to EVTOT (R444). -/
  owes : Bool := false
  events : AMap Nat := []
  /-- R447; snapshotted pages in order: page address. -/
  snaps : List Nat := []
  /-- R452; the open run of each line: group and length. -/
  runs : AMap (Nat × Nat) := []
  /-- R453; per line the next chunk to read, wins left in the current run, and whether its gate is open. -/
  gates : AMap (Nat × Nat × Bool) := []
  deriving DecidableEq, Repr

/-- One direction of a fabric or Spar link (R23), by source die·2^11 + destination die (log 22): its sequence number, replays
of the flit in its replay buffer, CRC error reported, retired, and the link log; the output port's buffers (R315), one list in order
of arrival, of which each class of each partition is a queue of its own; the replay buffer of at most 64 flits sent and not yet taken
over, each with its sequence number; the partition served last and each partition's place in the cycle of classes. -/
structure Link where
  seq : Nat := 0
  replays : Nat := 0
  crc : Bool := false
  retired : Bool := false
  log : Nat := 0
  buf : List Packet := []
  wire : List (Nat × Packet) := []
  part : Nat := 0
  slots : AMap Nat := []
  deriving DecidableEq, Repr

/-- What the keel of a module holds (R390): its fuses, and the headers of the running images (R391), by KIND·2^11 + die; die 0 for a KIND that
runs once. -/
structure Keel where
  verified : Bool := false
  ownerHash : Option (List Byte) := none
  svnMin : AMap Nat := []
  images : AMap (List Byte) := []
  /-- R391, R403; the images, header and body, that the boot ROM and the keel find when they are to run one, by the same keys (log 141). -/
  store : AMap (List Byte) := []
  /-- R393; the mailbox buffer of function 0 and whether a request stands in it. -/
  buf : List Byte := []
  busy : Bool := false
  enable : Bool := false
  /-- R13, R20; the keel core on I/O die 16. -/
  core : KeelCore := {}
  deriving DecidableEq, Repr

/-- What the host has received (R304, R393, R398): completions, interrupts and errors. -/
inductive HostEvent
  | data (rid : Nat) (bytes : List Byte) | atomic (rid : Nat) (old : Nat) | unsupported (rid : Nat)
  | aer (rid : Nat) | msix (fn : Nat)
  deriving DecidableEq, Repr

/-- What a supervisor core loads from (R379, R381, R234): the sail region or the clear memory of its die, the partition window, a control
register, the die view of the OPM (core and window). -/
inductive SupSrc
  | memory | window | register | opm (core win : Nat)
  deriving DecidableEq, Repr

/-- One thing that happens next, chosen from outside the model (log 3): a device event, the next word of a bundle slot,
a store of a die kernel to its sail region, through its partition window (R379) or through the die-view OPM (R234), its write of a
partition slot (R356), a store to host memory, a request to the keel, an eviction from a die's L2, cycles that pass on a core, a
parity or memory error, native text that Ruirber installs (R126), a Spar write from another domain, the frames that the keel
gives to the host (R402), a link's drain before a router reset (R397), a load that takes its value from a store of its core that is
still on its way (R250), a directory entry that leaves its die's directory with its watches (R334), a flit that a router port sends, and one
that the far end of a link takes over (R315, R23), another try of what waits at a port (R378), the part of a capacity tier that the keel gives to a
partition (R354), and what a supervisor core or the keel core does to its own registers, a load of a supervisor core, and its
external interrupt (R20, R381, log 109); an image that comes into a keel's store (R391, log 141). -/
inductive Turn
  | event (i : Instr)
  | issue (core slot : Nat)
  | kernelStore (die core pa : Nat) (bytes : List Byte)
  | hostStore (addr : Nat) (bytes : List Byte)
  | keelRequest (module : Nat) (bytes : List Byte)
  | evict (die key : Nat)
  | tick (core cycles : Nat)
  | parity (core slot reg : Nat)
  | memError (die pa code : Nat)
  | scratchError (core off : Nat)
  | cacheError (die key : Nat)
  | l1Error (core key : Nat)
  | ballastError (group place : Nat)
  | accError (quad key : Nat)
  | tableError (core slot : Nat)
  | install (flight base size : Nat) (heads : List Nat)
  | slotWrite (die slot root seq mirBase : Nat)
  | windowStore (die core va : Nat) (bytes : List Byte)
  | opmStore (die core win loc : Nat) (bytes : List Byte)
  | sparArrive (die : Nat) (p : SparPkt)
  | hdm (die base size : Nat)
  | routerRequest (die : Nat)
  | forward (load store : Nat)
  | unwatch (die key : Nat)
  | flitSend (link : Nat)
  | flitTake (link : Nat)
  | portRetry (die : Nat)
  | share (die vas base size : Nat)
  | supCore (die core : Nat) (c : SupCore)
  | supLoad (die core rd : Nat) (src : SupSrc) (addr n : Nat)
  | supIrq (die core : Nat)
  | image (module key : Nat) (bytes : List Byte)
  | keelCore (module : Nat) (c : KeelCore)
  deriving DecidableEq, Repr

/-- The machine. -/
structure State where
  /-- MODEL; the bundle slot (core key·2 + slot) whose next word a step executes. Reset: none. -/
  focus : Option Nat := none
  /-- MODEL; the core (by key) whose word ran last: by default the other cores are tried before it (log 3). Reset: 0 (DESIGN CHOICE). -/
  turnCore : Nat := 0
  /-- MODEL; what happens next, front first (log 3). Reset: empty. -/
  turns : List Turn := []
  /-- MODEL; count of free values taken (log 2). Reset: 0 (DESIGN CHOICE, no statement rests on it). -/
  free : Nat := 0
  /-- MODEL; identities handed out to requests and entries. Reset: 1. -/
  nextId : Nat := 1
  /-- R230; DRAM, capacity tier and scratch, one list in canonical form. Reset: nothing listed (log 4). -/
  mem : List Host.Cell := []
  /-- R394; page tags by die·2^36 + frame: VAS·16 + KEY. Reset: nothing listed, tag 0. -/
  tags : AMap Nat := []
  /-- R419, R422; line errors by die·2^41 + line: 1 ECC, 2 MAC, 3 poisoned, 4 correctable, 5 its page tag; an uncorrectable error of a scratch word of 64
  bits, 1, by 2^60 + its place. Reset: none. -/
  bad : AMap Nat := []
  /-- R10, R12; dies by number (module·32 + local number). Reset: none listed; a die not listed has every field at its reset value. -/
  dies : AMap Die := []
  /-- R13; cores by die·128 + core. Reset: none listed, as for dies. -/
  cores : AMap Core := []
  /-- R13, R197, R282; quads by core key/4: matrix engine and streamer. Reset: none listed, every bank zero and unlatched. -/
  quads : AMap Quad := []
  /-- R30, R45, R47; groups by core key·65536 + slot. Reset: none. -/
  groups : AMap Group := []
  /-- R31; waves by core key·8 + wave slot. Reset: none. -/
  waves : AMap Wave := []
  /-- R31, R34; threads by core key·512 + slot. Reset: none. -/
  threads : AMap Thread := []
  /-- R58, R64; bundles that stream, by core key·2 + bundle slot. Reset: none. -/
  bundles : AMap Bundle := []
  /-- R31, R39, R41; flights by launching die·2^21 + sequence number. Reset: none. -/
  flights : AMap Flight := []
  /-- R42, R305 to R311; trains by flight key·2^32 + t. Reset: none. -/
  trains : AMap Train := []
  /-- R310, R414; contexts in the save pools, by train key. Reset: none. -/
  saved : AMap (List SavedGroup) := []
  /-- R55, R264; requests outstanding, in the order they were made. Reset: none. -/
  reqs : List Req := []
  /-- R431; registered sessions by VAS·8 + number. Reset: none. -/
  sessions : AMap Session := []
  /-- R439; sessions that are closed, with the changes that are still owed to their descriptors. Reset: none. -/
  debts : List Session := []
  /-- R23; links by source die·2^11 + destination die. Reset: none listed, each at sequence number 0. -/
  links : AMap Link := []
  /-- R13, R390; what the keel of each module holds, by module. Reset: none listed, every field at its reset value. -/
  keels : AMap Keel := []
  /-- R354, R392; the VAS ids that have been allocated, unique in the domain. Reset: none. -/
  vasIds : List Nat := []
  /-- R393, R398; host memory, in canonical form. Reset: nothing listed, an unlisted byte reads 0 (log 4). -/
  hostMem : List Host.Cell := []
  /-- R304, R393, R398; what the host has received, oldest first. Reset: nothing. -/
  host : List HostEvent := []
  deriving DecidableEq, Repr

/-- The machine right after reset: power has just risen. No die has joined (R403), every control register is 0
(R356, R381, R401), nothing is resident, and memory lists nothing. -/
def State.reset : State := {}

end Sys2Proof.Machine
end

