-- ==== Sys2Proof/Machine/Memory.lean ====
section
/-! DEFINITION. Memory: one canonical list of cells. A byte that no cell lists reads as 0 (log 4). -/

namespace Sys2Proof.Machine

set_option Elab.async false

/-- The byte at a key. -/
def Memory.get (m : List Host.Cell) (a : Nat) : Byte := mgetD m a 0

/-- The memory with byte b at key a: a zero byte is not listed. -/
def Memory.put (m : List Host.Cell) (a : Nat) (b : Byte) : List Host.Cell := if b = 0 then mdel m a else mput m a b

/-- The canonical form: keys strictly rising, no zero byte listed. -/
def Memory.wf : List Host.Cell → Bool
  | [] => true
  | [(_, b)] => b ≠ 0
  | (j, b) :: (k, c) :: r => b ≠ 0 && j < k && Memory.wf ((k, c) :: r)

/-- n bytes from key a on. -/
def Memory.read (m : List Host.Cell) (a : Nat) : Nat → List Byte
  | 0 => []
  | n + 1 => Memory.get m a :: Memory.read m (a + 1) n

/-- The bytes written from key a on. -/
def Memory.write (m : List Host.Cell) (a : Nat) : List Byte → List Host.Cell
  | [] => m
  | b :: r => Memory.write (Memory.put m a b) (a + 1) r

/-- Keys of a die's DRAM or capacity tier, and of a core's scratch banks. -/
def ramKey (die pa : Nat) : Nat := die * 2 ^ 48 + pa
def scrKey (core off : Nat) : Nat := 2 ^ 60 + core * 2 ^ 18 + off

/-- The key in `bad` of the 64 bits of scratch that ECC covers, by the cell of one of their bytes (R419). -/
def cellBad (cell : Nat) : Nat := 2 ^ 60 + (cell - 2 ^ 60) / 8

/-- A little-endian value of n bytes (R3). -/
def State.ram (s : State) (die pa n : Nat) : Nat := leValue (Memory.read s.mem (ramKey die pa) n)
def State.ramBytes (s : State) (die pa n : Nat) : List Byte := Memory.read s.mem (ramKey die pa) n
def State.setRam (s : State) (die pa n v : Nat) : State :=
  { s with mem := Memory.write s.mem (ramKey die pa) (leBytes n v) }
def State.setRamBytes (s : State) (die pa : Nat) (bs : List Byte) : State :=
  { s with mem := Memory.write s.mem (ramKey die pa) bs }

end Sys2Proof.Machine
end

