-- ==== Sys2Proof/Machine/Ops.lean ====
section
/-! DEFINITION. Named operations over the state: reading and changing its parts, the lanes of a bundle, faults and
traps. Taking a trap is one operation (`trapThread`, finished by `parkThread`), and resuming stands beside it. -/

namespace Sys2Proof

set_option Elab.async false

/-- The access size in bytes (R96). -/
def Size.bytes : Size → Nat
  | .b8 => 1 | .b16 => 2 | .b32 => 4 | .b64 => 8 | .b128 => 16 | .s8 => 1 | .s16 => 2

/-- Registers that an access size takes (R96, R98). -/
def Size.width : Size → Nat
  | .b64 => 2 | .b128 => 4 | _ => 1
def AtomOp.width : AtomOp → Nat
  | .add64 | .exch64 => 2
  | _ => 1

end Sys2Proof

namespace Sys2Proof.Machine

/-! ### Keys -/

/-- The die of a core key, of a thread key, of a quad key; the core key and slots of a thread key. -/
def dieOfCore (ck : Nat) : Nat := ck / 128
def dieOfQuad (qk : Nat) : Nat := qk / 32
def coreOfThread (tk : Nat) : Nat := tk / 512
def slotOf (tk : Nat) : Nat := tk % 512
def dieOfThread (tk : Nat) : Nat := tk / 65536
def quadOfCore (ck : Nat) : Nat := ck / 4
def coreKey (die core : Nat) : Nat := die * 128 + core
def threadKey (ck slot : Nat) : Nat := ck * 512 + slot
def waveKeyOf (tk : Nat) : Nat := coreOfThread tk * 8 + slotOf tk / 64
def laneOf (tk : Nat) : Nat := tk % 64
def moduleOf (die : Nat) : Nat := die / 32
def localOf (die : Nat) : Nat := die % 32
def partnerOf (die : Nat) : Nat := if die % 2 = 0 then die + 1 else die - 1
/-- A group slot key and its core: 2^16 slots a core hold its resident groups, and the ended groups of trains that have
not ended (R47). -/
def groupKeyOf (ck slot : Nat) : Nat := ck * 65536 + slot
def coreOfGroup (gk : Nat) : Nat := gk / 65536
/-- R11, R12: local numbers that name a compute die, an I/O die. -/
def isCompute (die : Nat) : Bool := die % 32 < 16
def isIo (die : Nat) : Bool := 16 ≤ die % 32 && die % 32 < 20
/-- R21: the serving I/O die of a compute die; an I/O die serves itself. -/
def servingIo (die : Nat) : Nat :=
  if isIo die then die
  else moduleOf die * 32 + 16 + 2 * (localOf die / 4 / 2) + localOf die % 4 / 2

/-! ### Parts of the state -/

def State.die (s : State) (d : Nat) : Die := mgetD s.dies d {}
def State.setDie (s : State) (d : Nat) (v : Die) : State := { s with dies := mput s.dies d v }
def State.modDie (s : State) (d : Nat) (f : Die → Die) : State := s.setDie d (f (s.die d))
def State.keel (s : State) (m : Nat) : Keel := mgetD s.keels m {}
def State.modKeel (s : State) (m : Nat) (f : Keel → Keel) : State := { s with keels := mmod s.keels m {} f }
def State.core (s : State) (c : Nat) : Core := mgetD s.cores c {}
def State.setCore (s : State) (c : Nat) (v : Core) : State := { s with cores := mput s.cores c v }
def State.modCore (s : State) (c : Nat) (f : Core → Core) : State := s.setCore c (f (s.core c))
def State.quad (s : State) (q : Nat) : Quad := mgetD s.quads q {}
def State.setQuad (s : State) (q : Nat) (v : Quad) : State := { s with quads := mput s.quads q v }
def State.modQuad (s : State) (q : Nat) (f : Quad → Quad) : State := s.setQuad q (f (s.quad q))
def State.group (s : State) (g : Nat) : Group := mgetD s.groups g {}
def State.setGroup (s : State) (g : Nat) (v : Group) : State := { s with groups := mput s.groups g v }
def State.modGroup (s : State) (g : Nat) (f : Group → Group) : State := s.setGroup g (f (s.group g))
def State.wave (s : State) (w : Nat) : Wave := mgetD s.waves w {}
def State.setWave (s : State) (w : Nat) (v : Wave) : State := { s with waves := mput s.waves w v }
def State.thread (s : State) (t : Nat) : Thread := mgetD s.threads t {}
def State.setThread (s : State) (t : Nat) (v : Thread) : State := { s with threads := mput s.threads t v }
def State.modThread (s : State) (t : Nat) (f : Thread → Thread) : State := s.setThread t (f (s.thread t))
def State.bundle (s : State) (b : Nat) : Bundle := mgetD s.bundles b {}
def State.setBundle (s : State) (b : Nat) (v : Bundle) : State := { s with bundles := mput s.bundles b v }
def State.flight (s : State) (f : Nat) : Flight := mgetD s.flights f {}
def State.modFlight (s : State) (k : Nat) (f : Flight → Flight) : State := { s with flights := mput s.flights k (f (s.flight k)) }
def State.train (s : State) (t : Nat) : Train := mgetD s.trains t {}
def State.modTrain (s : State) (k : Nat) (f : Train → Train) : State := { s with trains := mput s.trains k (f (s.train k)) }
def State.up (s : State) (d : Nat) : Bool := (s.die d).life = .up

/-- The group slot key, flight identity, flight and header of a thread. -/
def State.groupKey (s : State) (tk : Nat) : Nat := groupKeyOf (coreOfThread tk) (s.wave (waveKeyOf tk)).gslot
def State.groupOf (s : State) (tk : Nat) : Group := s.group (s.groupKey tk)
def State.flightKey (s : State) (gk : Nat) : Nat := (s.train (s.group gk).train).flight
def State.flightOf (s : State) (tk : Nat) : Flight := s.flight (s.flightKey (s.groupKey tk))
def State.vasOf (s : State) (tk : Nat) : Nat := (s.flightOf tk).vas
def State.hdrOf (s : State) (tk : Nat) : Header := (s.flightOf tk).hdr

/-- The six field values of a thread's work identifier (R29 to R31, R42): lane, wave, group in train, train. -/
def State.fields (s : State) (tk : Nat) : List Nat :=
  let w := s.wave (waveKeyOf tk)
  let g := s.groupOf tk
  let h := (s.flightOf tk).hdr
  let t := (s.train g.train).t
  [laneOf tk, w.f1, g.f2, t % h.e3, t / h.e3 % h.e4, t / (h.e3 * h.e4)]

/-- Fields packed by their widths, the least significant first (R29). -/
def packFields : List Nat → List Nat → Nat
  | w :: ws, v :: vs => v + 2 ^ w * packFields ws vs
  | _, _ => 0

/-- The work identifier of a thread (R29), and of its group, with f0 and f1 cleared (R437). -/
def State.wid (s : State) (tk : Nat) : Nat := packFields (s.flightOf tk).hdr.widths (s.fields tk)
def State.gid (s : State) (gk : Nat) : Nat :=
  let g := s.group gk
  let h := (s.flight (s.flightKey gk)).hdr
  let t := (s.train g.train).t
  packFields h.widths [0, 0, g.f2, t % h.e3, t / h.e3 % h.e4, t / (h.e3 * h.e4)]

/-- The wave width (R78). -/
def State.waveWidth (s : State) (tk : Nat) : Nat := if (s.flightOf tk).hdr.narrow then 32 else 64

/-- The partition slot of a die that serves a VAS (R356), if any. -/
def Die.slotOf (d : Die) (vas : Nat) : Option (Nat × PSlot) := d.slots.find? fun p => p.2.en && p.2.vas = vas

/-- The member dies of a partition (R354): the dies that serve its VAS. -/
def State.members (s : State) (vas : Nat) : List Nat :=
  (s.dies.filter fun p => (p.2.slotOf vas).isSome).map (·.1)

/-- A free value's number (log 2). -/
def State.fresh (s : State) : Nat × State := (s.free, { s with free := s.free + 1 })

/-! ### Lanes of a bundle -/

/-- The thread keys of a bundle whose threads still stream, in ascending slot order. -/
def State.lanes (s : State) (k : Nat) : List Nat :=
  ((s.bundle k).lanes.map (threadKey (k / 2) ·)).filter fun t => (s.thread t).stat = .stream

/-- Change every lane that still streams. -/
def State.mapLanes (s : State) (k : Nat) (f : Nat → Thread → Thread) : State :=
  { s with threads := mmodAll s.threads (s.lanes k) f }

/-- Whether the thread's guard lets its next word act (R104). -/
def Thread.on (t : Thread) : Bool := t.gLeft = 0 || (decide (t.gPat % 2 = 1)) = t.gCond

/-- The lanes for which the guard is on. -/
def State.active (s : State) (k : Nat) : List Nat := (s.lanes k).filter fun t => (s.thread t).on

/-- Do one thing for each lane in turn, in ascending slot order. -/
def State.forLanes (s : State) (ts : List Nat) (f : State → Nat → State) : State := ts.foldl f s

/-! ### Outstanding requests (R55) -/

/-- The request belongs to the thread. -/
def Req.ofThread (r : Req) (tk : Nat) : Bool :=
  coreOfThread tk = r.core && r.lanes.any fun l => l.slot = slotOf tk

/-- The request yields a memory-class result (R68). -/
def Req.returns (r : Req) : Bool :=
  match r.kind with
  | .load | .rmw _ true | .cas _ | .ctrRead | .clock | .scrLoad | .syscall => true
  | .reel op _ _ => op ≠ 0 && op ≠ 2
  | _ => false

/-- The request is a load of R244. -/
def Req.isLoad (r : Req) : Bool :=
  match r.kind with
  | .load | .ctrRead | .scrLoad => true
  | .reel op _ _ => op ≠ 0 && op ≠ 2
  | _ => false

/-- The request's address has still to be looked up and walked. -/
def Req.walking (r : Req) : Bool := match r.phase with | .walk | .resend => true | _ => false

/-- What keeps a thread in RETURN (R55): a result, a walk of a global access, a fence or an engine's entry, and after S = 1 (`sEnd`)
the acceptance of stores. A write-back that CFLUSH or CCLEAN asks for is no access (R264). -/
def Req.holds (r : Req) (sEnd : Bool) : Bool :=
  r.returns || r.late ||
    (match r.kind with
     | .store => sEnd || r.walking || r.flush || r.tx
     | .scrStore => sEnd
     | .pref => r.walking
     | .flush | .clean => false
     | _ => true)

def State.held (s : State) (tk : Nat) : Bool :=
  let t := s.thread tk
  s.reqs.any fun r => r.ofThread tk && t.first ≤ r.id && r.holds (t.sEnd || !t.cands.isEmpty)

/-- A matrix entry of the thread that it waits for (R207). -/
def State.matrixHeld (s : State) (tk : Nat) : Bool :=
  (s.quad (quadOfCore (coreOfThread tk))).table.any fun e => e.core = coreOfThread tk && e.lanes.contains (slotOf tk)

/-- The thread's state of R312: one that has trapped is parked from then on, though its accesses are still to be answered (R410); one that
left another state but still stands where it was is in that state until it has moved on. -/
def Thread.shown (t : Thread) : TStat :=
  if t.stat ≠ .ret then t.stat else if t.cands ≠ [] then .parked else t.was.getD .ret

/-- Nothing of the thread is outstanding. -/
def State.quiet (s : State) (tk : Nat) : Bool :=
  !(s.reqs.any fun r => r.ofThread tk) && !s.matrixHeld tk

/-! ### Traps (R405, R410) -/

/-- A thread takes a trap at the word it executes: it leaves its bundle; the candidates of its block are weighed when
every access of the block is answered (R410). -/
def trapThread (s : State) (tk : Nat) (ti : TrapInfo) : State :=
  s.modThread tk fun t => { t with stat := .ret, cands := { ti with off := t.off, ord := t.ord } :: t.cands }

/-- A fault found for a word at offset off (R410, third case). -/
def faultThread (s : State) (tk : Nat) (ti : TrapInfo) : State :=
  s.modThread tk fun t => { t with cands := ti :: t.cands }

/-- A trap found for a request or an engine entry of the word. -/
def askedTrap (s : State) (tk : Nat) (ti : TrapInfo) : State := faultThread s tk { ti with asked := true }

/-- The trap of a TRAP or BKPT word (R346). -/
def TrapInfo.own (ti : TrapInfo) : Bool := ti.kind = .trap || ti.kind = .brk

/-- The thread's deferred traps, in the order in which they are reported. -/
def Thread.defers (t : Thread) : List TrapInfo := t.deferred.toList ++ t.owed
/-- The thread with these deferred traps. -/
def Thread.withDefers (t : Thread) (l : List TrapInfo) : Thread := { t with deferred := l.head?, owed := l.drop 1 }

/-- A deferred trap that an engine finds for a word of the thread (R228): it comes before a TRAP or BKPT of a later block. One of a word of the
current block (`now`) and a TRAP or BKPT of that block are one block's traps, of which the first stands (R410). -/
def Thread.deferEngine (t : Thread) (now : Bool) (ti : TrapInfo) : Thread :=
  let own := t.defers.filter TrapInfo.own
  let rest := t.defers.filter fun d => !d.own
  if now && own.any fun d => d.off < ti.off then t else t.withDefers (rest ++ [ti] ++ if now then [] else own)

/-- A trap to be taken at the next head; the first of a block stands (R346, R410), behind those of earlier blocks. -/
def Thread.defer (t : Thread) (ti : TrapInfo) : Thread :=
  if t.defers.any TrapInfo.own then t else t.withDefers (t.defers ++ [{ ti with off := t.off, ord := t.ord, defer := true }])

/-- Every lane of the bundle takes the trap. -/
def trapAll (s : State) (k : Nat) (ti : TrapInfo) : State := s.forLanes (s.lanes k) fun s t => trapThread s t ti

/-- The code of a trap kind (R405). -/
def TrapKind.code : TrapKind → Nat
  | .illegal => 1 | .converge => 2 | .copyRights => 3 | .scrBound => 4 | .page => 5 | .align => 6 | .tether => 7
  | .span => 8 | .reel => 9 | .txCap => 10 | .txRemote => 11 | .brk => 12 | .trap => 13 | .parity => 14
  | .marionette => 15 | .residue => 16 | .data => 17 | .flight => 18

/-- The code of a fault kind (R370), and the code of R288 it becomes in a copy. -/
def PageFault.code : PageFault → Nat
  | .miss => 1 | .invalid => 2 | .perm => 3 | .lost => 4 | .ctrPage => 5 | .addr => 6
def PageFault.copyCode : PageFault → Nat
  | .miss => 1 | .invalid => 1 | .perm => 2 | .lost => 3 | .ctrPage => 4 | .addr => 1

end Sys2Proof.Machine
end

