-- ==== Sys2Proof/Machine/Operands.lean ====
section
/-! DEFINITION. Operand forms: reading registers, pairs, quads, runs and forwarding-window names of one thread, and
writing its destinations under the guard. -/

namespace Sys2Proof.Machine

set_option Elab.async false

/-- A register: v0 reads 0 (R88, R113); a register never written reads 0 (R34). -/
def Thread.reg (t : Thread) (n : Nat) : Word := if n = 0 then 0 else mgetD t.regs n 0

/-- The registers with n set to v: a write of v0 is discarded. -/
def Thread.setReg (t : Thread) (n : Nat) (v : Word) : Thread := if n = 0 then t else { t with regs := mput t.regs n v }

/-- The destination value that wk names (R70): the k-th entry of the window; none where nothing stands there. -/
def Thread.win? (t : Thread) (k : Nat) : List Word := ((t.win[k - 1]?).getD none).getD []

/-- Word i of a window value. -/
def Thread.winWord (t : Thread) (k i : Nat) : Word := ((t.win? k)[i]?).getD 0

/-- A 32-bit source; a w name takes bits [31:0] of a wider result (R70). -/
def Thread.src (t : Thread) : Opnd → Word
  | .reg n => t.reg n
  | .win k => t.winWord k 0

/-- Word i of a pair or quad source; code 0 reads all zeros (R89). -/
def Thread.srcWord (t : Thread) (i : Nat) : Opnd → Word
  | .reg n => if n = 0 then 0 else t.reg (n + i)
  | .win k => t.winWord k i

/-- A pair source, low half first (R89). -/
def Thread.pair (t : Thread) (o : Opnd) : Dword := t.srcWord 1 o ++ t.srcWord 0 o

/-- A source of n words. -/
def Thread.srcWords (t : Thread) (o : Opnd) (n : Nat) : List Word :=
  if n = 1 then [t.src o] else (List.range n).map fun i => t.srcWord i o

/-- A register run; a run at code 0 is v0, v1, … (R89). -/
def Thread.runWords (t : Thread) (o : Opnd) (n : Nat) : List Word :=
  match o with
  | .reg r => (List.range n).map fun i => t.reg (r + i)
  | .win _ => List.replicate n 0

/-- The destination as a source (R153): v0 and the transient destination read 0. -/
def Thread.old (t : Thread) : Dst → Word
  | .reg n => t.reg n
  | .trans => 0
def Thread.oldPair (t : Thread) : Dst → Dword
  | .reg n => t.pair (.reg n)
  | .trans => 0

/-- The values that a destination of n words holds before a word (R73). -/
def Thread.oldWords (t : Thread) (d : Dst) (n : Nat) : List Word :=
  match d with
  | .reg 0 => List.replicate n 0
  | .reg r => (List.range n).map fun i => t.reg (r + i)
  | .trans => List.replicate n 0

/-- The words of a pair. -/
def pairWords (v : Dword) : List Word := [v.extractLsb' 0 32, v.extractLsb' 32 32]

/-- The registers n, n + 1, … set to the words; v0 discards its word (R89). -/
def Thread.setRegs (t : Thread) (n : Nat) : List Word → Thread
  | [] => t
  | v :: r => (t.setReg n v).setRegs (n + 1) r

/-- The in-block offset of the last ALU-class write of each register noted (R68). -/
def Thread.note (t : Thread) (n : Nat) : Nat → Thread
  | 0 => t
  | k + 1 => { t with wrote := mput t.wrote n t.off }.note (n + 1) k

/-- A destination of one register, a pair or a run written at once (ALU class, R67). -/
def Thread.write (t : Thread) (d : Dst) (vs : List Word) : Thread :=
  match d with
  | .trans => t
  | .reg n => (t.setRegs n vs).note n vs.length

/-- An ALU-class result: written and put into the window when the guard is on (R67, R70); when the guard is off, the
window gets what the destination held (R73). -/
def Thread.emit (t : Thread) (d : Dst) (n : Nat) (f : Thread → List Word) : Thread :=
  if t.on then { t.write d (f t) with win := some (f t) :: t.win }
  else { t with win := some (t.oldWords d n) :: t.win }

/-- The rounding, FTZ and SAT in force for the thread's next word (R131, R132, R102). -/
def Thread.fmode (t : Thread) : FMode :=
  { rnd := t.hRnd.getD t.rnd, ftz := t.hFtz.getD t.ftz, sat := t.hSat }

/-- One 32-bit result for each lane. -/
def aluWord (d : Dst) (f : Thread → Word) (k : Nat) (s : State) : State :=
  s.mapLanes k fun _ t => t.emit d 1 fun t => [f t]

/-- One result from a; from a and b; from D, a and b (R153), with the modes in force. -/
def aluA (d : Dst) (a : Opnd) (f : FMode → Word → Word) : Nat → State → State :=
  aluWord d fun t => f t.fmode (t.src a)
def aluAB (d : Dst) (a b : Opnd) (f : FMode → Word → Word → Word) : Nat → State → State :=
  aluWord d fun t => f t.fmode (t.src a) (t.src b)
def aluDAB (d : Dst) (a b : Opnd) (f : FMode → Word → Word → Word → Word) : Nat → State → State :=
  aluWord d fun t => f t.fmode (t.old d) (t.src a) (t.src b)

/-- One 64-bit result for each lane. -/
def aluPair (d : Dst) (f : Thread → Dword) (k : Nat) (s : State) : State :=
  s.mapLanes k fun _ t => t.emit d 2 fun t => pairWords (f t)

end Sys2Proof.Machine
end

