-- ==== Sys2Proof/Machine/Legal.lean ====
section
/-! DEFINITION. What makes a word of a block illegal (R86 to R111) and which trap reports it: the roles of its
operands, its class for the forwarding window, its placement, the HINT fields that it honours, and its rule inside a
transaction. -/

namespace Sys2Proof.Machine

set_option Elab.async false

/-- The role of one operand: a source of w words (1, a pair 2, a quad 4); a source and destination pair (R204); a
destination of w words, code 0 allowed or not for a pair or quad (R89); runs of n registers at a multiple of al; a
join mask; a tether slot. -/
inductive Use
  | rd (o : Opnd) (w : Nat)
  | rdwr (o : Opnd)
  | wr (d : Dst) (w : Nat) (zero : Bool)
  | rdRun (o : Opnd) (n al : Nat)
  | wrRun (d : Dst) (n al : Nat)
  | mask (n : Nat)
  | teth (n : Nat)
  deriving DecidableEq, Repr

/-- What the forwarding window sees of a word (R67, R68, R70): not counted, no destination, an ALU-class destination
of w words, a memory-class destination. -/
inductive WClass
  | hint | none | alu (w : Nat) | mem
  deriving DecidableEq, Repr

/-- The rule of R324 for a word inside a transaction: allowed, forbidden to the lane, forbidden to the bundle. -/
inductive TxRule
  | free | lane | bundle
  deriving DecidableEq, Repr

/-- The static properties of a word. -/
structure Info where
  uses : List Use := []
  cls : WClass := .none
  /-- S, or that R107 requires it. -/
  s : Bool := false
  mustS : Bool := false
  /-- R107: must head its block; must stand alone in its block. -/
  head : Bool := false
  alone : Bool := false
  /-- R49: a control transfer or JOIN. -/
  ctl : Bool := false
  tx : TxRule := .free
  /-- R156, R262: the MOD fields it honours; R102: HINT OFF and HINT IMM apply to it. -/
  rnd : Bool := false
  ftz : Bool := false
  sat : Bool := false
  pol : Bool := false
  off : Bool := false
  imm : Bool := false
  /-- R153: D is read as a source too. -/
  acc : Bool := false
  deriving DecidableEq, Repr

/-- The static properties of each word, from the entries of the spec. Events are no words. -/
def info : Instr → Info
  | .hintImm _ => { cls := .hint }
  | .hintOff _ => { cls := .hint }
  | .hintMod _ _ _ _ _ => { cls := .hint }
  | .hintPrio _ => { cls := .hint }
  | .pblk c _ _ => { uses := [.rd c 1], cls := .none }
  | .bra s _ => { s := s, ctl := true }
  | .brz s a _ => { uses := [.rd a 1], cls := .none, s := s, ctl := true }
  | .brnz s a _ => { uses := [.rd a 1], cls := .none, s := s, ctl := true }
  | .call s l _ => { uses := [.wr l 1 false], cls := .alu 1, s := s, ctl := true }
  | .brx s a => { uses := [.rd a 1], cls := .none, s := s, ctl := true }
  | .ret s a => { uses := [.rd a 1], cls := .none, s := s, ctl := true }
  | .callx s d a => { uses := [.wr d 1 false, .rd a 1], cls := .alu 1, s := s, ctl := true }
  | .nop s => { s := s }
  | .exit s => { s := s, ctl := true, tx := .lane }
  | .trap s a => { uses := [.rd a 1], cls := .none, s := s }
  | .syscall d a b => { uses := [.wr d 1 false, .rd a 1, .rd b 1], cls := .mem, s := true, mustS := true, tx := .lane }
  | .bkpt s => { s := s }
  | .iflush => { s := true, mustS := true, tx := .lane }
  | .join s n => { uses := [.mask n], cls := .none, s := s, ctl := true, tx := .lane }
  | .jset s n b => { uses := [.rd b 2, .mask n], cls := .none, s := s, tx := .lane }
  | .jget s d n => { uses := [.wr d 2 false, .mask n], cls := .alu 2, s := s }
  | .jleave s n => { uses := [.mask n], cls := .none, s := s, tx := .lane }
  | .sread s d _ => { uses := [.wr d 1 false], cls := .alu 1, s := s }
  | .swrite s _ b => { uses := [.rd b 1], cls := .none, s := s, tx := .lane }
  | .iadd s d a b => { uses := [.wr d 1 false, .rd a 1, .rd b 1], cls := .alu 1, s := s }
  | .isub s d a b => { uses := [.wr d 1 false, .rd a 1, .rd b 1], cls := .alu 1, s := s }
  | .iadds s d a b => { uses := [.wr d 1 false, .rd a 1, .rd b 1], cls := .alu 1, s := s }
  | .isubs s d a b => { uses := [.wr d 1 false, .rd a 1, .rd b 1], cls := .alu 1, s := s }
  | .uadds s d a b => { uses := [.wr d 1 false, .rd a 1, .rd b 1], cls := .alu 1, s := s }
  | .usubs s d a b => { uses := [.wr d 1 false, .rd a 1, .rd b 1], cls := .alu 1, s := s }
  | .imin s d a b => { uses := [.wr d 1 false, .rd a 1, .rd b 1], cls := .alu 1, s := s }
  | .imax s d a b => { uses := [.wr d 1 false, .rd a 1, .rd b 1], cls := .alu 1, s := s }
  | .umin s d a b => { uses := [.wr d 1 false, .rd a 1, .rd b 1], cls := .alu 1, s := s }
  | .umax s d a b => { uses := [.wr d 1 false, .rd a 1, .rd b 1], cls := .alu 1, s := s }
  | .iabs s d a => { uses := [.wr d 1 false, .rd a 1], cls := .alu 1, s := s }
  | .ineg s d a => { uses := [.wr d 1 false, .rd a 1], cls := .alu 1, s := s }
  | .idiff s d a b => { uses := [.wr d 1 false, .rd a 1, .rd b 1], cls := .alu 1, s := s }
  | .and s d a b => { uses := [.wr d 1 false, .rd a 1, .rd b 1], cls := .alu 1, s := s }
  | .or s d a b => { uses := [.wr d 1 false, .rd a 1, .rd b 1], cls := .alu 1, s := s }
  | .xor s d a b => { uses := [.wr d 1 false, .rd a 1, .rd b 1], cls := .alu 1, s := s }
  | .andn s d a b => { uses := [.wr d 1 false, .rd a 1, .rd b 1], cls := .alu 1, s := s }
  | .orn s d a b => { uses := [.wr d 1 false, .rd a 1, .rd b 1], cls := .alu 1, s := s }
  | .xnor s d a b => { uses := [.wr d 1 false, .rd a 1, .rd b 1], cls := .alu 1, s := s }
  | .not s d a => { uses := [.wr d 1 false, .rd a 1], cls := .alu 1, s := s }
  | .shl s d a b => { uses := [.wr d 1 false, .rd a 1, .rd b 1], cls := .alu 1, s := s }
  | .shr s d a b => { uses := [.wr d 1 false, .rd a 1, .rd b 1], cls := .alu 1, s := s }
  | .sar s d a b => { uses := [.wr d 1 false, .rd a 1, .rd b 1], cls := .alu 1, s := s }
  | .rol s d a b => { uses := [.wr d 1 false, .rd a 1, .rd b 1], cls := .alu 1, s := s }
  | .ror s d a b => { uses := [.wr d 1 false, .rd a 1, .rd b 1], cls := .alu 1, s := s }
  | .popc s d a => { uses := [.wr d 1 false, .rd a 1], cls := .alu 1, s := s }
  | .clz s d a => { uses := [.wr d 1 false, .rd a 1], cls := .alu 1, s := s }
  | .ctz s d a => { uses := [.wr d 1 false, .rd a 1], cls := .alu 1, s := s }
  | .brev s d a => { uses := [.wr d 1 false, .rd a 1], cls := .alu 1, s := s }
  | .bfe s d a b => { uses := [.wr d 1 false, .rd a 1, .rd b 1], cls := .alu 1, s := s }
  | .bfeu s d a b => { uses := [.wr d 1 false, .rd a 1, .rd b 1], cls := .alu 1, s := s }
  | .bfi s d a b => { uses := [.wr d 1 false, .rd a 1, .rd b 1], cls := .alu 1, s := s, acc := true }
  | .bperm s d a b => { uses := [.wr d 1 false, .rd a 1, .rd b 1], cls := .alu 1, s := s, acc := true }
  | .bswap s d a => { uses := [.wr d 1 false, .rd a 1], cls := .alu 1, s := s }
  | .imul s d a b => { uses := [.wr d 1 false, .rd a 1, .rd b 1], cls := .alu 1, s := s }
  | .imulhi s d a b => { uses := [.wr d 1 false, .rd a 1, .rd b 1], cls := .alu 1, s := s }
  | .umulhi s d a b => { uses := [.wr d 1 false, .rd a 1, .rd b 1], cls := .alu 1, s := s }
  | .imad s d a b => { uses := [.wr d 1 false, .rd a 1, .rd b 1], cls := .alu 1, s := s, acc := true }
  | .umadw s d a b => { uses := [.wr d 2 false, .rd a 1, .rd b 1], cls := .alu 2, s := s, acc := true }
  | .imadw s d a b => { uses := [.wr d 2 false, .rd a 1, .rd b 1], cls := .alu 2, s := s, acc := true }
  | .idot4 s d a b => { uses := [.wr d 1 false, .rd a 1, .rd b 1], cls := .alu 1, s := s, sat := true, acc := true }
  | .udot4 s d a b => { uses := [.wr d 1 false, .rd a 1, .rd b 1], cls := .alu 1, s := s, sat := true, acc := true }
  | .isetEq s d a b => { uses := [.wr d 1 false, .rd a 1, .rd b 1], cls := .alu 1, s := s }
  | .isetNe s d a b => { uses := [.wr d 1 false, .rd a 1, .rd b 1], cls := .alu 1, s := s }
  | .isetLt s d a b => { uses := [.wr d 1 false, .rd a 1, .rd b 1], cls := .alu 1, s := s }
  | .isetLe s d a b => { uses := [.wr d 1 false, .rd a 1, .rd b 1], cls := .alu 1, s := s }
  | .isetGt s d a b => { uses := [.wr d 1 false, .rd a 1, .rd b 1], cls := .alu 1, s := s }
  | .isetGe s d a b => { uses := [.wr d 1 false, .rd a 1, .rd b 1], cls := .alu 1, s := s }
  | .usetLt s d a b => { uses := [.wr d 1 false, .rd a 1, .rd b 1], cls := .alu 1, s := s }
  | .usetLe s d a b => { uses := [.wr d 1 false, .rd a 1, .rd b 1], cls := .alu 1, s := s }
  | .usetGt s d a b => { uses := [.wr d 1 false, .rd a 1, .rd b 1], cls := .alu 1, s := s }
  | .usetGe s d a b => { uses := [.wr d 1 false, .rd a 1, .rd b 1], cls := .alu 1, s := s }
  | .sel s d a b => { uses := [.wr d 1 false, .rd a 1, .rd b 1], cls := .alu 1, s := s, acc := true }
  | .iaddi s d a _ => { uses := [.wr d 1 false, .rd a 1], cls := .alu 1, s := s, imm := true }
  | .andi s d a _ => { uses := [.wr d 1 false, .rd a 1], cls := .alu 1, s := s, imm := true }
  | .ori s d a _ => { uses := [.wr d 1 false, .rd a 1], cls := .alu 1, s := s, imm := true }
  | .xori s d a _ => { uses := [.wr d 1 false, .rd a 1], cls := .alu 1, s := s, imm := true }
  | .shli s d a _ => { uses := [.wr d 1 false, .rd a 1], cls := .alu 1, s := s }
  | .shri s d a _ => { uses := [.wr d 1 false, .rd a 1], cls := .alu 1, s := s }
  | .sari s d a _ => { uses := [.wr d 1 false, .rd a 1], cls := .alu 1, s := s }
  | .roli s d a _ => { uses := [.wr d 1 false, .rd a 1], cls := .alu 1, s := s }
  | .rori s d a _ => { uses := [.wr d 1 false, .rd a 1], cls := .alu 1, s := s }
  | .movi s d _ => { uses := [.wr d 1 false], cls := .alu 1, s := s }
  | .movhi s d _ => { uses := [.wr d 1 false], cls := .alu 1, s := s, acc := true }
  | .addp s d a b => { uses := [.wr d 2 false, .rd a 2, .rd b 1], cls := .alu 2, s := s }
  | .addps s d a b => { uses := [.wr d 1 false, .rd a 1, .rd b 1], cls := .alu 1, s := s }
  | .leap1 s d a b => { uses := [.wr d 2 false, .rd a 2, .rd b 1], cls := .alu 2, s := s }
  | .leap2 s d a b => { uses := [.wr d 2 false, .rd a 2, .rd b 1], cls := .alu 2, s := s }
  | .leap3 s d a b => { uses := [.wr d 2 false, .rd a 2, .rd b 1], cls := .alu 2, s := s }
  | .leap4 s d a b => { uses := [.wr d 2 false, .rd a 2, .rd b 1], cls := .alu 2, s := s }
  | .subp s d a b => { uses := [.wr d 2 false, .rd a 2, .rd b 2], cls := .alu 2, s := s }
  | .fadd s d a b => { uses := [.wr d 1 false, .rd a 1, .rd b 1], cls := .alu 1, s := s, rnd := true, ftz := true, sat := true }
  | .fsub s d a b => { uses := [.wr d 1 false, .rd a 1, .rd b 1], cls := .alu 1, s := s, rnd := true, ftz := true, sat := true }
  | .fmul s d a b => { uses := [.wr d 1 false, .rd a 1, .rd b 1], cls := .alu 1, s := s, rnd := true, ftz := true, sat := true }
  | .fmin s d a b => { uses := [.wr d 1 false, .rd a 1, .rd b 1], cls := .alu 1, s := s, ftz := true }
  | .fmax s d a b => { uses := [.wr d 1 false, .rd a 1, .rd b 1], cls := .alu 1, s := s, ftz := true }
  | .fabs s d a => { uses := [.wr d 1 false, .rd a 1], cls := .alu 1, s := s }
  | .fneg s d a => { uses := [.wr d 1 false, .rd a 1], cls := .alu 1, s := s }
  | .fcopysign s d a b => { uses := [.wr d 1 false, .rd a 1, .rd b 1], cls := .alu 1, s := s }
  | .ffma s d a b => { uses := [.wr d 1 false, .rd a 1, .rd b 1], cls := .alu 1, s := s, rnd := true, ftz := true, sat := true, acc := true }
  | .ffms s d a b => { uses := [.wr d 1 false, .rd a 1, .rd b 1], cls := .alu 1, s := s, rnd := true, ftz := true, sat := true, acc := true }
  | .fdot2 s d a b => { uses := [.wr d 1 false, .rd a 1, .rd b 1], cls := .alu 1, s := s, rnd := true, ftz := true, sat := true, acc := true }
  | .fsetEq s d a b => { uses := [.wr d 1 false, .rd a 1, .rd b 1], cls := .alu 1, s := s, ftz := true }
  | .fsetNe s d a b => { uses := [.wr d 1 false, .rd a 1, .rd b 1], cls := .alu 1, s := s, ftz := true }
  | .fsetLt s d a b => { uses := [.wr d 1 false, .rd a 1, .rd b 1], cls := .alu 1, s := s, ftz := true }
  | .fsetLe s d a b => { uses := [.wr d 1 false, .rd a 1, .rd b 1], cls := .alu 1, s := s, ftz := true }
  | .fsetGt s d a b => { uses := [.wr d 1 false, .rd a 1, .rd b 1], cls := .alu 1, s := s, ftz := true }
  | .fsetGe s d a b => { uses := [.wr d 1 false, .rd a 1, .rd b 1], cls := .alu 1, s := s, ftz := true }
  | .fsetUn s d a b => { uses := [.wr d 1 false, .rd a 1, .rd b 1], cls := .alu 1, s := s, ftz := true }
  | .fclass s d a => { uses := [.wr d 1 false, .rd a 1], cls := .alu 1, s := s }
  | .frcp s d a => { uses := [.wr d 1 false, .rd a 1], cls := .alu 1, s := s, rnd := true, ftz := true, sat := true }
  | .frsq s d a => { uses := [.wr d 1 false, .rd a 1], cls := .alu 1, s := s, rnd := true, ftz := true, sat := true }
  | .fsqrt s d a => { uses := [.wr d 1 false, .rd a 1], cls := .alu 1, s := s, rnd := true, ftz := true, sat := true }
  | .fexp2 s d a => { uses := [.wr d 1 false, .rd a 1], cls := .alu 1, s := s, rnd := true, ftz := true, sat := true }
  | .flog2 s d a => { uses := [.wr d 1 false, .rd a 1], cls := .alu 1, s := s, rnd := true, ftz := true, sat := true }
  | .fsin2pi s d a => { uses := [.wr d 1 false, .rd a 1], cls := .alu 1, s := s, rnd := true, ftz := true, sat := true }
  | .fcos2pi s d a => { uses := [.wr d 1 false, .rd a 1], cls := .alu 1, s := s, rnd := true, ftz := true, sat := true }
  | .ftanh s d a => { uses := [.wr d 1 false, .rd a 1], cls := .alu 1, s := s, rnd := true, ftz := true, sat := true }
  | .fdiv s d a b => { uses := [.wr d 1 false, .rd a 1, .rd b 1], cls := .alu 1, s := s, rnd := true, ftz := true, sat := true }
  | .hadd2Bf s d a b => { uses := [.wr d 1 false, .rd a 1, .rd b 1], cls := .alu 1, s := s, rnd := true, ftz := true, sat := true }
  | .hsub2Bf s d a b => { uses := [.wr d 1 false, .rd a 1, .rd b 1], cls := .alu 1, s := s, rnd := true, ftz := true, sat := true }
  | .hmul2Bf s d a b => { uses := [.wr d 1 false, .rd a 1, .rd b 1], cls := .alu 1, s := s, rnd := true, ftz := true, sat := true }
  | .hfma2Bf s d a b => { uses := [.wr d 1 false, .rd a 1, .rd b 1], cls := .alu 1, s := s, rnd := true, ftz := true, sat := true, acc := true }
  | .hmin2Bf s d a b => { uses := [.wr d 1 false, .rd a 1, .rd b 1], cls := .alu 1, s := s, ftz := true }
  | .hmax2Bf s d a b => { uses := [.wr d 1 false, .rd a 1, .rd b 1], cls := .alu 1, s := s, ftz := true }
  | .hadd2H s d a b => { uses := [.wr d 1 false, .rd a 1, .rd b 1], cls := .alu 1, s := s, rnd := true, ftz := true, sat := true }
  | .hsub2H s d a b => { uses := [.wr d 1 false, .rd a 1, .rd b 1], cls := .alu 1, s := s, rnd := true, ftz := true, sat := true }
  | .hmul2H s d a b => { uses := [.wr d 1 false, .rd a 1, .rd b 1], cls := .alu 1, s := s, rnd := true, ftz := true, sat := true }
  | .hfma2H s d a b => { uses := [.wr d 1 false, .rd a 1, .rd b 1], cls := .alu 1, s := s, rnd := true, ftz := true, sat := true, acc := true }
  | .hmin2H s d a b => { uses := [.wr d 1 false, .rd a 1, .rd b 1], cls := .alu 1, s := s, ftz := true }
  | .hmax2H s d a b => { uses := [.wr d 1 false, .rd a 1, .rd b 1], cls := .alu 1, s := s, ftz := true }
  | .cfma s d a b => { uses := [.wr d 2 false, .rd a 2, .rd b 2], cls := .alu 2, s := s, rnd := true, ftz := true, sat := true, acc := true }
  | .cfms s d a b => { uses := [.wr d 2 false, .rd a 2, .rd b 2], cls := .alu 2, s := s, rnd := true, ftz := true, sat := true, acc := true }
  | .cmul s d a b => { uses := [.wr d 2 false, .rd a 2, .rd b 2], cls := .alu 2, s := s, rnd := true, ftz := true, sat := true }
  | .f2i s d a => { uses := [.wr d 1 false, .rd a 1], cls := .alu 1, s := s, rnd := true, ftz := true }
  | .f2u s d a => { uses := [.wr d 1 false, .rd a 1], cls := .alu 1, s := s, rnd := true, ftz := true }
  | .i2f s d a => { uses := [.wr d 1 false, .rd a 1], cls := .alu 1, s := s, rnd := true }
  | .u2f s d a => { uses := [.wr d 1 false, .rd a 1], cls := .alu 1, s := s, rnd := true }
  | .f2bf s d a b => { uses := [.wr d 1 false, .rd a 1, .rd b 1], cls := .alu 1, s := s, rnd := true, ftz := true, sat := true }
  | .bf2f s d a => { uses := [.wr d 1 false, .rd a 1], cls := .alu 1, s := s, ftz := true }
  | .f2h s d a b => { uses := [.wr d 1 false, .rd a 1, .rd b 1], cls := .alu 1, s := s, rnd := true, ftz := true, sat := true }
  | .h2f s d a => { uses := [.wr d 1 false, .rd a 1], cls := .alu 1, s := s, ftz := true }
  | .f2e4 s d a b => { uses := [.wr d 1 false, .rd a 1, .rd b 1], cls := .alu 1, s := s, rnd := true, sat := true, acc := true }
  | .e42f s d a => { uses := [.wr d 1 false, .rd a 1], cls := .alu 1, s := s }
  | .f2e5 s d a b => { uses := [.wr d 1 false, .rd a 1, .rd b 1], cls := .alu 1, s := s, rnd := true, sat := true, acc := true }
  | .e52f s d a => { uses := [.wr d 1 false, .rd a 1], cls := .alu 1, s := s }
  | .qnt s d a b => { uses := [.wr d 2 false, .rd a 1, .rd b 1], cls := .alu 2, s := s, tx := .bundle }
  | .dqnt s d a b => { uses := [.wr d 1 false, .rd a 1, .rd b 1], cls := .alu 1, s := s, rnd := true, ftz := true, sat := true }
  | .pack8 s d a b => { uses := [.wr d 1 false, .rd a 1, .rd b 1], cls := .alu 1, s := s, acc := true }
  | .frnd s d a => { uses := [.wr d 1 false, .rd a 1], cls := .alu 1, s := s, rnd := true, ftz := true }
  | .shflIdx s d a b => { uses := [.wr d 1 false, .rd a 1, .rd b 1], cls := .alu 1, s := s, tx := .bundle }
  | .shflUp s d a b => { uses := [.wr d 1 false, .rd a 1, .rd b 1], cls := .alu 1, s := s, tx := .bundle }
  | .shflDown s d a b => { uses := [.wr d 1 false, .rd a 1, .rd b 1], cls := .alu 1, s := s, tx := .bundle }
  | .shflXor s d a b => { uses := [.wr d 1 false, .rd a 1, .rd b 1], cls := .alu 1, s := s, tx := .bundle }
  | .voteAll s d a => { uses := [.wr d 1 false, .rd a 1], cls := .alu 1, s := s, tx := .bundle }
  | .voteAny s d a => { uses := [.wr d 1 false, .rd a 1], cls := .alu 1, s := s, tx := .bundle }
  | .voteBallot s d a => { uses := [.wr d 2 false, .rd a 1], cls := .alu 2, s := s, tx := .bundle }
  | .wredIadd s d a => { uses := [.wr d 1 false, .rd a 1], cls := .alu 1, s := s, tx := .bundle }
  | .wredImax s d a => { uses := [.wr d 1 false, .rd a 1], cls := .alu 1, s := s, tx := .bundle }
  | .wredFadd s d a => { uses := [.wr d 1 false, .rd a 1], cls := .alu 1, s := s, tx := .bundle }
  | .wscanIadd s d a => { uses := [.wr d 1 false, .rd a 1], cls := .alu 1, s := s, tx := .bundle }
  | .wmatch s d a => { uses := [.wr d 2 false, .rd a 1], cls := .alu 2, s := s, tx := .bundle }
  | .ld s d b _ z _ _ => { uses := [.wr d z.width false, .rd b 2], cls := .mem, s := s, pol := true, off := true }
  | .st s d b _ z o _ => { uses := [.rd d z.width, .rd b 2], cls := .none, s := s, mustS := decide (o ≠ .plain), tx := if o = .plain then .free else .lane, pol := true, off := true }
  | .lds s d b _ z _ => { uses := [.wr d z.width false, .rd b 1], cls := .mem, s := s, off := true }
  | .sts s d b _ z _ => { uses := [.rd d z.width, .rd b 1], cls := .none, s := s, tx := .lane, off := true }
  | .ldm s d b n scr _ => { uses := [.wrRun d n 1, .rd b (if scr then 1 else 2)], cls := .mem, s := s, pol := true, off := true }
  | .stm s d b n scr _ => { uses := [.rdRun d n 1, .rd b (if scr then 1 else 2)], cls := .none, s := s, tx := if scr then .lane else .free, pol := true, off := true }
  | .ldc s d b _ z => { uses := [.wr d z.width false, .rd b 2], cls := .mem, s := s, off := true }
  | .pref s a => { uses := [.rd a 2], cls := .none, s := s, pol := true }
  | .clock s d a => { uses := [.wr d 1 false, .rd a 2], cls := .mem, s := s, tx := .lane }
  | .cunlock s a => { uses := [.rd a 2], cls := .none, s := s, tx := .lane }
  | .cflush s a => { uses := [.rd a 2], cls := .none, s := s, tx := .lane }
  | .cclean s a => { uses := [.rd a 2], cls := .none, s := s, tx := .lane }
  | .atom d b a op => { uses := [.wr d op.width true, .rd a op.width, .rd b 2], cls := .mem, s := true, mustS := true, tx := .lane, off := true }
  | .red b a op => { uses := [.rd a op.width, .rd b 2], cls := .none, s := true, mustS := true, tx := .lane, off := true }
  | .cas d b a => { uses := [.wr d 1 false, .rd a 1, .rd b 2], cls := .mem, s := true, mustS := true, tx := .lane, acc := true, off := true }
  | .cas64 d b a => { uses := [.wr d 2 true, .rd a 2, .rd b 2], cls := .mem, s := true, mustS := true, tx := .lane, acc := true, off := true }
  | .fenceAcq s _ => { s := s }
  | .fenceRel _ => { s := true, mustS := true, tx := .lane }
  | .fenceAcqrel _ => { s := true, mustS := true, tx := .lane }
  | .fenceSc _ => { s := true, mustS := true, tx := .lane }
  | .qfence _ => { s := true, mustS := true, tx := .lane }
  | .ctradd b a _ _ => { uses := [.rd a 2, .rd b 2], cls := .none, s := true, mustS := true, tx := .lane, off := true }
  | .ctrread s d b _ _ => { uses := [.wr d 2 false, .rd b 2], cls := .mem, s := s, off := true }
  | .txbegin s _ => { s := s, head := true }
  | .orelse s _ => { s := s, head := true }
  | .txend => { s := true, mustS := true }
  | .retry => { s := true, mustS := true }
  | .txabort a => { uses := [.rd a 1], cls := .none, s := true, mustS := true }
  | .txstat s d => { uses := [.wr d 1 false], cls := .alu 1, s := s }
  | .copy dt sl c y k => { uses := [.rd c 2, .rd y (if k then 2 else 1), .teth dt, .teth sl], cls := .none, s := true, mustS := true, tx := .lane }
  | .gather dt sl c y k => { uses := [.rd c 2, .rd y (if k then 2 else 1), .teth dt, .teth sl], cls := .none, s := true, mustS := true, tx := .lane }
  | .scatter dt sl c y k => { uses := [.rd c 2, .rd y (if k then 2 else 1), .teth dt, .teth sl], cls := .none, s := true, mustS := true, tx := .lane }
  | .combine dt sl c y k => { uses := [.rd c 4, .rd y (if k then 2 else 1), .teth dt, .teth sl], cls := .none, s := true, mustS := true, tx := .lane }
  | .rinit a b => { uses := [.rd a 1, .rd b 1], cls := .none, s := true, mustS := true, tx := .lane }
  | .rfill s d a => { uses := [.wr d 1 false, .rd a 1], cls := .mem, s := s }
  | .rfree a b => { uses := [.rd a 1, .rd b 1], cls := .none, s := true, mustS := true, tx := .lane }
  | .rspace s d a => { uses := [.wr d 1 false, .rd a 1], cls := .mem, s := s }
  | .rstat s d a => { uses := [.wr d 2 false, .rd a 1], cls := .mem, s := s }
  | .launch a => { uses := [.rd a 2], cls := .none, s := true, mustS := true, tx := .lane }
  | .mmul _ x y p _ => { uses := [.rdwr p, .teth x, .teth y], cls := .none, s := true, mustS := true, alone := true, tx := .bundle }
  | .mstat x p => { uses := [.rd p 2, .teth x], cls := .none, s := true, mustS := true, alone := true, tx := .bundle }
  | .mstream _ x p _ _ => { uses := [.rdwr p, .teth x], cls := .none, s := true, mustS := true, alone := true, tx := .bundle }
  | .mdrain s _ x p _ => { uses := [.rd p 2, .teth x], cls := .none, s := s, tx := .bundle }
  | .mzero s _ p => { uses := [.rd p 2], cls := .none, s := s, tx := .bundle }
  | .ttset s a n => { uses := [.rdRun a 8 8, .teth n], cls := .none, s := s }
  | .ttget s d n => { uses := [.wrRun d 8 8, .teth n], cls := .alu 8, s := s }
  | .ttclr s n => { uses := [.teth n], cls := .none, s := s }
  | .markpush a => { uses := [.rd a 1], cls := .none, s := true, mustS := true, tx := .lane }
  | .markpop => { s := true, mustS := true, tx := .lane }
  | .markevt a b => { uses := [.rd a 1, .rd b 1], cls := .none, s := true, mustS := true, tx := .lane }
  | .markstat d => { uses := [.wr d 1 false], cls := .alu 1, s := true, mustS := true, tx := .lane }
  | .glomerWord _ => {}
  | .headerTake _ _ => {}
  | .launchIntake _ => {}
  | .trainArrival _ => {}
  | .trainAdmit _ => {}
  | .scratchZeroingDone _ _ _ => {}
  | .preemptStart _ => {}
  | .preemptStopComplete _ _ => {}
  | .contextSaveComplete _ _ => {}
  | .trainEnd _ _ => {}
  | .trainEndReport _ => {}
  | .threadWaiting _ _ _ => {}
  | .bundleSelect _ _ _ => {}
  | .marionetteCompare _ _ _ => {}
  | .pageTableWalk _ => {}
  | .homeRequest _ => {}
  | .answerMoved _ => {}
  | .answerResetting _ => {}
  | .answerFault _ => {}
  | .requestResend _ => {}
  | .deferredRefusal _ => {}
  | .heldNotice _ => {}
  | .publish _ => {}
  | .publishConfirm _ => {}
  | .widenAnswer _ => {}
  | .faultQueueEntry _ => {}
  | .trapRecordWrite _ => {}
  | .exitRecordWrite _ => {}
  | .matrixEntryFront _ _ _ => {}
  | .arbiterGrant _ _ => {}
  | .passEnd _ _ => {}
  | .pairedHoldTimeout _ _ => {}
  | .mstatPerform _ _ _ => {}
  | .mdrainPerform _ _ _ => {}
  | .mzeroPerform _ _ _ => {}
  | .operandFetchStop _ _ _ => {}
  | .streamerEntryStart _ _ => {}
  | .copyGranule _ _ _ => {}
  | .copyFault _ _ _ => {}
  | .copySync _ _ => {}
  | .combineContribution _ => {}
  | .combineEntryTimeout _ _ _ => {}
  | .combineResend _ _ => {}
  | .combineCounterAdd _ _ => {}
  | .conflictNotice _ => {}
  | .wakeMessage _ => {}
  | .solitaryTokenGrant _ => {}
  | .tokenTimeout _ => {}
  | .linkCrcError _ => {}
  | .linkReplay _ _ => {}
  | .bridleSend _ => {}
  | .bridleReceive _ => {}
  | .sequencerMulticast _ => {}
  | .kmsg _ => {}
  | .map _ => {}
  | .revoke _ => {}
  | .ack _ => {}
  | .commit _ => {}
  | .notice _ => {}
  | .fqhead _ _ => {}
  | .bstail _ _ => {}
  | .brhead _ _ => {}
  | .cause _ _ => {}
  | .controlRegisterWrite _ _ _ => {}
  | .queueRegister _ _ => {}
  | .queueHalt _ _ => {}
  | .queueRun _ _ => {}
  | .queueUnregister _ _ => {}
  | .crtail _ _ _ => {}
  | .descVaToVa _ _ => {}
  | .descVaToHost _ _ => {}
  | .descHostToVa _ _ => {}
  | .descVaToSpar _ _ => {}
  | .descFrame _ _ => {}
  | .descZero _ _ => {}
  | .descriptorEnd _ _ => {}
  | .resume _ => {}
  | .killThread _ => {}
  | .killGroup _ => {}
  | .faultFlight _ => {}
  | .checkpoint _ => {}
  | .retryfault _ => {}
  | .failfault _ => {}
  | .pcreate _ => {}
  | .passign _ => {}
  | .prelease _ => {}
  | .keyload _ => {}
  | .attest _ => {}
  | .verify _ => {}
  | .enroll _ => {}
  | .svnlock _ => {}
  | .syscallEcho _ => {}
  | .syscallQreg _ => {}
  | .syscallQhalt _ => {}
  | .syscallMap _ _ => {}
  | .syscallUnmap _ => {}
  | .syscallWindow _ => {}
  | .traceOpen _ => {}
  | .traceStop _ => {}
  | .traceStatus _ => {}
  | .traceClose _ => {}
  | .traceRecordWrite _ => {}
  | .sampleTimer _ _ => {}
  | .passAdvance _ => {}
  | .pciePostedWrite _ _ _ _ _ => {}
  | .pcieFetchadd _ _ _ _ _ => {}
  | .pcieUnsupportedAtomicop _ _ _ _ => {}
  | .pcieMemoryRead _ _ _ _ _ => {}
  | .functionLevelReset _ _ => {}
  | .sparWrite _ => {}
  | .vauxGood _ => {}
  | .dieJoin _ _ => {}
  | .calibrationComplete _ => {}
  | .heartbeatTimeout _ => {}
  | .warmResetStart _ => {}
  | .warmResetDrained _ => {}
  | .warmResetDrainTimeout _ => {}
  | .warmResetRejoin _ => {}
  | .dieLoss _ => {}
  | .scrubLine _ _ => {}
  | .answerPerformed _ => {}
  | .syscallAnswer _ _ => {}
  | .dieLogicHang _ => {}
  | .dieKernelPreempt _ _ => {}
  | .routerReset _ => {}
  | .cxlMemRequest _ _ _ => {}
  | .portModeChange _ _ => {}
  | .checkpointBufferComplete _ => {}
/-- The word ends its block (R49): a control transfer, JOIN or S = 1. -/
def endsBlock (i : Instr) : Bool := (info i).ctl || (info i).s

/-- Limits under which a block's words are checked (R35): form, NREGS, NJOIN, NTETH. -/
structure Limits where
  glomer : Bool := false
  nregs : Nat := 0
  njoin : Nat := 0
  nteth : Nat := 0
  deriving DecidableEq, Repr

/-- A register operand of w words at code n, aligned to al: SUB 1 for a bad code (R89), SUB 2 at or above NREGS (R35);
in Glomer form every number to 1015 is a register (R113). 0 is no fault. -/
def regSub (c : Limits) (n w al : Nat) : Nat :=
  if n % al ≠ 0 then 1
  else if (if c.glomer then 1015 else 119) < n + w - 1 then 1
  else if !c.glomer && c.nregs ≤ n + w - 1 then 2
  else 0

/-- A w name in an operand of w words: it must name an ALU-class destination (R72), wide enough for a pair or quad
(R70). `cls` are the classes of the earlier counted words, newest first. -/
def winSub (cls : List WClass) (k w : Nat) : Nat :=
  match cls[k - 1]? with
  | some (.alu n) => if n < w then 3 else 0
  | _ => 3

/-- The SUB of an operand's fault, 0 for none; a run of 8 does not start at code 0 (R150). -/
def useSub (c : Limits) (cls : List WClass) : Use → Nat
  | .rd (.reg n) w => if n = 0 then 0 else regSub c n w w
  | .rd (.win k) w => winSub cls k w
  | .rdwr (.reg n) => if n = 0 then 1 else regSub c n 2 2
  | .rdwr (.win _) => 3
  | .wr .trans _ _ => 0
  | .wr (.reg n) w zero => if n = 0 then (if w = 1 || zero then 0 else 1) else regSub c n w w
  | .rdRun (.reg n) w al => if n = 0 && al ≠ 1 then 1 else regSub c n w al
  | .rdRun (.win _) _ _ => 1
  | .wrRun (.reg n) w al => if n = 0 && al ≠ 1 then 1 else regSub c n w al
  | .wrRun .trans _ _ => 1
  | .mask n => if c.njoin ≤ n then 2 else 0
  | .teth n => if c.nteth ≤ n then 2 else 0

/-- The counted words, with HINT words left out (R70). -/
def counted (l : List Instr) : List Instr := l.filter fun i => (info i).cls ≠ .hint

/-- The HINT words since the last counted word, newest first (R102). -/
def hintsBefore : List Instr → List Instr
  | [] => []
  | i :: r => if (info i).cls = .hint then i :: hintsBefore r else []

/-- A HINT word that its target does not allow (R103). -/
def hintBad (t : Info) : Instr → Bool
  | .hintImm _ => !t.imm
  | .hintOff _ => !t.off
  | .hintMod rov pol sat ftz _ => (rov && !t.rnd) || (ftz && !t.ftz) || (sat && !t.sat) || (pol.isSome && !t.pol)
  | _ => false

/-- KIND of a HINT word (R101); 4 for any other word. -/
def hintKind : Instr → Nat
  | .hintImm _ => 0
  | .hintOff _ => 1
  | .hintMod _ _ _ _ _ => 2
  | .hintPrio _ => 3
  | _ => 4

/-- A later word of a block as a word before it sees it: whether its major is HINT's, and the instruction that it is, if any. -/
structure Later where
  hint : Bool := false
  instr : Option Instr := none
  deriving DecidableEq, Repr

/-- The target of a HINT word among the later words: the first that is no HINT word (R102). -/
def hintTarget (after : List Later) : Option Later := after.find? fun o => !o.hint

/-- A HINT word's own faults (R103): no target, a second one of its kind, a target that does not allow it (one that is no
instruction allows only a PRIO word, and a MOD word that sets nothing). -/
def hintSub (before : List Instr) (i : Instr) (after : List Later) : Nat :=
  if hintKind i = 4 then 0
  else
    match hintTarget after with
    | none => 1
    | some t =>
      if hintBad ((t.instr.map info).getD {}) i || (hintsBefore before).any (fun j => hintKind j = hintKind i) then 1 else 0

/-- An earlier PBLK word guards a word that stands behind n guarded places of it (R104). -/
def underPblk : List Instr → Nat → Bool
  | [], _ => false
  | .pblk _ n _ :: _, d => decide (d < n)
  | i :: r, d => underPblk r (if hintKind i = 4 then d + 1 else d)

/-- PBLK's own faults (R105): guarded words outside its block, a PAT bit beyond them, a place under another PBLK. -/
def pblkSub (before : List Instr) (i : Instr) (after : List Later) : Nat :=
  match i with
  | .pblk _ n p => if (after.filter fun o => !o.hint).length < n || 2 ^ n ≤ p.toNat || underPblk before 0 then 1 else 0
  | _ => 0

/-- Placement (R107): SUB 6. In Glomer form, where the core ignores S (R112), a word that must carry S = 1 must be the last of its
block (DESIGN CHOICE, log 97). -/
def placeSub (glomer : Bool) (before : List Instr) (i : Instr) (after : List Later) : Nat :=
  let f := info i
  let wrong : Bool := f.mustS && (if glomer then decide (after ≠ []) else !f.s)
  if wrong || (f.head && before ≠ []) || (f.alone && (before ≠ [] || after ≠ [])) then 6 else 0

/-- The least SUB that is not 0, 0 when there is none. Which code a word with several faults reports the spec leaves
open (log 10). -/
def leastSub (l : List Nat) : Nat := ((leastBy id (l.filter (· ≠ 0))).getD 0)

/-- The SUB of a word between the words before it (newest first) and after it, 0 when it is legal. -/
def wordSub (c : Limits) (before : List Instr) (i : Instr) (after : List Later) : Nat :=
  let cls := (counted before).map fun j => (info j).cls
  leastSub ((info i).uses.map (useSub c cls) ++ [placeSub c.glomer before i after, hintSub before i after, pblkSub before i after])

/-- The instruction of a fetched word in its form (R86, R112). -/
def bodyInstr (glomer : Bool) (w : Nat) : Option Instr :=
  if glomer then (decodeGlomer w).map (·.1) else decodeWord w

/-- A fetched word as an earlier word of its block sees it: HINT is major 0 (R101). -/
def later (glomer : Bool) (w : Nat) : Later :=
  { hint := (if glomer then bits w 62 57 else bits w 30 25) = 0, instr := bodyInstr glomer w }

/-- SUB of a word that is no instruction: 6 for a wrong S (R107), else 1 (R110). -/
def badSub (glomer : Bool) (w : Nat) : Nat := if !glomer && wrongS w then 6 else 1

/-- The first illegal word of a block (R111): its place and SUB. -/
def blockFault (c : Limits) : List Instr → Nat → List Nat → Option (Nat × Nat)
  | _, _, [] => none
  | before, n, w :: rest =>
    match bodyInstr c.glomer w with
    | none => some (n, badSub c.glomer w)
    | some i =>
      let sub := wordSub c before i (rest.map (later c.glomer))
      if sub ≠ 0 then some (n, sub) else blockFault c (i :: before) (n + 1) rest

/-- The earlier words of a block, newest first, up to place n. -/
def wordsBefore (glomer : Bool) (code : List (Nat × Bool)) (n : Nat) : List Instr :=
  ((code.take n).filterMap fun p => bodyInstr glomer p.1).reverse

/-- The limits of a bundle's flight. -/
def State.limits (s : State) (k : Nat) : Limits :=
  let b := s.bundle k
  let h := (s.flight b.flight).hdr
  { glomer := b.glomer, nregs := h.nregs, njoin := h.njoin, nteth := h.nteth }

/-- The SUB of a word about to execute at its bundle's place, 0 when it is legal there. -/
def State.subAt (s : State) (k : Nat) (i : Instr) : Nat :=
  let b := s.bundle k
  wordSub (s.limits k) (wordsBefore b.glomer b.code b.pos) i ((b.code.drop (b.pos + 1)).map fun p => later b.glomer p.1)

end Sys2Proof.Machine
end

