-- ==== Sys2Proof/Machine/Place.lean ====
section
/-! DEFINITION. Placing one instruction word as the next word of a bundle that streams: what stands for the load of a
program from outside (log 13). -/

namespace Sys2Proof.Machine

set_option Elab.async false

/-- A word with the S bit that has no effect. -/
def nopEnd : Nat := (Instr.nop true).word

/-- The words that follow a placed word in its block, so that the block is legal: the target of a HINT word (R103), the
words that PBLK guards (R105), and a last word with S = 1. -/
def companions (i : Instr) : List Nat :=
  match i with
  | .hintImm _ => [(Instr.iaddi true (.reg 0) (.reg 0) 0).word]
  | .hintOff _ => [(Instr.ld true (.reg 0) (.reg 0) .wave .b32 .plain .dflt).word]
  | .hintMod _ pol _ _ _ =>
    if pol.isSome then [(Instr.ld true (.reg 0) (.reg 0) .wave .b32 .plain .dflt).word]
    else [(Instr.fadd true (.reg 0) (.reg 0) (.reg 0)).word]
  | .pblk _ n _ => List.replicate (n - 1) (Instr.nop false).word ++ [nopEnd]
  | i => if endsBlock i then [] else [nopEnd]

/-- The code of a block that holds the placed word first. -/
def placedCode (nbits w : Nat) : List (Nat × Bool) :=
  if 32 < nbits then [(w, true)]
  else
    match decodeWord w with
    | none => [(w, true)]
    | some i =>
      let ws := w :: companions i
      ws.zipIdx.map fun p => (p.1, p.2 + 1 = ws.length)

/-- The state with one word placed: a flight of one train, one group and one wave with one live lane on core 0 of die 0,
whose bundle streams a block with the word first; no turn is pending. -/
def State.placeWord (s : State) (nbits w : Nat) : State :=
  let hdr : Header :=
    { nregs := 120, njoin := 8, nteth := 32, nacc := 4, scratch := 196608, producer := 0, widths := [6, 0, 0, 0, 0, 0] }
  let die := s.die 0
  let die := { die with life := .up, slots := mput die.slots 0 { vas := 1, en := true } }
  { s with
    focus := some 0
    turns := []
    dies := mput s.dies 0 die
    flights := mput s.flights 0 { hdr := hdr, vas := 1, glomer := 32 < nbits, left := 1 }
    trains := mput s.trains 0 { stat := .resident, groups := [0] }
    groups := mput s.groups 0 { wslots := [0], pages := List.range 48, banks := List.range 4 }
    waves := mput s.waves 0 {}
    threads := mput s.threads 0 { stat := .stream, glomer := 32 < nbits, first := s.nextId }
    bundles := mput s.bundles 0 { glomer := 32 < nbits, lanes := [0], waveBundle := true, code := placedCode nbits w, live := 2 ^ 120 - 2 } }

end Sys2Proof.Machine
end

