-- ==== Sys2Proof/Machine/Count.lean ====
section
/-! DEFINITION. Counters that watch the cores: the four event counters of a core (R444, R445), the sixteen stall
counters of a group (R442), and the cycles that pass on a core (R437). -/

namespace Sys2Proof.Machine

set_option Elab.async false

/-- Byte b of a session descriptor as it was read at OPEN (R431). -/
def Session.byte (e : Session) (b : Nat) : Nat := ((e.words[b / 8]?).getD 0) / 2 ^ (8 * (b % 8)) % 256

/-- The session number key of a flight, none when it is not attached (R432). -/
def Flight.sessionKey (f : Flight) : Option Nat := if f.session = 15 then none else some (f.vas * 8 + f.session)

/-- The line of an address (R230). -/
def lineOf (va : Nat) : Nat := va / 128 * 128

/-- Field n of a session's descriptor, 64 bits (R431). -/
def Session.word (e : Session) (n : Nat) : Nat := (e.words[n / 8]?).getD 0
def Session.mode (e : Session) : Nat := bits (e.word 0x08) 6 5
def Session.watchBase (e : Session) : Nat := bits (e.word 0x80) 56 0
def Session.watchLen (e : Session) : Nat := bits (e.word 0x88) 8 0

/-- The running session of MODE 2 or 3 whose watch range holds an address, with its key and the line's index. -/
def State.watcher (s : State) (vas va : Nat) : Option (Nat × Session × Nat) :=
  (s.sessions.findSome? fun p =>
    let e := p.2
    if e.vas = vas && e.stat = 1 && 2 ≤ e.mode && e.watchBase ≤ lineOf va && lineOf va < e.watchBase + 128 * e.watchLen then
      some (p.1, e, (lineOf va - e.watchBase) / 128)
    else none)

/-- The group is counted by its core's event counters (R444). -/
def State.isCounted (s : State) (gk : Nat) : Bool :=
  match (s.flight (s.flightKey gk)).sessionKey with
  | none => false
  | some e => (s.core (coreOfGroup gk)).claim = e + 1 && !(s.group gk).evskip

/-- An event of a code, n times, on a core for groups (R445); counters saturate at 2^48 - 1. -/
def State.countEvent (s : State) (ck : Nat) (gks : List Nat) (code n : Nat) : State :=
  let c := s.core ck
  if c.claim = 0 || !(gks.any s.isCounted) then s
  else
    let e := mgetD s.sessions (c.claim - 1) {}
    let add (ev : AMap Nat) (i : Nat) : AMap Nat :=
      if e.byte (0x50 + 4 * (e.pass - 1) + i) = code then mmod ev i 0 (fun v => satAdd v n 48) else ev
    s.setCore ck { c with events := (List.range 4).foldl add c.events }

/-- The group slot keys that hold a resident group on a core. -/
def State.groupsOn (s : State) (ck : Nat) : List Nat :=
  (s.groups.filter fun p => coreOfGroup p.1 = ck && !p.2.ended).map (·.1)

/-- The thread keys of a group's threads that have not exited. -/
def State.threadsOf (s : State) (gk : Nat) : List Nat :=
  (s.threads.filter fun p =>
    coreOfThread p.1 = coreOfGroup gk && p.2.stat ≠ .exited && (s.group gk).wslots.contains (slotOf p.1 / 64)).map (·.1)

/-! ### Leaders and twins (R81) -/

/-- The leader of a twin thread. -/
def State.leaderOf (s : State) (tk : Nat) : Option Nat :=
  if !(s.thread tk).twin then none
  else
    let g := s.groupOf tk
    (g.wslots[g.wslots.idxOf (slotOf tk / 64) - (s.hdrOf tk).nwaves]?).map fun w => threadKey (coreOfThread tk) (w * 64 + laneOf tk)

/-- The operation makes its thread wait until it has completed or stopped (R207). -/
def MOp.waits : MOp → Bool
  | .mmul | .mstat | .mstream => true
  | _ => false
def MOp.hasProg : MOp → Bool
  | .mmul | .mstream => true
  | _ => false

/-- Memory-class results of the leader's current block, progress words among them (R68), are still to come (R81). -/
def leaderOwes (s : State) (l : Nat) : Bool :=
  let first := (s.thread l).first
  let yields (r : Req) : Bool := r.returns || (match r.kind with | .matrix e => e.op.hasProg | _ => false)
  (s.reqs.any fun r => r.ofThread l && yields r && first ≤ r.id)
    || (s.quad (quadOfCore (coreOfThread l))).table.any fun e =>
      e.op.hasProg && e.core = coreOfThread l && e.lanes.contains (slotOf l) && first ≤ e.reqId

/-- Results of the leader's same block that a twin has still to take (R81). -/
def twinOwed (s : State) (tk : Nat) : Bool :=
  match s.leaderOf tk with
  | none => false
  | some l => (s.thread l).blockNo = (s.thread tk).blockNo && leaderOwes s l

/-- A twin may stream its next block: its leader has streamed it (R81). -/
def twinReady (s : State) (tk : Nat) : Bool :=
  match s.leaderOf tk with
  | none => true
  | some l =>
    let n := (s.thread tk).blockNo + 1
    let tl := s.thread l
    n < tl.blockNo || (n = tl.blockNo && tl.stat ≠ .stream)

/-- The results of the leader's block are all in the twin's queue (R81). -/
def queueComplete (s : State) (tk : Nat) : Bool :=
  match s.leaderOf tk with
  | none => false
  | some l =>
    twinReady s tk && !((s.thread tk).blockNo + 1 = (s.thread l).blockNo && leaderOwes s l)

/-! ### Stall counters (R442) -/

/-- Load-value queues of a core in use (R82): those of leaders' blocks that are not yet compared. -/
def State.queuesUsed (s : State) (ck : Nat) : Nat :=
  let mine := s.threads.filter fun p => coreOfThread p.1 = ck && !p.2.twin && (s.hdrOf p.1).marionette && p.2.stat ≠ .exited
  ((mine.flatMap fun p =>
    p.2.done.map (·.queue) ++ (if p.2.compared < p.2.blockNo then [p.2.queue] else [])).eraseDups).length

/-- A request that waits at its home before the closed gate of a watched line that a session replays (R453). -/
def State.gated (s : State) (tk : Nat) (r : Req) : Bool :=
  decide (r.phase = .sent) &&
    match s.watcher r.vas r.va with
    | some (key, e, line) =>
      e.mode = 3 && (s.flight (s.flightKey (s.groupKey tk))).sessionKey = some key && !(mgetD e.gates line (0, 0, false)).2.2
    | none => false

/-- A twin waits for its load-value queue: for results of the block that it has streamed, or of the block before which it waits. -/
def State.twinWaits (s : State) (tk : Nat) : Bool :=
  let t := s.thread tk
  t.twin && (match t.stat with | .ret => twinOwed s tk | .wait => !queueComplete s tk | _ => false)

/-- The records that a die's trace unit holds, in order (R439); a CUT of STOP is none of them. -/
def State.heldRecords (s : State) (die : Nat) : List (Nat × TraceRec) := (s.die die).traceHold.filter fun p => p.1 = 0

/-- The hold of a die's trace unit is full, and a group's trace queue waits (R439). -/
def State.traceFull (s : State) (gk : Nat) : Bool :=
  decide ((s.group gk).trace ≠ []) && 64 ≤ (s.heldRecords (dieOfCore (coreOfGroup gk))).length

/-- The least stall code of R442 that applies to a thread; `busy`: the datapath serves another group. -/
def State.stallOf (s : State) (gk tk : Nat) (busy : Bool) : Nat :=
  let t := s.thread tk
  let g := s.group gk
  let rs := s.reqs.filter fun r => r.ofThread tk
  let ret : Bool := t.shown = .ret
  let fetching : Bool := t.stat = .stream && (s.bundles.any fun p =>
    p.1 / 2 = coreOfThread tk && p.2.fetching && p.2.lanes.contains (slotOf tk))
  let lag : Bool := s.twinWaits tk || (t.stat = .wait && !t.twin && (s.hdrOf tk).marionette && 16 ≤ s.queuesUsed (coreOfThread tk))
  if (t.stat = .wait || t.stat = .stream) && busy && !lag && !fetching then 0
  else if ret && rs.any (fun r => r.returns || r.isLoad || r.kind = .fence 0 || s.gated tk r) then 1
  else if ret && rs.any (fun r => match r.kind with | .matrix _ | .copy _ => false | _ => true) then 2
  else if t.stat = .joinWait then 3
  else if t.stat = .asleep then 4
  else if ret && (t.doomed || t.wantToken) then 5
  else if ret && rs.any (fun r => match r.kind with | .matrix _ => true | _ => false) then 6
  else if ret && s.matrixHeld tk then 7
  else if ret && rs.any (fun r => match r.kind with | .copy _ => true | _ => false) then 8
  else if t.stat = .overflow then 9
  else if fetching then 12
  else if t.shown = .parked then 13
  else if lag then 14
  else if g.stopping || t.stat = .stopped || g.zeroing ≠ 0 then 15
  else 12

/-- The counter of R442 for a group whose core completes no beat of it: the least code that applies to some thread. -/
def State.stallReason (s : State) (gk : Nat) (busy : Bool) : Nat :=
  ((leastBy id ((s.threadsOf gk).map (fun t => s.stallOf gk t busy) ++ (if s.traceFull gk then [2] else []))).getD 15)

/-- One stall counter of a group raised, saturating at 2^48 - 1 (R442). -/
def State.addStall (s : State) (gk code n : Nat) : State :=
  s.modGroup gk fun g => { g with stalls := mmod g.stalls code 0 (fun v => satAdd v n 48) }

/-- n cycles pass on a core; the groups of `issuing` have a beat in them and are charged `hold`, if anything. -/
def State.elapse (s : State) (ck n : Nat) (issuing : List Nat) (hold : Option Nat) : State :=
  if n = 0 then s
  else
    let s := s.modCore ck fun c => { c with cycles := c.cycles + n }
    (s.groupsOn ck).foldl (fun s gk =>
      if issuing.contains gk then (match hold with | some h => s.addStall gk h n | none => s)
      else s.addStall gk (s.stallReason gk (!issuing.isEmpty)) n) s

/-- The groups of a bundle's streaming lanes, each once. -/
def State.bundleGroups (s : State) (k : Nat) : List Nat :=
  ((s.lanes k).map s.groupKey).eraseDups

end Sys2Proof.Machine
end

