-- ==== Sys2Proof/Config.lean ====
section
/-! DEFINITION. What the spec leaves to the implementation, as constants without a body: nothing in Lean can evaluate
one or prove a value of it. -/

namespace Sys2Proof

set_option Elab.async false

/-- Bytes whose values the spec does not give: the signature of an attestation report (R395), whose key never leaves
the keel. The argument is the counter State.free (log 2). -/
opaque Config.freeByte : Nat → BitVec 8

/-- Whether a signature verifies under a fused key (R391): signer (0 Pramund root key, 1 owner key), signed bytes,
signature bytes. The spec gives the scheme and no key (log 5). -/
opaque Config.sigOk : Nat → List (BitVec 8) → List (BitVec 8) → Bool

/-- Where in its sail region a die kernel puts a new table of a replica: a frame number, taken modulo the region's size (R357,
R380). The argument is the counter State.free (log 25). -/
opaque Config.tableFrame : Nat → Nat

/-- Whether a module of another domain admits a Spar write (R401): its admit table is not part of this machine. The argument
is the counter State.free (log 24). -/
opaque Config.remoteAdmits : Nat → Bool

/-- The products (R16): KS16-MA, KS16-MB, and KS16-PA on a buyer's board. -/
inductive Product
  | ma | mb | pa
  deriving DecidableEq, Repr, Inhabited

/-- Which product a module is, by its index (log 30). -/
opaque Config.product : Nat → Product

/-- Bytes of memory that a board populates on the 8 channels of an I/O die of a KS16-PA (R16; log 30). -/
opaque Config.boardMemory : Nat → Nat

/-- Bytes of the capacity tier that an I/O die holds, as its memory controller reads them at bring-up (R16). -/
def Config.ioMemory (die : Nat) : Nat :=
  match Config.product (die / 32) with
  | .ma => 512 * 2 ^ 30
  | .mb => 256 * 2 ^ 30
  | .pa => Config.boardMemory die

/-- How many flits beyond the first one the buffer of a class and partition holds at a router port of a die: the spec gives ports
credits and no number (R315; log 102). -/
opaque Config.portRoom : Nat → Nat

/-- Base frame and frames of the sail region that the keel defines on a die (R379; log 30). -/
opaque Config.sailBase : Nat → Nat
opaque Config.sailFrames : Nat → Nat

end Sys2Proof
end

