-- ==== Sys2Proof/Machine/Fabric.lean ====
section
/-! DEFINITION. The fabric: which dies a link joins (R21), routes (R22), links that retire (R23), packets and their classes (R314),
router ports with their buffers and arbitration (R315), and the order in which packets arrive (R24). -/

namespace Sys2Proof.Machine

set_option Elab.async false

/-! ### Links (R21, R23) -/

/-- The modules of the domain: those with a die that has come up (R12, log 11). -/
def State.hasModule (s : State) (m : Nat) : Bool := s.dies.any fun p => moduleOf p.1 = m && localOf p.1 < 20 && p.2.life ≠ .out

/-- A die number names a die of the domain (R12). -/
def State.isThere (s : State) (die : Nat) : Bool := die < 2048 && localOf die < 20 && s.hasModule (moduleOf die)

/-- A pair of dies that a link joins: mesh neighbours, an I/O die and a compute die attached to it, or the Spar ports of I/O dies of
two modules. -/
def linked (a b : Nat) : Bool :=
  let r (d : Nat) := localOf d / 4
  let c (d : Nat) := localOf d % 4
  let io (d : Nat) : Nat × Nat := ((localOf d - 16) / 2 * 3, (localOf d - 16) % 2 * 2)
  let att (i d : Nat) : Bool := r d = (io i).1 && c d / 2 * 2 = (io i).2
  if moduleOf a ≠ moduleOf b then isIo a && isIo b
  else if isCompute a && isCompute b then
    (r a = r b && (c a + 1 = c b || c b + 1 = c a)) || (c a = c b && (r a + 1 = r b || r b + 1 = r a))
  else if isIo a && isCompute b then att a b
  else if isCompute a && isIo b then att b a
  else false

/-- The two ends of a link number (log 22). -/
def linkSrc (n : Nat) : Nat := n / 2048
def linkDst (n : Nat) : Nat := n % 2048
def linkNo (a b : Nat) : Nat := a * 2048 + b
def State.link (s : State) (n : Nat) : Link := mgetD s.links n {}
def setLink (s : State) (n : Nat) (l : Link) : State := { s with links := mput s.links n l }

/-- The Spar port, 0 to 7, of an I/O die that carries its link to an I/O die of another module (R18; DESIGN CHOICE, log 103). -/
def sparPort (b : Nat) : Nat := moduleOf b % 8

/-! ### Routes (R22) -/

/-- The even-numbered one of the two compute dies attached to an I/O die. -/
def attachedEven (io : Nat) : Nat := moduleOf io * 32 + (localOf io - 16) / 2 * 12 + (localOf io - 16) % 2 * 2

/-- The columns at which a die of the mesh, or the pair attached to an I/O die, stands. -/
def columnsOf (d : Nat) : List Nat := if isIo d then [localOf (attachedEven d) % 4, localOf (attachedEven d) % 4 + 1] else [localOf d % 4]

/-- The column distance between two ends. -/
def columnGap (a b : Nat) : Nat :=
  ((columnsOf a).flatMap fun x => (columnsOf b).map fun y => (x - y) + (y - x)).foldl min 4

/-- The attached die of an I/O die that lies nearer the far end; on a tie the even-numbered one. -/
def nearerDie (io far : Nat) : Nat :=
  let e := attachedEven io
  if columnGap (e + 1) far < columnGap e far then e + 1 else e

/-- One hop in the mesh from a compute die to another: by column first, then by row. -/
def meshHop (a b : Nat) : Nat :=
  let ca := localOf a % 4
  let cb := localOf b % 4
  if ca < cb then a + 1 else if cb < ca then a - 1 else if localOf a < localOf b then a + 4 else a - 4

/-- The next die on the way between two dies of one module. -/
def hopWithin (a b : Nat) : Nat :=
  if isIo a then nearerDie a b
  else if isIo b then (let e := nearerDie b a; if e = a then b else meshHop a e)
  else meshHop a b

/-- The next die on the way (R22). Traffic for another module goes to the serving I/O die and over Spar to the I/O die with the same local
number there, or straight to an I/O die that is its end (DESIGN CHOICE, log 103). -/
def nextHop (a b : Nat) : Nat :=
  if moduleOf a = moduleOf b then hopWithin a b
  else if isIo a then (if isIo b then b else moduleOf b * 32 + localOf a)
  else hopWithin a (servingIo a)

/-- The dies that a packet passes from one die to another, the last one included. -/
def route (a b : Nat) : Nat → List Nat
  | 0 => []
  | n + 1 => if a = b then [] else nextHop a b :: route (nextHop a b) b n
/-- The hops of a route. -/
def hops (a b : Nat) : Nat := (route a b 16).length

/-! ### Routing around retired links (R23) -/

/-- A link that carries flits. -/
def State.linkOpen (s : State) (a b : Nat) : Bool := linked a b && !(s.link (linkNo a b)).retired

/-- Every link of the route of R22 carries flits. -/
def State.routeOpen (s : State) (a b : Nat) : Bool :=
  ((a :: route a b 16).zip (route a b 16)).all fun p => s.linkOpen p.1 p.2

/-- The neighbour of die a on a shortest way to the dies `near`: `near` grows by the dies that reach it in one hop. -/
def detour (s : State) (dies : List Nat) (a : Nat) : Nat → List Nat → Option Nat
  | 0, _ => none
  | n + 1, near =>
    match near.find? fun x => s.linkOpen a x with
    | some x => some x
    | none => detour s dies a n (near ++ dies.filter fun x => !near.contains x && near.any fun y => s.linkOpen x y)

/-- The next die on the way: the route of R22, or where a link of it is retired a shortest way around (DESIGN CHOICE, log 103). -/
def State.hop (s : State) (a b : Nat) : Option Nat :=
  if s.routeOpen a b then some (nextHop a b)
  else
    detour s (((List.range 20).map fun i => moduleOf a * 32 + i) ++ (List.range 20).map fun i => moduleOf b * 32 + i) a 40 [b]

/-! ### Sending and landing -/

/-- What a packet does when it arrives. -/
def land (s : State) (p : Packet) : State :=
  match p.body with
  | .req _ => s
  | .confirm _ _ => s
  | .rsp id =>
    { s with reqs := s.reqs.map fun r =>
        if r.id ≠ id then r else match r.phase with | .back a w => { r with phase := .answered a w } | _ => r }
  | .pub id => s.modDie p.dst fun d => { d with pubs := d.pubs ++ [id] }
  | .held h => s.modDie p.dst fun d => { d with heldIn := d.heldIn ++ [h] }
  | .wake m => s.modDie p.dst fun d => { d with wakes := d.wakes ++ [m] }
  | .msg m => s.modDie p.dst fun d => { d with inbox := d.inbox ++ [m] }
  | .toSeq m => s.modDie p.dst fun d => { d with seqIn := d.seqIn ++ [m] }
  | .contrib c => s.modDie p.dst fun d => { d with contribs := d.contribs ++ [c] }
  | .spar x => s.modDie p.dst fun d => { d with spar := d.spar ++ [x] }

/-- A packet joins the output port of the router of a die that leads to its end. -/
def inject (s : State) (at' : Nat) (p : Packet) : State :=
  let n := linkNo at' ((s.hop at' p.dst).getD (nextHop at' p.dst))
  setLink s n { s.link n with buf := (s.link n).buf ++ [p] }

/-- A packet is sent: to another die through the fabric, to the own die at once. One for a die number that names no die of the domain is
dropped (DESIGN CHOICE, log 104). -/
def sendPacket (s : State) (src dst vas : Nat) (cls : PClass) (body : Body) : State :=
  let p : Packet := { no := s.nextId, src := src, dst := dst, vas := vas, cls := cls, body := body }
  if src = dst then land s p else if !s.isThere dst then s else inject { s with nextId := s.nextId + 1 } src p

/-- The partition whose buffers a packet uses; SYS has its own. -/
def Packet.part (p : Packet) : Nat := if p.cls = .sys then 4096 else p.vas

/-- Two packets whose order the fabric keeps: of one source, one end, and one class of one partition (R24, R314). -/
def Packet.kin (p q : Packet) : Bool := p.src = q.src && p.dst = q.dst && p.cls = q.cls && p.part = q.part

/-- The packets that are on their way. -/
def State.packets (s : State) : List Packet :=
  (s.links.flatMap fun l => l.2.wire.map (·.2) ++ l.2.buf) ++ s.dies.flatMap fun d => d.2.late

/-- A packet with such a body is on its way. -/
def State.onWay (s : State) (b : Body → Bool) : Bool := s.packets.any fun p => b p.body

/-- Packets that pass a test leave the fabric. -/
def State.withdraw (s : State) (f : Packet → Bool) : State :=
  { s with
    links := s.links.map fun l => (l.1, { l.2 with wire := l.2.wire.filter fun p => !f p.2, buf := l.2.buf.filter fun p => !f p })
    dies := s.dies.map fun d => (d.1, { d.2 with late := d.2.late.filter fun p => !f p }) }

/-- Packets that pass a test arrive at once, behind the earlier ones of their source, end and class (R24), in the order of sending. -/
def State.hasten (s : State) (f : Packet → Bool) : State :=
  let ps := s.packets.filter f
  if ps = [] then s
  else
    let g (p : Packet) : Bool := f p || ps.any fun q => p.kin q && p.no < q.no
    (sortBy (·.no) (s.packets.filter g)).foldl land (s.withdraw g)

/-- A packet at its end: it arrives, and the ones that waited for it; it waits there while an earlier one of its kin is on its way, so that its
link goes on (R24, R316). -/
def arrivePacket (s : State) (p : Packet) : State :=
  let early (s : State) (p : Packet) : Bool := s.packets.any fun q => p.kin q && q.no < p.no
  if early s p then s.modDie p.dst fun d => { d with late := d.late ++ [p] }
  else
    (sortBy (·.no) (s.die p.dst).late).foldl (fun s q =>
      if early s q then s else land (s.modDie p.dst fun d => { d with late := d.late.filter fun x => x.no ≠ q.no }) q) (land s p)

/-! ### Router ports (R315) -/

/-- The cycle of 8 slots: 4 RSP, 2 BRIDLE, 1 REQ, 1 BULK, in this order (DESIGN CHOICE, log 102). -/
def classCycle : List PClass := [.rsp, .rsp, .rsp, .rsp, .bridle, .bridle, .req, .bulk]

/-- Places of a router port's buffer for one class of one partition that are taken, or promised to a packet on a link into the router. What
the router's own die has sent and the port has not taken in waits at that die. -/
def portUsed (s : State) (d m : Nat) (p : Packet) : Nat :=
  let same (q : Packet) : Bool := q.part = p.part && q.cls = p.cls
  let coming := (s.links.filter fun l => linkDst l.1 = d).flatMap fun l => l.2.wire.map (·.2)
  ((s.link (linkNo d m)).buf.filter fun q => same q && q.src ≠ d).length
    + (coming.filter fun q => same q && q.dst ≠ d && s.hop d q.dst = some m).length

/-- The next router has a credit for the packet; at its end a packet is always taken (R316). -/
def creditFor (s : State) (n : Nat) (p : Packet) : Bool :=
  let d := linkDst n
  d = p.dst ||
    match s.hop d p.dst with
    | none => false
    | some m => portUsed s d m p ≤ Config.portRoom d

/-- The oldest packet of a class and partition at a port, if it has its credit. -/
def readyFlit (s : State) (n part : Nat) (cls : PClass) : Option Packet :=
  match (s.link n).buf.find? fun p => p.part = part && p.cls = cls with
  | some p => if creditFor s n p then some p else none
  | none => none

/-- The flit of a partition's turn, and the slot after the one that it takes. -/
def turnFlit (s : State) (n part : Nat) : Option (Packet × Nat) :=
  if part = 4096 then (readyFlit s n part .sys).map fun p => (p, 0)
  else
    let at' := mgetD (s.link n).slots part 0
    (List.range 8).findSome? fun i =>
      (readyFlit s n part ((classCycle[(at' + i) % 8]?).getD .rsp)).map fun p => (p, (at' + i + 1) % 8)

/-- The partitions with a packet at a port, in round-robin order after the one served last. -/
def partTurns (l : Link) : List Nat :=
  let ps := sortBy id ((l.buf.map Packet.part).eraseDups)
  (ps.filter fun x => l.part < x) ++ ps.filter fun x => x ≤ l.part

/-- A link to another module has its Spar port's turn: no other link of the port with a waiting flit comes before it (R18). -/
def sparTurn (s : State) (n : Nat) : Bool :=
  let a := linkSrc n
  let last := mgetD (s.die a).sparTurn (sparPort (linkDst n)) 0
  let mine := s.links.filter fun l => linkSrc l.1 = a && moduleOf (linkDst l.1) ≠ moduleOf a && sparPort (linkDst l.1) = sparPort (linkDst n)
    && l.2.buf ≠ [] && !l.2.retired
  let order := (mine.map (·.1)).filter (fun x => last < x) ++ (mine.map (·.1)).filter fun x => x ≤ last
  moduleOf a = moduleOf (linkDst n) || order.head? = some n

/-- A port sends its next flit into the replay buffer; none when it has none to send. At a retired link every packet that the far end has
not taken over goes another way. -/
def flitSend (s : State) (n : Nat) : Option State :=
  let l := s.link n
  if l.retired then
    let ps := l.wire.map (·.2) ++ l.buf
    if ps = [] || (ps.any fun p => (s.hop (linkSrc n) p.dst).isNone) then none
    else some (ps.foldl (fun s p => inject s (linkSrc n) p) (setLink s n { l with wire := [], buf := [] }))
  else if 64 ≤ l.wire.length || !sparTurn s n then none
  else
    (partTurns l).findSome? fun part =>
      (turnFlit s n part).map fun r =>
        let no : Nat := match l.wire.getLast? with | some w => w.1 + 1 | none => l.seq
        let s := setLink s n { l with
          buf := l.buf.filter fun p => p.no ≠ r.1.no, wire := l.wire ++ [(no, r.1)], part := part, slots := mput l.slots part r.2 }
        if moduleOf (linkSrc n) = moduleOf (linkDst n) then s
        else s.modDie (linkSrc n) fun d => { d with sparTurn := mput d.sparTurn (sparPort (linkDst n)) n }

/-- A full hold buffer of an I/O die stops its taking of REQ and BULK flits of that partition over Spar (R378). -/
def holdStops (s : State) (n : Nat) (p : Packet) : Bool :=
  let d := s.die (linkDst n)
  moduleOf (linkSrc n) ≠ moduleOf (linkDst n) && (p.cls = .req || p.cls = .bulk) && (d.hold.any fun h => h.vas = p.vas)
    && 65536 < sumBy (fun h => h.data.length) d.hold + 128

/-- The far end takes over the next flit: a flit whose CRC failed waits for its replay, and those of a partition whose hold buffer is full wait,
while the others of the link pass them. -/
def flitTake (s : State) (n : Nat) : Option State :=
  let l := s.link n
  if l.retired then none
  else
    match l.wire.find? fun w => !holdStops s n w.2 with
    | none => none
    | some (no, p) =>
      if l.crc && l.seq ≤ no then none
      else
        let s := setLink s n { l with wire := l.wire.erase (no, p), seq := max l.seq (no + 1) }
        some (if linkDst n = p.dst then arrivePacket s p else inject s (linkDst n) p)

/-- A link on which something moves by default, and the state after it. -/
def fabricStep (s : State) : Option State :=
  s.links.findSome? fun l => if l.2.buf = [] && l.2.wire = [] then none else match flitTake s l.1 with | some t => some t | none => flitSend s l.1

end Sys2Proof.Machine
end

