-- ==== Sys2Proof/Machine/Translate.lean ====
section
/-! DEFINITION. Translation: leaves, page tables, walks, the home of a line and its physical address (R357 to R367). -/

namespace Sys2Proof.Machine

set_option Elab.async false

/-! ### Leaves (R358) -/

def leafV (l : Nat) : Bool := bitOf l 0
def leafR (l : Nat) : Bool := bitOf l 1
def leafW (l : Nat) : Bool := bitOf l 2
def leafX (l : Nat) : Bool := bitOf l 3
def leafM (l : Nat) : Bool := bitOf l 6
def leafF (l : Nat) : Bool := bitOf l 7
def leafIL (l : Nat) : Nat := bits l 10 8
def leafC (l : Nat) : Bool := bitOf l 11
def leafHome (l : Nat) : Nat := bits l 22 12
def leafKey (l : Nat) : Nat := bits l 26 23
def leafG64 (l : Nat) : Bool := bitOf l 27
def leafPfn (l : Nat) : Nat := bits l 63 28
def leafWays (l : Nat) : Nat := 2 ^ leafIL l

/-- The home of the line at va (R361). -/
def homeOf (l va : Nat) : Nat := leafHome l / 32 * 32 + leafHome l % 32 + va / 128 % leafWays l

/-- The physical address in its home's memory (R363); `size` is the page size. -/
def paOf (l va size : Nat) : Nat := (leafPfn l * 4096 + va % size) / (128 * leafWays l) * 128 + va % 128

/-- A member of a partition, or a lost die that was one (R43, R426). -/
def State.wasMember (s : State) (vas d : Nat) : Bool :=
  (s.members vas).contains d || ((s.die d).life = .lost && (s.die d).slots.any fun p => p.2.vas = vas)

/-- HOME and IL name dies that R12 and R362 allow. -/
def State.homeLegal (s : State) (vas l : Nat) : Bool :=
  let h := leafHome l
  let w := leafWays l
  let loc := h % 32
  loc < 20 && s.hasModule (h / 32) &&
    (leafIL l = 0 ||
      (loc % w = 0 && loc + w ≤ 20 && (loc + w ≤ 16 || 16 ≤ loc) &&
        (span h w).all fun d => s.wasMember vas d))

/-- An entry with V = 1 that is a pointer (R357). -/
def isPointer (level e : Nat) : Bool := level ≠ 0 && bits e 3 1 = 0

/-- A valid entry that R359 calls malformed. -/
def State.malformed (s : State) (vas level e : Nat) : Bool :=
  if isPointer level e then bits e 11 4 ≠ 0 || bits e 63 52 ≠ 0
  else
    bits e 3 1 = 0 || 3 ≤ level || (leafW e && !leafR e) || (leafC e && (leafX e || !leafW e)) || 5 ≤ leafIL e
      || !s.homeLegal vas e || (level = 1 && leafPfn e % 512 ≠ 0) || (level = 2 && leafPfn e % 262144 ≠ 0)
      || (leafG64 e && level ≠ 0)

/-! ### Walks (R366, R367) -/

/-- How a walk ends: a leaf with its level, its entry's address and the pointers met (level of the table reached,
address prefix, frame); an absent entry; a malformed one. -/
inductive Walk
  | leaf (level l entry : Nat) (ptrs : List (Nat × Nat × Nat))
  | absent
  | bad
  deriving DecidableEq, Repr

/-- The address prefix that a table at `level` serves. -/
def prefixOf (va level : Nat) : Nat := va / 2 ^ (12 + 9 * (level + 1))

/-- From the table at `frame` of `level` down. -/
def State.walkFrom (s : State) (die vas va : Nat) : Nat → Nat → List (Nat × Nat × Nat) → Walk
  | level, frame, ptrs =>
    let entry := frame * 4096 + 8 * (va / 2 ^ (12 + 9 * level) % 512)
    let e := s.ram die entry 8
    if !leafV e then .absent
    else if s.malformed vas level e then .bad
    else if isPointer level e then
      match level with
      | 0 => .bad
      | n + 1 => s.walkFrom die vas va n (bits e 51 12) ((n, prefixOf va n, bits e 51 12) :: ptrs)
    else .leaf level e entry ptrs

/-- A walk of a die's own replica from its walker cache, or from ROOT (R366). -/
def State.walk (s : State) (die vas va : Nat) : Option Walk :=
  match (s.die die).slotOf vas with
  | none => none
  | some (_, p) =>
    let hit (level : Nat) : Option Nat :=
      ((s.die die).walks.find? fun w => w.1 = vas && w.2.1 = level && w.2.2.1 = prefixOf va level).map (·.2.2.2)
    some <|
      match hit 0, hit 1, hit 2, hit 3 with
      | some f, _, _, _ => s.walkFrom die vas va 0 f []
      | none, some f, _, _ => s.walkFrom die vas va 1 f []
      | none, none, some f, _ => s.walkFrom die vas va 2 f []
      | none, none, none, some f => s.walkFrom die vas va 3 f []
      | none, none, none, none => s.walkFrom die vas va 4 p.root []

/-- A walk that reads the tables from ROOT, whatever the caches hold. -/
def State.walkRoot (s : State) (die vas va : Nat) : Option Walk :=
  ((s.die die).slotOf vas).map fun p => s.walkFrom die vas va 4 p.2.root []

/-- A range that is open on a die and covers an address (R374). -/
def Range.covers (r : Range) (vas va : Nat) : Bool := r.vas = vas && r.start ≤ va && va < r.start + r.npages * 4096
def State.openAt (s : State) (die vas va : Nat) : Option Range := (s.die die).ranges.find? fun r => r.covers vas va

/-- The pointers of a walk kept in the walker cache, unless a range open on the die covers the address (R376). -/
def State.keepPtrs (s : State) (die vas va : Nat) (ptrs : List (Nat × Nat × Nat)) : State :=
  if (s.openAt die vas va).isSome || ptrs = [] then s
  else s.modDie die fun d => { d with walks := (ptrs.map fun p => (vas, p)) ++ d.walks }

/-- The page size of a leaf level. -/
def levelSize (level : Nat) : Nat := 2 ^ (12 + 9 * level)

/-- The cached form of a leaf found at `entry`: one entry for a 64 KiB group whose 16 leaves agree (R360). -/
def State.tlbOf (s : State) (die vas va level l entry : Nat) : Tlb :=
  let base := entry / 128 * 128
  let ls := (List.range 16).map fun i => s.ram die (base + 8 * i) 8
  let same (i e : Nat) : Bool :=
    leafV e && leafG64 e && bits e 3 0 = bits l 3 0 && bits e 27 6 = bits l 27 6 && leafPfn e = leafPfn (ls.headD 0) + i
  if level = 0 && leafG64 l && leafPfn (ls.headD 0) % 16 = 0 && (ls.zipIdx.all fun p => same p.2 p.1) then
    { vas := vas, page := va / 65536 * 65536, size := 65536, leaf := ls.headD 0 }
  else { vas := vas, page := va / levelSize level * levelSize level, size := levelSize level, leaf := l }

/-- A cached entry serves an address. -/
def Tlb.serves (t : Tlb) (vas va : Nat) : Bool := t.vas = vas && t.page ≤ va && va < t.page + t.size

/-! ### Translation at the home (R368) -/

/-- The home's translation: from its TLB, or by a walk of its own replica, which fills the TLB unless a range is open
there. The leaf, its page size, and the state; none where there is no valid leaf. -/
def State.homeLeaf (s : State) (h vas va : Nat) : Option (Nat × Nat) × State :=
  match (s.die h).tlb.find? fun t => t.serves vas va with
  | some t => (some (t.leaf, t.size), s)
  | none =>
    match s.walk h vas va with
    | some (.leaf level l entry ptrs) =>
      let t := s.tlbOf h vas va level l entry
      let s := s.keepPtrs h vas va ptrs
      let s :=
        if (s.openAt h vas va).isSome then s
        else s.modDie h fun d => { d with tlb := t :: d.tlb.take 16383 }
      (some (t.leaf, t.size), s)
    | _ => (none, s)

/-- A and D set in the home's own replica (R368): a plain store of the home die. -/
def State.setAD (s : State) (h vas va : Nat) (wr : Bool) : State :=
  match s.walkRoot h vas va with
  | some (.leaf _ l entry _) =>
    let l' := if wr then setBit (setBit l 4) 5 else setBit l 4
    if l' = l then s else s.setRam h entry 8 l'
  | _ => s

end Sys2Proof.Machine
end

