-- ==== Sys2Proof/Machine/HomeMem.lean ====
section
/-! DEFINITION. The memory system: checks at a home, reads and writes there, mirrors, watches, the copies of non-home
lines that a die's L2 holds, write-backs, releases and acquires (R251 to R255, R365, R368, R394, R452, R453). -/

namespace Sys2Proof.Machine

set_option Elab.async false

/-- IFLUSH's drop: every word and knot entry of a flight leaves a core's fetch buffers (R348). -/
def dropFetched (s : State) (ck fk : Nat) : State :=
  s.modCore ck fun c =>
    { c with words := c.words.filter fun w => w.1 ≠ fk, knots := c.knots.filter fun k => k.flight ≠ fk }

/-- What an access does at its home (R368, checks 3 and 4). -/
inductive Acc
  | read | write | rw | ctrAdd | ctrRead | fetch
  deriving DecidableEq, Repr

def Acc.reads : Acc → Bool
  | .write => false
  | _ => true
def Acc.writes : Acc → Bool
  | .write | .rw | .ctrAdd => true
  | _ => false

/-- Who makes an access: its die, and for a thread's own access its thread and group (R452). -/
structure Agent where
  die : Nat := 0
  thread : Option Nat := none
  group : Option Nat := none
  deriving DecidableEq, Repr

/-- The core of the thread that makes an access. -/
def Agent.core (a : Agent) : Option Nat := a.thread.map coreOfThread

/-- What the home's checks come to: the access may be performed at this address; it waits; it is answered. -/
inductive Gate
  | ok (leaf pa : Nat)
  | hold
  | no (a : Answer)
  deriving DecidableEq, Repr

def lineKey (vas va : Nat) : Nat := vas * 2 ^ 57 + lineOf va
def tagKey (die pa : Nat) : Nat := die * 2 ^ 36 + pa / 4096
def badKey (die pa : Nat) : Nat := die * 2 ^ 41 + pa / 128

/-! ### The scrub log (R422) -/

/-- The reserved fields of a die's pool header are 0 (R408). A header that breaks this is invalid: the dispatcher does nothing with it (R7, which
names no error for it; DEDUCED, log 132). -/
def State.poolGood (s : State) (die : Nat) : Bool :=
  let pool (o n : Nat) : Nat := s.ram die ((s.die die).poolBase.toNat + o) n
  pool 0 8 < 16 && pool 0x0C 4 = 0 && pool 0x1C 4 = 0 && bits (pool 0x28 2) 15 4 = 0 && pool 0x2C 2 = 0 && pool 0x38 8 = 0

/-- A finding enters a die's scrub log: a new entry, or, in a full log, the newest entry's COUNT. KIND 1 to 4; SRC 0 scrubber, 1 demand. -/
def logFinding (s : State) (die pa kind src : Nat) : State :=
  let d := s.die die
  let pool (o n : Nat) : Nat := s.ram die (d.poolBase.toNat + o) n
  let log := pool 0x28 1 % 16
  let head := pool 0x2A 2
  let tail := pool 0x2E 2
  let base := pool 0x20 8
  if d.poolBase = 0 || log < 4 || 12 < log || !s.poolGood die then s
  else if (tail + 2 ^ 16 - head) % 2 ^ 16 = 2 ^ log then
    let a := base + 32 * ((tail + 2 ^ 16 - 1) % 2 ^ 16 % 2 ^ log)
    s.setRam die (a + 0x0A) 2 (min 65535 (s.ram die (a + 0x0A) 2 + 1))
  else
    let a := base + 32 * (tail % 2 ^ log)
    let vas := mgetD s.tags (tagKey die pa) 0 / 16
    let s := s.setRam die a 8 (pa / 128 * 128)
    let s := s.setRam die (a + 8) 8 (kind + 2 ^ 3 * src + 2 ^ 4 * vas + 2 ^ 16)
    let s := s.setRam die (a + 0x10) 8 (d.scrubSeq % 2 ^ 64)
    let s := s.setRam die (a + 0x18) 8 0
    (s.setRam die (d.poolBase.toNat + 0x2E) 2 ((tail + 1) % 2 ^ 16)).modDie die fun d => { d with scrubSeq := d.scrubSeq + 1 }

/-- What a demand read finds in a line is logged; a correctable error is corrected (R419, R422). -/
def demandRead (s : State) (h pa : Nat) : State :=
  match mgetD s.bad (badKey h pa) 0 with
  | 1 => logFinding s h pa 2 1
  | 2 => logFinding s h pa 3 1
  | 3 => logFinding s h pa 2 1
  | 4 => logFinding { s with bad := mdel s.bad (badKey h pa) } h pa 1 1
  | _ => s

/-! ### Checks (R368) -/

/-- The dies of a leaf's interleave set. -/
def leafSet (l : Nat) : List Nat := (List.range (leafWays l)).map (leafHome l + ·)

/-- A page with M = 0 of which a line is homed on a lost die is lost as a whole (R427). -/
def State.pageLost (s : State) (l : Nat) : Bool := !leafM l && (leafSet l).any fun d => (s.die d).life = .lost

/-- The frames of an I/O die that the keel gives to the host over CXL.mem, and no partition maps (R402). -/
def Die.hostFrame (d : Die) (pa n : Nat) : Bool := pa < d.hdmBase + d.hdmSize && d.hdmBase < pa + n

/-- Bytes of a die's sail region, which no other die kernel writes (R379, R380). -/
def Die.sailFrame (d : Die) (pa n : Nat) : Bool := pa < d.sailBase + d.sailSize && d.sailBase < pa + n

/-- A key is destroyed, or another takes its place: what it wrote no longer verifies (R394). `dead` tells the page tags concerned. -/
def killKeys (s : State) (die : Nat) (dead : Nat → Bool) : State :=
  let old := s.tags.filter fun t => t.1 / 2 ^ 36 = die && dead t.2
  { s with bad := old.foldl (fun b t => (List.range 32).foldl (fun b j => mput b (badKey die (t.1 % 2 ^ 36 * 4096 + 128 * j)) 2) b) s.bad }

/-- Checks 1 to 5 on the leaf that the home found. -/
def leafCheck (s : State) (h : Nat) (p : PSlot) (vas va : Nat) (acc : Acc) (found : Option (Nat × Nat)) : Gate :=
  match found with
  | none => .no (.fault .invalid h)
  | some (l, size) =>
    let pa := paOf l va size
    let tag := mgetD s.tags (tagKey h pa) 0
    let torn : Bool := mgetD s.bad (badKey h pa) 0 = 5
    if homeOf l va ≠ h then .no (.fault .invalid h)
    else if s.pageLost l then .no (.fault .lost h)
    else if !bitOf p.keys (leafKey l) || (s.die h).hostFrame pa 1 then .no (.fault .invalid h)
    else if acc.reads && pa < (s.die h).memSize && (torn || tag ≠ vas * 16 + leafKey l) then .no (.fault .invalid h)
    else if leafC l ≠ (acc = .ctrAdd || acc = .ctrRead) then .no (.fault .ctrPage h)
    else if (acc = .fetch && !leafX l) || (acc.writes && !leafW l) || (acc ≠ .fetch && acc.reads && !leafR l) then
      .no (.fault .perm h)
    else if (s.die h).memSize ≤ pa then .no (.fault .invalid h)
    else .ok l pa

/-- The physical address that a found leaf gives. -/
def foundPa (va : Nat) : Option (Nat × Nat) → Nat
  | some (l, size) => paOf l va size
  | none => 0

/-- The access comes as far as the page tag, which disagrees (R394). -/
def tagFails (s : State) (h : Nat) (p : PSlot) (vas va : Nat) (acc : Acc) : Option (Nat × Nat) → Bool
  | none => false
  | some (l, size) =>
    let pa := paOf l va size
    homeOf l va = h && !s.pageLost l && bitOf p.keys (leafKey l) && !(s.die h).hostFrame pa 1 && acc.reads && pa < (s.die h).memSize
      && (mgetD s.bad (badKey h pa) 0 = 5 || mgetD s.tags (tagKey h pa) 0 ≠ vas * 16 + leafKey l)

/-- A request at a die: the die's life (R25, R265, R369), whether it serves the VAS (R355), its open ranges (R374),
and the checks of R368. -/
def homeCheck (s : State) (h vas va : Nat) (acc : Acc) : Gate × State :=
  let d := s.die h
  match d.life with
  | .lost => (.no (.fault .lost h), s)
  | .resetting => (.no .resetting, s)
  | .hung | .out => (.hold, s)
  | .up =>
    match d.slotOf vas with
    | none => (.no (.fault .invalid h), s)
    | some (_, p) =>
      match s.openAt h vas va with
      | some r => (if r.mode = 0 then .hold else .no .moved, s)
      | none =>
        let (found, s) := s.homeLeaf h vas va
        (leafCheck s h p vas va acc found, if tagFails s h p vas va acc found then logFinding s h (foundPa va found) 4 1 else s)

/-! ### Reading and writing at a home -/

/-- The bytes at a home, or the uncorrectable word that the read consumes (R405 DATA, R419). -/
def homeBytes (s : State) (h pa n : Nat) : Answer :=
  match mgetD s.bad (badKey h pa) 0 with
  | 1 => .data 1 h
  | 2 => .data 2 h
  | 3 => .data 3 h
  | _ => .performed (s.ramBytes h pa n)

/-- A change of a line: its version becomes one that no line has had, whatever home it gets, and every watch of it is woken (R327, R334). -/
def lineChanged (s : State) (h vas va : Nat) : State :=
  let k := lineKey vas va
  let e := mgetD (s.die h).dir k {}
  let s := { s with nextId := s.nextId + 1 }.modDie h fun d => { d with dir := mput d.dir k { e with ver := s.nextId, watches := [] } }
  e.watches.foldl (fun s w =>
    sendPacket s h w.die vas .bridle (.wake { core := w.core, slot := w.slot, key := .line (lineOf va) 0 })) s

/-- Bytes written under a mask of 128 bits from a line-aligned physical address; unmasked bytes stay. -/
def maskedWrite (mem : List Host.Cell) (key : Nat) (data : List Byte) (mask : Nat) : List Host.Cell :=
  data.zipIdx.foldl (fun m p => if bitOf mask p.2 then Memory.put m (key + p.2) p.1 else m) mem

/-- The mirror of a line is written too (R365): at MIRBASE + pa of the partner, unless the partner is lost. -/
def mirrorWrite (s : State) (h vas leaf pa : Nat) (data : List Byte) (mask : Nat) : State :=
  let q := partnerOf h
  if !leafM leaf || (s.die q).life = .lost then s
  else
    match (s.die q).slotOf vas with
    | none => s
    | some (_, p) =>
      { s with
        mem := maskedWrite s.mem (ramKey q (p.mirBase + pa)) data mask
        bad := if data.length = 128 && mask = 2 ^ 128 - 1 then mdel s.bad (badKey q (p.mirBase + pa)) else s.bad
        tags := mput s.tags (tagKey q (p.mirBase + pa)) (vas * 16 + leafKey leaf) }

/-- L1 copies of a die's cores whose keys pass the test are dropped. -/
def dropL1 (s : State) (die : Nat) (p : Nat → Bool) : State :=
  { s with cores := s.cores.map fun c =>
      if dieOfCore c.1 = die then (c.1, { c.2 with l1 := c.2.l1.filter fun e => !p e.1 }) else c }

/-- The L1s of a die after a store to a line: the storing core's copy is updated and loses its read count (R239, R240), every other
copy is dropped (R251). -/
def l1Store (s : State) (die key : Nat) (core : Option Nat) : State :=
  { s with cores := s.cores.map fun c =>
      if dieOfCore c.1 ≠ die then c
      else if core = some c.1 then (c.1, { c.2 with l1 := c.2.l1.map fun e => if e.1 = key then (key, none, e.2.2) else e })
      else (c.1, { c.2 with l1 := c.2.l1.filter fun e => e.1 ≠ key }) }

/-- A performed write of masked bytes of one line: memory, mirror, page tag, A and D, the line's change, and the L1 copies on the home
die (R251), of which only that of the storing core `core` stays. A line rewritten in full is no longer bad, nor is its mirror (R422). -/
def rawWrite (s : State) (h vas va leaf pa : Nat) (data : List Byte) (mask : Nat) (core : Option Nat := none) : State :=
  let s := { s with
    mem := maskedWrite s.mem (ramKey h pa) data mask
    tags := mput s.tags (tagKey h pa) (vas * 16 + leafKey leaf)
    bad := if data.length = 128 && mask = 2 ^ 128 - 1 then mdel s.bad (badKey h pa) else s.bad }
  let s := mirrorWrite s h vas leaf pa data mask
  l1Store (lineChanged (s.setAD h vas va true) h vas va) h (lineKey vas va) core

/-- Every byte of the list is written. -/
def fullMask (data : List Byte) : Nat := 2 ^ data.length - 1

/-! ### Access without gates: tables, descriptors, logs, engines -/

/-- The home that a die's own replica gives for an address: the leaf and its page size (R366). -/
def State.leafAt (s : State) (die vas va : Nat) : Walk ⊕ (Nat × Nat) :=
  match s.walk die vas va with
  | some (.leaf level l entry _) => .inr (l, (s.tlbOf die vas va level l entry).size)
  | some w => .inl w
  | none => .inl .absent

/-- An access that an agent other than a thread makes at the home that its die's replica names: what the checks come
to, and the home. -/
def agentCheck (s : State) (die vas va : Nat) (acc : Acc) : Gate × Nat × State :=
  if 2 ^ 57 ≤ va then (.no (.fault .addr die), die, s)
  else
    match s.leafAt die vas va with
    | .inl .absent => (.no (.fault .miss die), die, s)
    | .inl _ => (.no (.fault .invalid die), die, s)
    | .inr (l, _) =>
      let h := homeOf l va
      let (g, s) := homeCheck s h vas va acc
      (g, h, s)

/-! ### The solitary token's holds (R330) -/

/-- The lines that a thread's open transaction has read or written. -/
def Thread.readLines (t : Thread) : List Nat :=
  (t.tx.flatMap fun l => l.reads).filterMap fun e => match e with | .line a _ => some a | _ => none
def Thread.writeLines (t : Thread) : List Nat := ((t.tx.flatMap fun l => l.writes.map fun p => lineOf p.1).eraseDups)

/-- A write to a line of the token holder's sets, homed on the holder's die, waits (R330). -/
def tokenHolds (s : State) (h vas va : Nat) (ag : Agent) : Bool :=
  match (s.die h).token with
  | none => false
  | some tk =>
    let t := s.thread tk
    some tk ≠ ag.thread && t.tx ≠ [] && s.vasOf tk = vas
      && (t.readLines.contains (lineOf va) || t.writeLines.contains (lineOf va))

/-- A write to a line of any token holder's sets on the line's home waits, where the writer is an observation unit that acts for another access: the
session's own pages `mine` (R330). `who` is the thread for which it acts. -/
def tokenOn (s : State) (vas : Nat) (mine : Nat → Bool) (who : Option Nat) : Bool :=
  s.dies.any fun p =>
    match p.2.token with
    | none => false
    | some tk =>
      let t := s.thread tk
      some tk ≠ who && t.tx ≠ [] && s.vasOf tk = vas && (t.readLines ++ t.writeLines).any fun l => mine (l / 4096 * 4096)

/-! ### Order gates and logs of a session (R452, R453) -/

/-- The groups of the largest flight that is attached to a session: its hash table has an entry for each (R450). -/
def State.sessionGroups (s : State) (key : Nat) : Nat :=
  s.flights.foldl (fun n p =>
    let h := p.2.hdr
    if p.2.session < 15 && p.2.vas * 8 + p.2.session = key then max n (h.e3 * h.e4 * h.e5 * h.gpt) else n) 0

/-- A page that a session does not snapshot: its descriptor, buffer, snapshot area, hash table of n groups, or log (R447). -/
def Session.ownPage (e : Session) (n page : Nat) : Bool :=
  let within (base len : Nat) : Bool := base / 4096 * 4096 ≤ page && page < base + len
  within e.desc 256 || within (bits (e.word 0) 56 0) (32 * 2 ^ bits (e.word 8) 4 0)
    || within (bits (e.word 0x90) 56 0) (4096 * bits (e.word 0x98) 31 0)
    || within (bits (e.word 0xA0) 56 0) (16 * n) || within (bits (e.word 0xA8) 56 0) (4 * bits (e.word 0xB0) 31 0)

/-- What a session writes waits for the solitary token's holder (R330). -/
def obsHolds (s : State) (key : Nat) (who : Option Nat) : Bool :=
  let e := mgetD s.sessions key {}
  tokenOn s e.vas (e.ownPage (s.sessionGroups key)) who

/-- The word of a descriptor that holds STATE, FLAGS and PASS (R431). -/
def Session.status (e : Session) : Nat := e.stat + 256 * e.flags + 65536 * e.pass

/-- STATE, FLAGS and PASS written to a session's descriptor; whether that can be done. -/
def putDesc (s : State) (e : Session) (held : Bool) : Bool × State :=
  if held then (false, s)
  else
    match agentCheck s ((s.members e.vas).headD 0) e.vas (e.desc + 0xD0) .write with
    | (.ok l pa, h, s) => (true, rawWrite s h e.vas (e.desc + 0xD0) l pa (leBytes 8 e.status) 0xFF)
    | (_, _, s) => (false, s)

/-- STATE and FLAGS of a session, raised in the session and written to its descriptor where that can be done; a change
that cannot be written stays owed (R439). -/
def noteSession (s : State) (key : Nat) (f : Session → Session) : State :=
  let e := f (mgetD s.sessions key {})
  let s := { s with sessions := mput s.sessions key e }
  let (done, s) := putDesc s e (obsHolds s key none)
  { s with sessions := mput s.sessions key { e with owes := !done } }

/-- FLAGS bits of R431, counted from bit 8 of the word. -/
def flagBit (k : Nat) (e : Session) : Session := { e with flags := setBit e.flags k }

/-- An indivisible add to a 64-bit descriptor field: the old value, none if it faults. -/
def fieldAdd (s : State) (die vas va n : Nat) : Option Nat × State :=
  match agentCheck s die vas va .rw with
  | (.ok l pa, h, s) =>
    match homeBytes s h pa 8 with
    | .performed bs => (some (leValue bs), rawWrite s h vas va l pa (leBytes 8 ((leValue bs + n) % 2 ^ 64)) 0xFF)
    | _ => (none, s)
  | (_, _, s) => (none, s)

/-- A 64-bit descriptor field raised, saturating; whether that could be done. -/
def fieldRaise (s : State) (die vas va n : Nat) : Bool × State :=
  match agentCheck s die vas va .rw with
  | (.ok l pa, h, s) =>
    match homeBytes s h pa 8 with
    | .performed bs => (true, rawWrite s h vas va l pa (leBytes 8 (satAdd (leValue bs) n 64)) 0xFF)
    | _ => (false, s)
  | (_, _, s) => (false, s)

/-- A finished run of wins becomes one chunk of the replay log (R452). -/
def logChunk (s : State) (h key line group run : Nat) : State :=
  let e := mgetD s.sessions key {}
  match fieldAdd s h e.vas (e.desc + 0xD8) 1 with
  | (none, s) => noteSession s key fun e => { e with stat := 2 }
  | (some n, s) =>
    if bits (e.word 0xB0) 31 0 ≤ n then noteSession s key (flagBit 3)
    else
      let a := bits (e.word 0xA8) 56 0 + 4 * n
      match agentCheck s h e.vas a .write with
      | (.ok l pa, h, s) => rawWrite s h e.vas a l pa (leBytes 4 (run * 2 ^ 24 + group % 2 ^ 16 * 256 + line)) 0xF
      | (_, _, s) => noteSession s key fun e => { e with stat := 2 }

/-- g of R450, the number of a group in its flight. -/
def State.groupNumber (s : State) (gk : Nat) : Nat :=
  let g := s.group gk
  (s.train g.train).t * (s.flight (s.flightKey gk)).hdr.gpt + g.f2

/-- A win in record mode (R452). -/
def recordWin (s : State) (h key line gk : Nat) : State :=
  let e := mgetD s.sessions key {}
  let g := s.groupNumber gk
  match mget e.runs line with
  | some (g0, n) =>
    if g0 = g && n < 255 then { s with sessions := mput s.sessions key { e with runs := mput e.runs line (g, n + 1) } }
    else
      let s := logChunk s h key line g0 n
      let e := mgetD s.sessions key {}
      { s with sessions := mput s.sessions key { e with runs := mput e.runs line (g, 1) } }
  | none => { s with sessions := mput s.sessions key { e with runs := mput e.runs line (g, 1) } }

/-- The next chunk of a line from chunk n on, in log order: its place, group and run; none at the log's end; the second
part tells that a chunk could not be read. The reads set A (R368). -/
def nextChunk (s : State) (h : Nat) (e : Session) (line : Nat) : Nat → Nat → Option (Nat × Nat × Nat) × Bool × State
  | 0, _ => (none, false, s)
  | fuel + 1, n =>
    let a := bits (e.word 0xA8) 56 0 + 4 * n
    match agentCheck s h e.vas a .read with
    | (.ok _ pa, hh, s) =>
      match homeBytes s hh pa 4 with
      | .performed bs =>
        let c := leValue bs
        let s := s.setAD hh e.vas a false
        if c % 256 = line && c / 2 ^ 24 ≠ 0 then (some (n, c / 256 % 2 ^ 16, c / 2 ^ 24), false, s)
        else nextChunk s h e line fuel (n + 1)
      | _ => (none, true, s)
    | (_, _, s) => (none, true, s)

/-- The group that a replay waits for is gone: it has exited, or its train has ended (R453). -/
def State.groupGone (s : State) (key g : Nat) : Bool :=
  !(s.groups.any fun p =>
      !p.2.ended && (s.flight (s.flightKey p.1)).sessionKey = some key && s.groupNumber p.1 % 2 ^ 16 = g)
    && (s.trains.any fun p => (s.flight p.2.flight).sessionKey = some key && p.2.stat = .ended
          || (p.2.groups.any fun gk => (s.group gk).ended && s.groupNumber gk % 2 ^ 16 = g))

/-- The order gate of a watched line in replay mode (R453): whether the access of a group may be performed. The gate opens as soon as
the log has no chunk left for the line. -/
def replayGate (s : State) (h key line gk : Nat) : Bool × State :=
  let e := mgetD s.sessions key {}
  let st := mgetD e.gates line (0, 0, false)
  let put (s : State) (v : Nat × Nat × Bool) (f : Session → Session) : State :=
    noteSession s key fun e => f { e with gates := mput e.gates line v }
  if st.2.2 then (true, s)
  else
    let fuel := bits (e.word 0xB0) 31 0 - st.1
    match nextChunk s h e line (min fuel 65536) st.1 with
    | (none, false, s) => (true, put s (st.1, 0, true) (flagBit 5))
    | (none, true, s) => (true, put s (st.1, 0, true) fun e => { e with stat := 2 })
    | (some (n, g, run), _, s) =>
      if s.groupNumber gk % 2 ^ 16 = g then
        let left := if st.2.1 = 0 then run else st.2.1
        let rest := bits (e.word 0xB0) 31 0 - (n + 1)
        (true,
          if 1 < left then put s (n, left - 1, false) id
          else
            match nextChunk s h e line (min rest 65536) (n + 1) with
            | (none, false, s) => put s (n + 1, 0, true) (flagBit 5)
            | (none, true, s) => put s (n + 1, 0, true) fun e => { e with stat := 2 }
            | (some _, _, s) => put s (n + 1, 0, false) id)
      else if s.groupGone key g then (true, put s (st.1, 0, true) (flagBit 4))
      else (false, s)

/-- A group's access passes the gate of its session, if the line is watched: performed or not yet (R452, R453). -/
def orderGate (s : State) (h vas va : Nat) (ag : Agent) : Bool × State :=
  match ag.group, s.watcher vas va with
  | some gk, some (key, e, line) =>
    if (s.flight (s.flightKey gk)).sessionKey ≠ some key then (true, s)
    else if obsHolds s key ag.thread then (false, s)
    else if e.mode = 2 then (true, recordWin s h key line gk)
    else replayGate s h key line gk
  | _, _ => (true, s)

/-! ### Snapshots (R447) -/

/-- One page copied line by line through the homes: all of it, or it waits, or it is refused and nothing is written. -/
def copyPage (s : State) (die vas src dst : Nat) : Gate × State :=
  let line (r : Gate × State) (i : Nat) : Gate × State :=
    match r with
    | (.ok a b, s) =>
      match agentCheck s die vas (src + 128 * i) .read with
      | (.ok _ pa, h, s) =>
        match agentCheck s die vas (dst + 128 * i) .write with
        | (.ok l pb, h2, s) =>
          let s := s.setAD h vas (src + 128 * i) false
          (.ok a b, rawWrite s h2 vas (dst + 128 * i) l pb (s.ramBytes h pa 128) (2 ^ 128 - 1))
        | (g, _, s) => (g, s)
      | (g, _, s) => (g, s)
    | r => r
  match (List.range 32).foldl line (.ok 0 0, s) with
  | (.ok a b, t) => (.ok a b, t)
  | (g, _) => (g, s)

/-- The sessions for which the first performed write to a page copies it: multi-pass ones in pass 1 that have not yet done so (R447). -/
def snapKeys (s : State) (vas va leaf : Nat) : List Nat :=
  if leafC leaf then []
  else
    let page := va / 4096 * 4096
    (s.sessions.filter fun p =>
      p.2.vas = vas && p.2.stat = 1 && p.2.mode = 1 && p.2.pass = 1 && !p.2.ownPage (s.sessionGroups p.1) page && !p.2.snaps.contains page).map (·.1)

/-- The place of the next snapshot of a session; none in a full area. -/
def Session.snapPlace (e : Session) : Option Nat :=
  if bits (e.word 0x98) 31 0 ≤ e.snaps.length then none else some (bits (e.word 0x90) 56 0 + 4096 * e.snaps.length)

/-- One session's snapshot of a page. A copy that is refused leaves the page without one (DESIGN CHOICE, log 121). -/
def snapOne (h vas page : Nat) (s : State) (key : Nat) : State :=
  let e := mgetD s.sessions key {}
  match e.snapPlace with
  | none => noteSession s key (flagBit 0)
  | some dst =>
    match copyPage s h vas page dst with
    | (.ok _ _, s) =>
      let e := mgetD s.sessions key {}
      { s with sessions := mput s.sessions key { e with snaps := e.snaps ++ [page] } }
    | (_, s) => s

/-- The snapshots that a write brings about must wait: for a home that cannot answer, or for the solitary token's holder. -/
def snapWaits (s : State) (h vas va leaf : Nat) (who : Option Nat) : Bool :=
  (snapKeys s vas va leaf).any fun key =>
    obsHolds s key who ||
      (match (mgetD s.sessions key {}).snapPlace with
       | none => false
       | some dst => match copyPage s h vas (va / 4096 * 4096) dst with | (.hold, _) => true | _ => false)

/-- A performed write at a line's home, of whatever source: the page's snapshots first (R447). -/
def homeWrite (s : State) (h vas va leaf pa : Nat) (data : List Byte) (mask : Nat) (core : Option Nat := none) : State :=
  let s := (snapKeys s vas va leaf).foldl (snapOne h vas (va / 4096 * 4096)) s
  rawWrite s h vas va leaf pa data mask core

/-! ### An access at its home -/

/-- Every condition on an access at its home: R368, the token's hold, the order gate, what a read finds in the line (R422), and the snapshot
before a write. -/
def serveHome (s : State) (h vas va : Nat) (acc : Acc) (ag : Agent) : Gate × State :=
  match homeCheck s h vas va acc with
  | (.ok l pa, s) =>
    if acc.writes && (tokenHolds s h vas va ag || snapWaits s h vas va l ag.thread) then (.hold, s)
    else
      match orderGate s h vas va ag with
      | (false, s) => (.hold, s)
      | (true, s) =>
        let s := if acc.reads then demandRead s h pa else s
        (.ok l pa, if acc.writes then s else s.setAD h vas va false)
  | r => r

/-! ### Copies of non-home lines (R252) -/

/-- The directory takes in the held notices that wait at a home, or are on their way to it, for a line from a die (R253). -/
def takeHeld (s : State) (h : Nat) (p : Held → Bool) : State :=
  (s.hasten fun q => q.dst = h && (match q.body with | .held n => p n | _ => false)).modDie h fun d =>
    let (now, rest) := d.heldIn.partition p
    let dir := now.foldl (fun dir n =>
      mmod dir (lineKey n.vas n.line) {} fun e =>
        { e with held := (n.die, n.scope) :: e.held.filter fun q => !(q.1 = n.die && q.2 = n.scope) }) d.dir
    { d with dir := dir, heldIn := rest }

/-- The dirty bytes of a non-home line go to its home and mirror (R252, R253). It is never refused with a fault; a home
in warm reset or with hung logic makes it wait, and so does the solitary token's hold of a line that the home homes (R330); a lost home's router takes it (R484), unless a range open on the die
covers the line, which makes it wait for the new home (R470); of a page with M = 0 the bytes are lost, and the line leaves the die. A copy with an uncorrectable error leaves its line poisoned (log 114). The second part tells that it is done. -/
def writeBack (s : State) (die key : Nat) : State × Bool :=
  match mget (s.die die).l2 key with
  | none => (s, true)
  | some e =>
    let vas := key / 2 ^ 57
    let va := key % 2 ^ 57
    let h := homeOf e.leaf va
    let pa := paOf e.leaf va e.size
    let clean (s : State) : State :=
      s.modDie die fun d => { d with l2 := mput d.l2 key { e with dirty := 0, covered := false } }
    let poison (s : State) : State := if e.bad = 0 || mgetD s.bad (badKey h pa) 4 < 4 then s else { s with bad := mput s.bad (badKey h pa) 3 }
    if e.dirty = 0 then (s, true)
    else
      match (s.die h).life with
      | .up =>
        if tokenHolds s h vas va { die := die } || snapWaits s h vas va e.leaf none then (s, false)
        else
          let s := takeHeld s h fun n => n.vas = vas && n.line = va && n.die = die
          (clean (poison (homeWrite s h vas va e.leaf pa e.data e.dirty)), true)
      | .lost =>
        if (s.openAt die vas va).isSome then (s, false)
        else if leafM e.leaf then (clean (mirrorWrite s h vas e.leaf pa e.data e.dirty), true)
        else (dropL1 (s.modDie die fun d => { d with l2 := mdel d.l2 key }) die fun a => a = key, true)
      | _ => (s, false)

/-- Write-backs of several lines; done when each is. -/
def writeBackAll (s : State) (die : Nat) (keys : List Nat) : State × Bool :=
  keys.foldl (fun r k => let (s, ok) := writeBack r.1 die k; (s, r.2 && ok)) (s, true)

/-- A line leaves the die's L2 and its L1s, its dirty bytes written back first. -/
def dropLine (s : State) (die key : Nat) : State × Bool :=
  match writeBack s die key with
  | (s, true) =>
    (dropL1 (s.modDie die fun d => { d with l2 := mdel d.l2 key, l2home := d.l2home.filter (· ≠ key) }) die fun a => a = key, true)
  | r => r

/-- Several lines dropped. -/
def dropLines (s : State) (die : Nat) (keys : List Nat) : State × Bool :=
  keys.foldl (fun r k => let (s, ok) := dropLine r.1 die k; (s, r.2 && ok)) (s, true)

/-- A scope that writes back (R253) and drops lines (R254). -/
def wideScope : Scope → Bool
  | .module | .domain => true
  | _ => false

/-- The last release before the one that is recorded now stays beside the held notices, so that an acquire that synchronises with it finds it
(R246, R253). -/
def DirLine.keepLast (e : DirLine) (old : Option (Nat × Scope)) : DirLine :=
  match old with
  | some p => { e with held := p :: e.held.filter fun q => !(q.1 = p.1 && q.2 = p.2) }
  | none => e

/-- The home lines that the die's own threads wrote since the last release are recorded as covered by one of a scope (R253). -/
def coverHome (s : State) (die : Nat) (sc : Scope) : State :=
  s.modDie die fun d =>
    { d with dir := d.dir.map fun p => if p.2.fresh then (p.1, { p.2 with fresh := false, last := some (die, sc) }.keepLast p.2.last) else p }

/-- A MODULE or DOMAIN release (R253): every dirty non-home line of the die is written back, and the home lines are recorded. -/
def releaseWide (s : State) (die : Nat) (sc : Scope := .domain) : State × Bool :=
  let (s, ok) := writeBackAll s die (((s.die die).l2.filter fun p => p.2.dirty ≠ 0).map (·.1))
  (if ok then coverHome s die sc else s, ok)

/-- A release of narrower scope: its die's dirty non-home lines are covered and held notices go to their homes; the home
lines that its threads wrote are recorded in the directory (R253). -/
def releaseNarrow (s : State) (die : Nat) (sc : Scope) : State :=
  let dirty := (s.die die).l2.filter fun p => p.2.dirty ≠ 0
  let s := (coverHome s die sc).modDie die fun d =>
    { d with l2 := d.l2.map fun p => if p.2.dirty ≠ 0 then (p.1, { p.2 with covered := true }) else p }
  dirty.foldl (fun s p =>
    let n : Held := { vas := p.1 / 2 ^ 57, line := p.1 % 2 ^ 57, die := die, scope := sc }
    sendPacket s die (homeOf p.2.leaf (p.1 % 2 ^ 57)) n.vas .bridle (.held n)) s

/-- An acquire of MODULE or DOMAIN scope: every non-home line leaves the die, written back first (R254). -/
def dropNonHome (s : State) (die : Nat) : State × Bool := dropLines s die ((s.die die).l2.map (·.1))

/-- Lines of the L2 that share a set (R241). -/
def setOf (key : Nat) : Nat := key / 128 % 2 ^ 15

/-- A full set of 16 ways makes room for a line: the first unpinned line leaves it. -/
def l2Room (s : State) (die key : Nat) : State :=
  let d := s.die die
  let same := (d.l2home ++ d.l2.map (·.1)).filter fun k => setOf k = setOf key && k ≠ key
  if same.length < 16 then s
  else
    match same.find? fun k => (mgetD d.pins k []) = [] with
    | some k => (dropLine s die k).1
    | none => s

/-- A non-home line enters the L2. -/
def l2Put (s : State) (die key : Nat) (e : L2Line) : State :=
  (l2Room s die key).modDie die fun d => { d with l2 := mput d.l2 key e }

/-- A home line enters the L2 of its die (R239). -/
def l2Home (s : State) (die key : Nat) : State :=
  if (s.die die).l2home.contains key then s else (l2Room s die key).modDie die fun d => { d with l2home := d.l2home ++ [key] }

/-- The line's bytes with data laid over them from an offset. -/
def overlay (line : List Byte) (off : Nat) (data : List Byte) : List Byte :=
  line.take off ++ data ++ line.drop (off + data.length)

/-! ### Loads, stores and atomics -/

/-- What an access comes to: waits, or is answered. -/
inductive Served
  | hold
  | done (a : Answer)
  deriving DecidableEq, Repr

/-- The page size under which a home's leaf serves an address. -/
def State.sizeAt (s : State) (h vas va : Nat) : Nat :=
  match s.homeLeaf h vas va with
  | (some (_, size), _) => size
  | _ => 4096

/-- A non-home line leaves its die before an access to it at its home; a home line stays where it is. -/
def leaveFor (s : State) (die h key : Nat) : State × Bool := if h = die then (s, true) else dropLine s die key

/-- A load at the line's home (R254): a dirty copy of the own die is written back first, and the copy is dropped. -/
def loadAtHome (s : State) (die h vas va n : Nat) (acc : Acc) (ag : Agent) : Served × State :=
  match leaveFor s die h (lineKey vas va) with
  | (s, false) => (.hold, s)
  | (s, true) =>
    match serveHome s h vas va acc ag with
    | (.hold, s) => (.hold, s)
    | (.no a, s) => (.done a, s)
    | (.ok _ pa, s) => (.done (homeBytes s h pa n), s)

/-- The error that a line brings along when it is filled for a store that does not read it (R419). -/
def fillBad (s : State) (h pa : Nat) : Nat := match homeBytes s h pa 1 with | .data c _ => c | _ => 0

/-- A plain load: from the home, or for a non-home line from the die's L2, which a miss fills (R239, R252). A die with an open range over the line
takes no copy of it, so that none outlives the shootdown (R374); nor does it serve a line of a lost page (R427). -/
def loadPlain (s : State) (die h vas va n : Nat) (ag : Agent) : Served × State :=
  if h = die then
    match serveHome s h vas va .read ag with
    | (.hold, s) => (.hold, s)
    | (.no a, s) => (.done a, s)
    | (.ok _ pa, s) => (.done (homeBytes s h pa n), l2Home s die (lineKey vas va))
  else if (s.watcher vas va).isSome || (s.openAt die vas va).isSome then loadAtHome s die h vas va n .read ag
  else
    match mget (s.die die).l2 (lineKey vas va) with
    | some e =>
      (.done (if s.pageLost e.leaf then .fault .lost h else if e.bad = 0 then .performed ((e.data.drop (va % 128)).take n) else .data e.bad die), s)
    | none =>
      match serveHome s h vas va .read ag with
      | (.hold, s) => (.hold, s)
      | (.no a, s) => (.done a, s)
      | (.ok l pa, s) =>
        match homeBytes s h (pa / 128 * 128) 128 with
        | .performed bs =>
          let s := l2Put s die (lineKey vas va) { data := bs, leaf := l, size := s.sizeAt h vas va }
          (.done (.performed ((bs.drop (va % 128)).take n)), s)
        | a => (.done a, s)

/-- The directory notes that the home die's own thread wrote a line, or that a release's signal stands in it: beside the record of the
last release, a record of every release whose signal it is, so that a later signal in the line does not hide it from an
acquire that both synchronise with (R246, R253). -/
def noteWrite (s : State) (h vas va : Nat) (ag : Agent) (sig : Option Scope) : State :=
  let k := lineKey vas va
  match sig with
  | some sc =>
    s.modDie h fun d =>
      { d with dir := mmod d.dir k {} fun e =>
          { e with
            last := some (ag.die, sc), fresh := false
            held := (ag.die, sc) :: e.held.filter fun q => !(q.1 = ag.die && q.2 = sc) } }
  | none => if ag.die = h then s.modDie h fun d => { d with dir := mmod d.dir k {} fun e => { e with fresh := true } } else s

/-- A store performed at the line's home. -/
def storeAtHome (s : State) (die h vas va : Nat) (data : List Byte) (ag : Agent) (sig : Option Scope) : Served × State :=
  match leaveFor s die h (lineKey vas va) with
  | (s, false) => (.hold, s)
  | (s, true) =>
    match serveHome s h vas va .write ag with
    | (.hold, s) => (.hold, s)
    | (.no a, s) => (.done a, s)
    | (.ok l pa, s) =>
      (.done (.performed []), noteWrite (homeWrite s h vas va l pa data (fullMask data) ag.core) h vas va ag sig)

/-- Bytes put into a non-home line that the die holds with write right. -/
def storeInL2 (s : State) (die key va : Nat) (data : List Byte) (e : L2Line) (core : Option Nat) : State :=
  let off := va % 128
  let mask := (List.range data.length).foldl (fun m i => setBit m (off + i)) e.dirty
  l1Store (s.modDie die fun d =>
    { d with l2 := mput d.l2 key { e with data := overlay e.data off data, dirty := mask } }) die key core

/-- A plain store (R252): at the home; or into a non-home line held with write right, which the home grants with the line
after its checks. With a range open over the line on the die it gets no write right (R374). -/
def storePlain (s : State) (die h vas va : Nat) (data : List Byte) (ag : Agent) : Served × State :=
  if h = die then
    match storeAtHome s die h vas va data ag none with
    | (.done (.performed bs), s) => (.done (.performed bs), l2Home s die (lineKey vas va))
    | r => r
  else if (s.watcher vas va).isSome || (s.openAt die vas va).isSome then storeAtHome s die h vas va data ag none
  else
    let key := lineKey vas va
    match mget (s.die die).l2 key with
    | some e =>
      if s.pageLost e.leaf then (.done (.fault .lost h), s)
      else if e.right then (.done (.performed []), storeInL2 s die key va data e ag.core)
      else
        match serveHome s h vas va .write ag with
        | (.hold, s) => (.hold, s)
        | (.no a, s) => (.done a, s)
        | (.ok l pa, s) =>
          let bs := s.ramBytes h (pa / 128 * 128) 128
          let s := s.setAD h vas va true
          (.done (.performed []), storeInL2 s die key va data { e with data := bs, right := true, leaf := l, size := s.sizeAt h vas va, bad := fillBad s h pa } ag.core)
    | none =>
      match serveHome s h vas va .write ag with
      | (.hold, s) => (.hold, s)
      | (.no a, s) => (.done a, s)
      | (.ok l pa, s) =>
        let bs := s.ramBytes h (pa / 128 * 128) 128
        let e : L2Line := { data := bs, right := true, leaf := l, size := s.sizeAt h vas va, bad := fillBad s h pa }
        let s := l2Put (s.setAD h vas va true) die key e
        (.done (.performed []), storeInL2 s die key va data e ag.core)

/-- A read and write in one step at the home (R242): `f` gives the new bytes and the answer from the old bytes. -/
def updateAtHome (s : State) (die h vas va n : Nat) (acc : Acc) (ag : Agent) (sig : Option Scope)
    (f : List Byte → List Byte × List Byte) : Served × State :=
  match leaveFor s die h (lineKey vas va) with
  | (s, false) => (.hold, s)
  | (s, true) =>
    match serveHome s h vas va acc ag with
    | (.hold, s) => (.hold, s)
    | (.no a, s) => (.done a, s)
    | (.ok l pa, s) =>
      match homeBytes s h pa n with
      | .performed old =>
        let (new, ans) := f old
        (.done (.performed ans), noteWrite (homeWrite s h vas va l pa new (fullMask new) ag.core) h vas va ag sig)
      | a => (.done a, s)

/-! ### Accesses of engines, dispatchers and ports -/

/-- A load by an agent, performed at once at the home that its die's replica gives (plain, not past the own die's L2). -/
def agentRead (s : State) (die vas va n : Nat) (acc : Acc) : Served × State :=
  match agentCheck s die vas va acc with
  | (.hold, _, s) => (.hold, s)
  | (.no a, _, s) => (.done a, s)
  | (.ok _ _, h, s) =>
    if h ≠ die && acc = .read then loadPlain s die h vas va n { die := die }
    else loadAtHome s die h vas va n acc { die := die }

/-- A store by an agent: plain, as a thread of its die would make it. -/
def agentWrite (s : State) (die vas va : Nat) (data : List Byte) : Served × State :=
  match agentCheck s die vas va .write with
  | (.hold, _, s) => (.hold, s)
  | (.no a, _, s) => (.done a, s)
  | (.ok _ _, h, s) => storePlain s die h vas va data { die := die }

/-- A store by an agent that reaches the line's home (ports, records). -/
def agentWriteHome (s : State) (die vas va : Nat) (data : List Byte) (sig : Option Scope) : Served × State :=
  match agentCheck s die vas va .write with
  | (.hold, _, s) => (.hold, s)
  | (.no a, _, s) => (.done a, s)
  | (.ok _ _, h, s) => storeAtHome s die h vas va data { die := die } sig

/-- An add to a counter, saturating at 2^64 - 1 (R279): the old value. -/
def agentCtrAdd (s : State) (die vas va n : Nat) : Served × State :=
  match agentCheck s die vas va .ctrAdd with
  | (.hold, _, s) => (.hold, s)
  | (.no a, _, s) => (.done a, s)
  | (.ok _ _, h, s) =>
    updateAtHome s die h vas va 8 .ctrAdd { die := die } (some .domain) fun old =>
      (leBytes 8 (satAdd (leValue old) n 64), old)

end Sys2Proof.Machine
end

