-- ==== Sys2Proof/Machine/Issue.lean ====
section
/-! DEFINITION. Streaming a bundle: how one word of a block executes for the bundle in focus. `runWord` is the one
frame of every instruction word; a meaning gives it what the word does to the lanes. -/

namespace Sys2Proof.Machine

set_option Elab.async false

/-! ### Parity (R420) -/

/-- The registers that a word reads. -/
def readRegs (i : Instr) : List Nat :=
  let f := info i
  let one : Use → List Nat
    | .rd (.reg n) w => if n = 0 then [] else span n w
    | .rdwr (.reg n) => span n 2
    | .rdRun (.reg n) w _ => span n w
    | .wr (.reg n) w _ => if f.acc && n ≠ 0 then span n w else []
    | _ => []
  f.uses.flatMap one

/-- The registers that an ALU-class word writes: the first and their number. -/
def aluDst (i : Instr) : Option (Nat × Nat) :=
  match (info i).cls with
  | .alu w =>
    (info i).uses.findSome? fun u =>
      match u with
      | .wr (.reg n) _ _ => if n = 0 then none else some (n, w)
      | .wrRun (.reg n) m _ => some (n, m)
      | _ => none
  | _ => none

/-- The last writer of a register of a thread slot stands in a replay queue. -/
def Core.replayable (c : Core) (p : Nat × Nat) : Bool :=
  !c.loaded.contains p && c.replay.any fun e => e.2.1 ≤ p.2 && p.2 < e.2.1 + e.2.2.1 && e.2.2.2.contains p.1

/-- The bad registers that a lane reads, each in turn: repaired when its last writer stands in a replay queue, else a PARITY trap. -/
def parityLane (ck : Nat) (regs : List Nat) (s : State) (tk : Nat) : State :=
  let bad := (s.core ck).parity.filter fun p => p.1 = slotOf tk && regs.contains p.2
  bad.foldl (fun s p =>
    if (s.thread tk).stat ≠ .stream then s
    else if (s.core ck).replayable p then s.modCore ck fun c => { c with parity := c.parity.filter (· ≠ p) }
    else trapThread s tk { kind := .parity, detail := p.2 }) s

/-- Registers of a thread get a value that no replay queue holds: a memory-class result, a restored one, or one that the die kernel writes. -/
def noteLoaded (s : State) (tk : Nat) (regs : List Nat) : State :=
  if regs = [] then s
  else
    let ps := regs.map fun n => (slotOf tk, n)
    s.modCore (coreOfThread tk) fun c =>
      { c with parity := c.parity.filter (!ps.contains ·), loaded := ps ++ c.loaded.filter (!ps.contains ·) }

/-- A thread slot gets another thread: no replay queue holds a register of it. -/
def dropReplay (s : State) (tk : Nat) : State :=
  let l := slotOf tk
  s.modCore (coreOfThread tk) fun c =>
    { c with
      replay := c.replay.map fun e => (e.1, e.2.1, e.2.2.1, e.2.2.2.filter (· ≠ l))
      parity := c.parity.filter (·.1 ≠ l), loaded := c.loaded.filter (·.1 ≠ l) }

/-- Parity errors met by a word's register reads (R420). -/
def parityStep (k : Nat) (i : Instr) (s : State) : State :=
  let ck := k / 2
  if (s.core ck).parity = [] then s
  else
    let regs := readRegs i
    let ls := s.active k
    let bad := ls.any fun tk => (s.core ck).parity.any fun p => p.1 = slotOf tk && regs.contains p.2
    let s := s.forLanes ls (parityLane ck regs)
    if bad then s.elapse ck (2 * ceilDiv ls.length 16) (s.bundleGroups k) (some 10) else s

/-- An ALU-class writer enters its bundle slot's replay queue; a register it writes has good parity again. -/
def noteWriter (k : Nat) (i : Instr) (ls : List Nat) (s : State) : State :=
  match aluDst i with
  | none => s
  | some (n, w) =>
    s.modCore (k / 2) fun c =>
      let mine := (c.replay.filter fun e => e.1 = k % 2).take 31
      let other := c.replay.filter fun e => e.1 ≠ k % 2
      let slots := ls.map slotOf
      { c with
        replay := (k % 2, n, w, slots) :: mine ++ other
        parity := c.parity.filter fun p => !(slots.contains p.1 && n ≤ p.2 && p.2 < n + w)
        loaded := c.loaded.filter fun p => !(slots.contains p.1 && n ≤ p.2 && p.2 < n + w) }

/-! ### The frame of a word -/

/-- Cycles a beat of the word holds the datapath (R155). -/
def occupancy : Instr → Nat
  | .umadw _ _ _ _ | .imadw _ _ _ _ | .cmul _ _ _ _ | .cfma _ _ _ _ | .cfms _ _ _ _ => 2
  | .frcp _ _ _ | .frsq _ _ _ | .fsqrt _ _ _ | .fexp2 _ _ _ | .flog2 _ _ _ | .fsin2pi _ _ _ | .fcos2pi _ _ _
  | .ftanh _ _ _ | .qnt _ _ _ _ => 4
  | .fdiv _ _ _ _ | .wredFadd _ _ _ => 8
  | _ => 1

/-- A lane moves past the word it has met: a HINT word leaves its hint pending; any other word uses up the pending
hints (R102) and one place of the guard (R104), and is counted for w names (R70). PBLK itself is never guarded (R105). -/
def Thread.past (i : Instr) (t : Thread) : Thread :=
  let f := info i
  if f.cls = .hint then { t with off := t.off + 1 }
  else
    { t with
      off := t.off + 1
      sMust := f.mustS && t.on
      boost := if t.on || (match i with | .pblk _ _ _ => true | _ => false) then t.hPrio.getD t.boost else t.boost
      hImm := none, hOff := none, hRnd := none, hFtz := none, hSat := false, hPol := none, hPrio := none
      gLeft := (match i with | .pblk _ _ _ => t.gLeft | _ => t.gLeft - 1)
      gPat := (match i with | .pblk _ _ _ => t.gPat | _ => t.gPat / 2)
      win := (match f.cls with | .alu _ => t.win | _ => none :: t.win) }

/-- A bundle ends (R65): its threads proceed to their next heads (R55). A block whose 64th word does not end it
makes its threads trap at the 65th (R50). -/
def endBundle (k : Nat) (i : Instr) (ends : Bool) (s : State) : State :=
  let s :=
    if ends then s.mapLanes k fun _ t => { t with stat := .ret, sEnd := (info i).s, gLeft := 0, gPat := 0 }
    else trapAll s k { kind := .illegal, sub := 4 }
  { s with bundles := mdel s.bundles k }

/-- A HINT word or PBLK: it issues with the instruction that follows it and takes no beats (R64). -/
def quietWord (i : Instr) : Bool := (match i with | .pblk _ _ _ => true | _ => decide ((info i).cls = .hint))

/-- The bundle of slot k stands between a HINT or PBLK word and the instruction that it issues with. -/
def State.midWord (s : State) (k : Nat) : Bool :=
  let b := s.bundle k
  (mget s.bundles k).isSome && 0 < b.pos &&
    (match b.code[b.pos - 1]? with
     | some (w, _) => (match bodyInstr b.glomer w with | some i => quietWord i | none => false)
     | none => false)

/-- The slot of a core that issues next (R65): one that stands between a HINT word and its instruction; else the one that did not
issue last, if it holds a bundle able to issue; else the other. A bundle whose block is still to be fetched is not able to issue. -/
def pickFocus (ck : Nat) (s : State) : Option Nat :=
  let able (k : Nat) : Bool := (mget s.bundles k).isSome && !(s.bundle k).fetching
  let last := 2 * ck + (s.core ck).lastSlot
  let other := 2 * ck + (1 - (s.core ck).lastSlot)
  if s.midWord last then some last
  else if able other then some other
  else if able last then some last
  else none

/-- Beats of a word. -/
def wordBeats (i : Instr) (b : Bundle) : Nat := if quietWord i then 0 else ceilDiv b.lanes.length 16

/-- The lanes of a bundle that its word carries: those that still stream, and those that trap at it (R66). -/
def State.carried (s : State) (k : Nat) : List Nat :=
  let b := s.bundle k
  (b.lanes.map (threadKey (k / 2) ·)).filter fun tk => (s.thread tk).stat = .stream || (s.thread tk).off = b.pos

/-- The groups whose threads each beat of a word carries: 16 lane places of the bundle a beat (R64, R442). -/
def State.beatGroups (s : State) (k n : Nat) : List (List Nat) :=
  (List.range n).map fun j =>
    ((((s.bundle k).lanes.drop (16 * j)).take 16).filterMap fun l =>
      let tk := threadKey (k / 2) l
      if (s.carried k).contains tk then some (s.groupKey tk) else none).eraseDups

/-- The cycles of a word's beats pass, each beat's for the groups that it carries; then those that Glomer decoding adds, in which no beat
completes (R115, R442); and the word is counted (R155, R445). -/
def passBeats (ck : Nat) (gs : List Nat) (beats : List (List Nat)) (each half idle : Nat) (s : State) : State :=
  let s := (beats.foldl (fun s g => s.elapse ck each g none) s).elapse ck half gs (some 12)
  (s.countEvent ck gs 1 beats.length).countEvent ck gs 3 idle

/-- The counters after a word: its replay-queue entry, and its beats. -/
def wordCounters (k : Nat) (i : Instr) (s : State) : State :=
  let b := s.bundle k
  let n := wordBeats i b
  passBeats (k / 2) (s.bundleGroups k) (s.beatGroups k n) (occupancy i) (if b.glomer then n * occupancy i else 0) (16 * n - (s.carried k).length)
    (noteWriter k i (s.active k) s)

/-- The bundle's place moves on: its block ends with its last word, and a bundle without a lane ends too. `b` is the bundle as it
stood at the word. -/
def wordPlace (k : Nat) (i : Instr) (b : Bundle) (s : State) : State :=
  if b.code.length ≤ b.pos + 1 then endBundle k i (((b.code[b.pos]?).map (·.2)).getD true) s
  else if s.lanes k = [] then { s with bundles := mdel s.bundles k }
  else s.setBundle k { b with pos := b.pos + 1 }

/-- The core notes the slot that issued last. -/
def noteSlot (k : Nat) (s : State) : State := s.modCore (k / 2) fun c => { c with lastSlot := k % 2 }

/-- After a word has executed for a bundle: its lanes and its place move on, the cycles of its beats pass, and a
bundle whose last word it was ends: its slot is free then, and the focus is given up (R58). -/
def finishWord (k : Nat) (i : Instr) (s : State) : State :=
  let t := wordPlace k i (s.bundle k) (noteSlot k ((wordCounters k i s).mapLanes k fun _ t => t.past i))
  { t with focus := if (mget t.bundles k).isSome then pickFocus (k / 2) t else none }

/-- The rule of R324: a forbidden word traps each lane that is inside a transaction, or the whole bundle. -/
def txCheck (k : Nat) (i : Instr) (s : State) : State :=
  let inTx := (s.active k).filter fun t => (s.thread t).tx ≠ []
  match (info i).tx with
  | .free => s
  | .lane => s.forLanes inTx fun s t => trapThread s t { kind := .illegal, sub := 7 }
  | .bundle => if inTx = [] then s else trapAll s k { kind := .illegal, sub := 7 }

/-- One word for the bundle in focus: an illegal word traps every lane (R111); else register parity is met (R420),
the rule of R324 applies, and `body` does what the word does. -/
def runWord (i : Instr) (body : Nat → State → State) (s : State) : Host.Outcome State Fault Refusal :=
  match s.focus with
  | none => .fault .noBundle
  | some k =>
    if s.subAt k i ≠ 0 then .next (finishWord k i (trapAll s k { kind := .illegal, sub := s.subAt k i }))
    else .next (finishWord k i (body k (txCheck k i (parityStep k i s))))

/-- A word of a streaming block that is no instruction (R110): only code changed under a bundle could show it. -/
def badWord (k : Nat) (s : State) : State :=
  let s := trapAll s k { kind := .illegal, sub := 1 }
  { s with bundles := mdel s.bundles k, focus := none }

/-- Do one thing for each lane for which the guard is on, in ascending slot order. -/
def eachOn (f : State → Nat → State) (k : Nat) (s : State) : State := s.forLanes (s.active k) f

/-- Change each thread for which the guard is on. -/
def mapOn (f : Thread → Thread) (k : Nat) (s : State) : State :=
  s.mapLanes k fun _ t => if t.on then f t else t

end Sys2Proof.Machine
end

