-- ==== Sys2Proof/Machine/Residues.lean ====
section
/-! DEFINITION. Residues of the accumulators (R138 to R143), the codes that MDRAIN writes (R216), and the changes of a word that the
ballast holds (R415). -/

namespace Sys2Proof.Machine

set_option Elab.async false

/-! ### Residues (R138 to R143) -/

/-- The signed value of residues (R139). -/
def crt (q0 q1 q2 : Nat) : Int :=
  let x := (q0 * 683 * 1044483 + q1 * 511 * 1045504 + q2 * 851 * 1047552) % 1069550592
  if 534775296 ≤ x then (x : Int) - 1069550592 else x

/-- The residues of an integer (R138). -/
def residueOf (v : Int) : Residue :=
  { r0 := (v % 1024).toNat, r1 := (v % 1023).toNat, r2 := (v % 1021).toNat, chk := (v % 59).toNat }
def Residue.val (r : Residue) : Int := crt r.r0 r.r1 r.r2
/-- The check of R140. -/
def Residue.ok (r : Residue) : Bool := (r.val % 59).toNat = r.chk
def Residue.add (a b : Residue) : Residue :=
  { r0 := (a.r0 + b.r0) % 1024, r1 := (a.r1 + b.r1) % 1023, r2 := (a.r2 + b.r2) % 1021, chk := (a.chk + b.chk) % 59 }

/-- A RES32 word of residues (R141), and its parts. -/
def res32Word (r : Residue) : Nat := r.r0 + 2 ^ 10 * r.r1 + 2 ^ 20 * r.r2
def poisonWord : Nat := 0xC0000000
/-- A word that a unit treats as poison (R142). -/
def isPoison (w : Nat) : Bool := bits w 31 30 ≠ 0 || bits w 19 10 = 1023 || 1020 < bits w 29 20
/-- The residues of a RES32 word, its check channel computed from its value (R140). -/
def ofRes32 (w : Nat) : Residue := residueOf (crt (bits w 9 0) (bits w 19 10) (bits w 29 20))
/-- Two RES32 words added (R143); a sum with a poison part is poison (R142). -/
def addRes32 (a b : Nat) : Nat :=
  if isPoison a || isPoison b then poisonWord
  else
    (bits a 9 0 + bits b 9 0) % 1024 + 2 ^ 10 * ((bits a 19 10 + bits b 19 10) % 1023)
      + 2 ^ 20 * ((bits a 29 20 + bits b 29 20) % 1021)

/-! ### What a drain writes (R216) -/

/-- V·s of R216 as an exact value: NaN for a NaN scale, +0 for a zero scale. -/
def drainTerm (v : Int) (sa sb : Nat) : FVal :=
  match sc9Val sa, sc9Val sb with
  | .nan, _ => .nan
  | _, .nan => .nan
  | a, b =>
    if v = 0 || a.isZero false || b.isZero false then .num false 0 0
    else (FVal.num (v < 0) v.natAbs 0).mul (a.mul b)

/-- The code written for one element; `old` is the destination word in modes 0 and 4. -/
def drainCode (m : DrainMode) (v : Int) (sa sb old : Nat) : Nat :=
  match m with
  | .acc => fp32.sum {} [fp32.val false old, drainTerm v sa sb]
  | .ovr => fp32.sum {} [drainTerm v sa sb]
  | .bf16 => bf16.sum {} [drainTerm v sa sb]
  | .i32 => wrapN v 32
  | .res => addRes32 old (res32Word (residueOf v))

/-- The bits of a value that a mask names, the others from an old value. -/
def mergeBits (old mask v : Nat) : Nat := (old &&& (mask ^^^ (2 ^ 32 - 1))) ||| (v &&& mask)

/-- The word after a change that the ballast holds. -/
def WordUpd.apply (u : WordUpd) (old : Nat) : Nat :=
  match u with
  | .drain m v sa sb => drainCode m v sa sb old
  | .mask m v => mergeBits old m v

end Sys2Proof.Machine
end

