-- ==== Sys2Proof/Machine/Requests.lean ====
section
/-! DEFINITION. Requests of the load-store unit: addresses and their checks (R231, R233, R263), scratch placement
(R236, R237), making a request, the orders that hold it back (R244, R108), and the faults it meets (R370, R410). -/

namespace Sys2Proof.Machine

set_option Elab.async false

/-! ### Addresses -/

/-- The byte offset of a pending HINT OFF (R102). -/
def Thread.hintOff (t : Thread) : Int := match t.hOff with | some o => o.toInt | none => 0

/-- The effective address of a global access, modulo 2^64, and of a scratch access, modulo 2^32 (R102). -/
def Thread.globalEa (t : Thread) (b : Opnd) : Nat := wrapN ((t.pair b).toNat + t.hintOff) 64
def Thread.scratchEa (t : Thread) (b : Opnd) : Nat := wrapN ((t.src b).toNat + t.hintOff) 32

/-- The access may go to a plain global address: bits [63:57] and alignment (R263, checks 5 and 6); `die` detects. -/
def globalTrap (die ea align : Nat) (wr : Bool) : Option TrapInfo :=
  if 2 ^ 57 ≤ ea then some { kind := .page, sub := 6, va := ea % 2 ^ 57, detail := wr.toNat + 2 * die }
  else if ea % align ≠ 0 then some { kind := .align, va := ea }
  else none

/-- The group slot key that a scratch address of a thread's group names: its own, or a peer of its train (R231). -/
def State.scratchGroup (s : State) (gk ea : Nat) : Option Nat :=
  let g := s.group gk
  let gix := bits ea 24 18
  if gix = 0x7F || gix = g.f2 then some gk
  else if gix < (s.flight (s.flightKey gk)).hdr.gpt then (s.train g.train).groups[gix]? else none

/-- The scratch bytes of a group's allocation (R35). -/
def State.scratchSize (s : State) (gk : Nat) : Nat := (s.flight (s.flightKey gk)).hdr.scratch

/-- Layout and bounds of a scratch access of n bytes (R231), then its alignment (R233). -/
def scratchTrap (s : State) (gk ea n align : Nat) : Option TrapInfo :=
  if bits ea 31 26 ≠ 0 || (s.scratchGroup gk ea).isNone || s.scratchSize gk < ea % 2 ^ 18 + n then
    some { kind := .scrBound, va := ea }
  else if ea % align ≠ 0 then some { kind := .align, va := ea }
  else none

/-- The fold mapping of a word address (R237). -/
def foldWord (w : Nat) : Nat :=
  let h := ((w / 32) ^^^ (w / 1024)) % 32
  w / 32 * 32 + ((w % 32) ^^^ h)

/-- The byte offset after the fold mapping, if it applies. -/
def foldOff (fold : Bool) (off : Nat) : Nat := if fold then foldWord (off / 4) * 4 + off % 4 else off

/-- The cell of a scratch byte of a group: its page backs it (R46). -/
def State.scratchCell (s : State) (gk off : Nat) : Nat :=
  scrKey (coreOfGroup gk) ((((s.group gk).pages[off / 4096]?).getD 0) * 4096 + off % 4096)

/-- The cell of the first byte of an aligned scratch word at an address, for a thread's group. -/
def State.scratchAt (s : State) (gk ea : Nat) : Nat :=
  s.scratchCell ((s.scratchGroup gk ea).getD gk) (foldOff (bitOf ea 25) (ea % 2 ^ 18))

/-- Bytes of a scratch access of at most 16 bytes: each 4-byte word is placed by itself (R237). -/
def State.readScratch (s : State) (gk ea n : Nat) : List Byte :=
  (List.range n).map fun i => Memory.get s.mem (s.scratchAt gk (ea / 2 ^ 18 * 2 ^ 18 + (ea % 2 ^ 18 + i)))
/-- Some word of a scratch access holds an uncorrectable error (R419). -/
def State.scratchBad (s : State) (gk ea n : Nat) : Bool :=
  (List.range n).any fun i => (mget s.bad (cellBad (s.scratchAt gk (ea / 2 ^ 18 * 2 ^ 18 + (ea % 2 ^ 18 + i))))).isSome
/-- Bytes stored in scratch; 64 bits that they rewrite whole are no longer bad. -/
def State.writeScratch (s : State) (gk ea : Nat) (data : List Byte) : State :=
  { s with
    bad := (List.range (data.length / 8)).foldl (fun b i => mdel b (cellBad (s.scratchAt gk (ea / 2 ^ 18 * 2 ^ 18 + (ea % 2 ^ 18 + 8 * i))))) s.bad
    mem := data.zipIdx.foldl (fun m p => Memory.put m (s.scratchAt gk (ea / 2 ^ 18 * 2 ^ 18 + (ea % 2 ^ 18 + p.2))) p.1) s.mem }

/-! ### Faults -/

/-- A fault on its way to a die's fault queue (R370). -/
def State.addFault (s : State) (die : Nat) (f : FaultWait) : State :=
  s.modDie die fun d => { d with faults := d.faults ++ [f] }

/-- A die's fault queue has no entry for the last of the faults that are on their way to it (R371). -/
def State.faultsFull (s : State) (die : Nat) : Bool :=
  let d := s.die die
  4 ≤ d.fqLog && d.fqLog ≤ 16 && 2 ^ d.fqLog < count32 d.fqTail.toNat d.fqHead.toNat + d.faults.length

/-- A requester that is no thread waits on its fault: on a MISS for the die kernel, on another kind until the fault queue has an entry for
it (R371). -/
def State.faultWaits (s : State) (die : Nat) (k : PageFault) : Bool := k = .miss || s.faultsFull die

/-- A lane that takes a trap found at issue (R263); an address with bits [63:57] set also makes a fault-queue entry. -/
def issueTrap (s : State) (tk : Nat) (wr : Bool) (ti : TrapInfo) : State :=
  if ti.kind = .page then
    let s := s.addFault (dieOfThread tk)
      { va := ti.va, vas := s.vasOf tk, kind := .addr, wr := wr, core := coreOfThread tk % 128, slot := slotOf tk
        det := dieOfThread tk, who := s.nextId }
    trapThread { s with nextId := s.nextId + 1 } tk { ti with who := s.nextId }
  else trapThread s tk ti

/-- The access writes (WR of R370). -/
def Req.writes (r : Req) : Bool :=
  match r.kind with
  | .store | .probe | .change _ | .join _ | .rmw _ _ | .cas _ | .ctrAdd | .scrStore => true
  | _ => false

/-- A request's fault goes to the fault queue for each of its threads, and a thread still in the request's block takes
note of it (R410). A prefetch drops its fault silently (R270). -/
def requestFault (s : State) (r : Req) (k : PageFault) (det : Nat) : State :=
  if r.kind = .pref then s
  else
    r.lanes.foldl (fun s l =>
      let tk := threadKey r.core l.slot
      let id := s.nextId
      let s := ({ s with nextId := id + 1 }).addFault r.die
        { va := r.va, vas := r.vas, kind := k, wr := r.writes, core := r.core % 128, slot := l.slot, det := det, who := id }
      askedTrap s tk
        { kind := .page, sub := k.code, off := r.off, ord := r.ord, va := r.va
          detail := r.writes.toNat + 2 * det, who := id }) s

/-! ### Making requests -/

/-- The request's own thread still stands in the block that made it (R263). -/
def State.inBlock (s : State) (r : Req) : Bool :=
  r.lanes.all fun l =>
    let t := s.thread (threadKey r.core l.slot)
    t.first ≤ r.id && (t.stat = .stream || t.stat = .ret)

/-- R470: a request is not sent while a range open on its die covers it and its home is known lost. -/
def State.sendBlocked (s : State) (r : Req) (home : Nat) : Bool :=
  (s.openAt r.die r.vas r.va).isSome && (s.die r.die).gone.contains home

/-- Whether the request goes through translation. -/
def ReqKind.isGlobal : ReqKind → Bool
  | .load | .store | .probe | .change _ | .rmw _ _ | .cas _ | .ctrAdd | .ctrRead | .pref | .clock => true
  | _ => false

/-- Whether the request is an access of global memory. -/
def ReqKind.isAccess : ReqKind → Bool
  | .join _ => true
  | k => k.isGlobal

/-- Where a new request stands: an HLB hit sends it, a miss leaves it to be walked (R366); requests without a global address act by
themselves. -/
def routeReq (s : State) (r : Req) : Req :=
  if !r.kind.isGlobal then { r with phase := .act }
  else
    match (s.core r.core).hlb.find? fun t => t.serves r.vas r.va with
    | some t =>
      let h := homeOf t.leaf r.va
      if s.sendBlocked r h then { r with phase := .walk } else { r with phase := .sent, leaf := t.leaf, home := h }
    | none => { r with phase := .walk }

/-- A request that must be walked, or that is sent to another die, is counted (R445). -/
def countReq (s : State) (r : Req) : State :=
  let gks := r.lanes.map fun l => s.groupKey (threadKey r.core l.slot)
  let s := if r.kind.isGlobal && r.phase = .walk then s.countEvent r.core gks 9 1 else s
  if r.phase = .sent && r.home ≠ r.die then s.countEvent r.core gks 8 1 else s

/-- The engine queues of its group, by the bits of R258, in which a request puts an entry. -/
def Req.queueMask (r : Req) : Nat :=
  match r.kind with
  | .copy e => if e.kind = .combine then 4 else 1
  | .matrix _ => 2
  | .mark _ => 8
  | .qfence m => m
  | _ => 0

/-- An entry that the request's group has issued earlier for one of the same queues is still to be put there: entries of one queue keep the order
in which the group issued them (R206, R256). -/
def State.postsBehind (s : State) (r : Req) : Bool :=
  s.reqs.any fun q => q.id < r.id && q.queueMask &&& r.queueMask ≠ 0 && q.core = r.core
    && (match q.lanes, r.lanes with
        | a :: _, b :: _ => decide (s.groupKey (threadKey q.core a.slot) = s.groupKey (threadKey r.core b.slot))
        | _, _ => false)

/-- A request that goes to another die travels there in the REQ class (R314). -/
def sentOut (s : State) (r : Req) : State :=
  if r.phase = .sent && r.home ≠ r.die then sendPacket s r.die r.home r.vas .req (.req r.id) else s

/-- A new request joins the load-store unit. -/
def pushReq (s : State) (r : Req) : State :=
  let r := routeReq s { r with id := s.nextId }
  let t := countReq s r
  sentOut { t with reqs := t.reqs ++ [r], nextId := t.nextId + 1 } r

/-- The common part of a request that one lane's word makes. -/
def Req.of (s : State) (tk : Nat) : Req :=
  let t := s.thread tk
  { die := dieOfThread tk, core := coreOfThread tk, vas := s.vasOf tk, lanes := [{ slot := slotOf tk }], off := t.off
    ord := t.ord, tx := t.tx ≠ [], pol := .dflt }

def State.req? (s : State) (id : Nat) : Option Req := s.reqs.find? fun r => r.id = id
def State.setReq (s : State) (r : Req) : State := { s with reqs := s.reqs.map fun q => if q.id = r.id then r else q }
def State.dropReq (s : State) (id : Nat) : State := { s with reqs := s.reqs.filter fun q => q.id ≠ id }

/-! ### Orders (R244, R108) -/

/-- The request has been performed. -/
def Req.performed (r : Req) : Bool := match r.phase with | .answered (.performed _) _ => true | _ => false

/-- The first thread of a request. -/
def Req.tk (r : Req) : Nat := threadKey r.core ((r.lanes.map fun l => l.slot).headD 0)

/-- A request to scratch. -/
def ReqKind.isScratch : ReqKind → Bool
  | .scrLoad | .scrStore => true
  | _ => false

/-- The cells of the bytes of a scratch request, wherever its address is an alias of another (R231, R237). -/
def State.reqCells (s : State) (r : Req) : List Nat :=
  (List.range r.size.bytes).map fun i => s.scratchAt (s.groupKey r.tk) (r.va / 2 ^ 18 * 2 ^ 18 + (r.va % 2 ^ 18 + i))

/-- The access covers a location of the other (R244, case 1): in one space, overlapping; inside a transaction, in one
line (R322). -/
def State.overlaps (s : State) (q r : Req) : Bool :=
  if q.kind.isScratch && r.kind.isScratch then (s.reqCells q).any fun c => (s.reqCells r).contains c
  else
    q.kind.isAccess && r.kind.isAccess &&
      ((q.va < r.va + r.size.bytes && r.va < q.va + q.size.bytes) || ((q.tx || r.tx) && q.va / 128 = r.va / 128))

/-- An acquire of R245 that must be performed before later accesses of its thread. -/
def Req.acquires (r : Req) : Bool :=
  match r.kind with
  | .load | .ctrRead | .scrLoad => r.order ≠ .plain
  | .store | .scrStore => r.order = .sc
  | .fence _ => true
  | .reel 1 _ _ => true
  | _ => false

/-- A release of R245, or an SC access: every earlier access of its thread must be performed before it. -/
def Req.releases (r : Req) : Bool :=
  match r.kind with
  | .store | .scrStore => r.order ≠ .plain
  | .load | .scrLoad => r.order = .sc
  | .ctrAdd => r.order ≠ .plain
  | .fence k => k ≠ 0
  | .launch => true
  | .txend => true
  | .matrix _ => true
  | .iflush => true
  | _ => false

/-- The request waits for every earlier MDRAIN of its thread (R208, R244 case 6): a fence, a release store, a word that R107 requires
to carry S = 1. -/
def Req.afterDrain (r : Req) : Bool :=
  r.late || (match r.kind with | .fence _ => true | .scrStore => r.order ≠ .plain | _ => false)

/-- The request is that of an MDRAIN or MZERO word. -/
def ReqKind.drains : ReqKind → Bool
  | .matrix e => e.op = .mdrain || e.op = .mzero
  | _ => false

/-- The request q of a thread, still to be performed, holds back the later request r of it. -/
def State.blocks (s : State) (first : Nat) (q r : Req) : Bool :=
  q.id < r.id && !q.performed &&
    (s.overlaps q r || q.acquires || r.releases || (r.kind = .fence 0 && q.returns) || (r.late && first ≤ q.id)
      || (r.kind = .iflush && q.writes) || (r.tx && q.tx) || (r.afterDrain && q.kind.drains)
      || ((r.kind = .flush || r.kind = .clean) && q.kind.isGlobal && q.va / 128 = r.va / 128))
    && !(q.commits && r.flush)

/-- A store of the core that the thread has read early and that is still to be performed holds back its releases, through which it
would pass the store on (R247), and its accesses of the location (R248). -/
def State.earlyHolds (s : State) (tk : Nat) (r : Req) : Bool :=
  (s.thread tk).early.any fun id => s.reqs.any fun q => q.id = id && id ≠ r.id && !q.performed && (s.overlaps q r || r.releases)

/-- An MDRAIN or MZERO of the thread is posted and still to be performed (R207, R208). -/
def State.drainHolds (s : State) (tk : Nat) (r : Req) : Bool :=
  r.afterDrain && (s.quad (quadOfCore (coreOfThread tk))).table.any fun e =>
    (e.op = .mdrain || e.op = .mzero) && e.core = coreOfThread tk && e.lanes.contains (slotOf tk) && e.reqId < r.id

/-- A store of the ballast that a commit point performs waits for the stores sent before it, in the order the group made them (R416), and for
an earlier load of its location of the thread that made it (R244, case 1). -/
def State.ballastHolds (s : State) (r : Req) : Bool :=
  r.flush && r.lanes.any fun l =>
    let bs := (s.groupOf (threadKey r.core l.slot)).ballast
    ((bs.takeWhile fun b => b.req ≠ r.id).any fun b => b.req ≠ 0 && !b.rel)
      || bs.any fun b => b.req = r.id && s.reqs.any fun q => q.ofThread b.thread && q.id < b.id && q.isLoad && !q.performed && s.overlaps q r

/-- Nothing holds the request back. -/
def mayGo (s : State) (r : Req) : Bool :=
  r.waitTwin = [] && r.lanes.all fun l =>
    let tk := threadKey r.core l.slot
    let t := s.thread tk
    !((r.late || r.flush) && t.cands ≠ []) && !s.drainHolds tk r && !s.ballastHolds r && !s.earlyHolds tk r
      && s.reqs.all fun q => !(q.ofThread tk && s.blocks t.first q r)

/-! ### Stores held back and effects kept -/

/-- An effect of the block for the store hash (R451) and the comparison of R83. -/
def noteStore (s : State) (tk op addr size : Nat) (data : List Byte) : State :=
  s.modThread tk fun t => { t with stores := t.stores ++ [{ off := t.off, op := op, addr := addr, size := size, data := data }] }
def noteSend (s : State) (tk op addr : Nat) (data : List Byte) : State :=
  s.modThread tk fun t => { t with sends := t.sends ++ [{ off := t.off, op := op, addr := addr, size := 0, data := data }] }

/-- Bytes that a group's ballast holds, its transactions' write sets included (R415, R329). -/
def State.ballastUsed (s : State) (gk : Nat) : Nat :=
  sumBy (fun b => b.data.length) (s.group gk).ballast
    + sumBy (fun tk => sumBy (fun l => l.writes.length) (s.thread tk).tx) (s.threadsOf gk)

/-- The ballast of a group has room for n bytes more of a thread: 1 KiB is kept for the holder of the solitary token (R329, R415). -/
def State.ballastRoom (s : State) (tk n : Nat) : Bool :=
  s.ballastUsed (s.groupKey tk) + n ≤ (if (s.die (dieOfThread tk)).token = some tk then 2 ^ 18 else 2 ^ 18 - 1024)

/-- A key that no thread has. -/
def noThread : Nat := 2 ^ 64

/-- The ballast's bytes laid over bytes that a thread's request reads at an address: the thread's own stores only when
they are earlier in its program order (R415, R244). A change of a word acts on the word's bytes, if all of them are read. -/
def ballastOver (bs : List BStore) (tk id addr : Nat) (data : List Byte) : List Byte :=
  bs.foldl (fun data b =>
    if b.thread = tk && id ≤ b.id then data
    else
      match b.upd with
      | some u =>
        if b.addr < addr || addr + data.length < b.addr + 4 then data
        else
          let o := b.addr - addr
          data.take o ++ leBytes 4 (u.apply (leValue ((data.drop o).take 4))) ++ data.drop (o + 4)
      | none =>
      data.zipIdx.map fun p =>
        if b.addr ≤ addr + p.2 && addr + p.2 < b.addr + b.data.length then (b.data[addr + p.2 - b.addr]?).getD p.1 else p.1) data

/-- Bytes that the ballast gives a request lie in an entry with an uncorrectable error (R419). -/
def ballastBad (bs : List BStore) (tk id addr n : Nat) : Bool :=
  bs.any fun b => b.bad && !(b.thread = tk && id ≤ b.id) && b.addr < addr + n && addr < b.addr + b.data.length

/-- The stores that a thread's current block has put into the ballast and no commit has sent are discarded: the block starts anew from
its head (R260). -/
def discardBallast (s : State) (tk : Nat) : State :=
  let no := (s.thread tk).blockNo
  let gk := s.groupKey tk
  let gone (b : BStore) : Bool := b.thread = tk && b.block = no && (b.req = 0 || b.rel)
  if !(s.group gk).ballast.any gone then s
  else (dropFetched s (coreOfThread tk) (s.flightKey gk)).modGroup gk fun g => { g with ballast := g.ballast.filter fun b => !gone b }

/-- A deferred refusal is reported once every access that the thread made before is answered: then the first refused store in program order is
known (R375, R410). -/
def State.refusalWaits (s : State) (tk : Nat) : Bool :=
  match (s.thread tk).deferred with
  | some d => d.rid ≠ 0 && s.reqs.any fun r => r.ofThread tk && r.kind ≠ .pref && r.id < (s.thread tk).first
  | none => false

/-- With S = 1 a thread waits for the stores of its block that the ballast holds for its twin's comparison (R55, R83). -/
def State.ballastOwed (s : State) (tk : Nat) : Bool :=
  let t := s.thread tk
  t.sEnd && (s.groupOf tk).ballast.any fun b => b.thread = tk && b.held && t.first ≤ b.id

/-- The wider of two scopes; R243 lists them from the narrowest. -/
def scopeRank : Scope → Nat
  | .wave => 0 | .group => 1 | .die => 2 | .module => 3 | .domain => 4
def widerSig (a b : Option Scope) : Option Scope :=
  match a, b with
  | some x, some y => if scopeRank x < scopeRank y then some y else some x
  | none, y => y
  | x, none => x

/-- The size of an access of n bytes. -/
def sizeOf (n : Nat) : Size := if n = 1 then .b8 else if n = 2 then .b16 else if n = 4 then .b32 else .b64

/-- The request that performs an entry of the ballast for a thread (R416), under the policy of the store (R239). -/
def flushReq (s : State) (tk : Nat) (b : BStore) : Req :=
  { Req.of s tk with
    kind := (match b.upd with | some u => .change u | none => .store)
    va := b.addr, flush := true, tx := false, sig := b.sig, size := sizeOf b.data.length, pol := b.pol
    lanes := [{ slot := slotOf tk, data := wordsOf 2 (leValue b.data) }] }

/-- The ballast's stores that pass a test become requests of the thread, in the order the group made them, each sent after the one
before (R416); the group is no longer OPEN. -/
def sendBallast (s : State) (tk : Nat) (p : BStore → Bool) : State :=
  let gk := s.groupKey tk
  let s := s.modGroup gk fun g => { g with opened := false }
  (List.range (s.group gk).ballast.length).foldl (fun s i =>
    match (s.group gk).ballast[i]? with
    | none => s
    | some b =>
      if b.req ≠ 0 || b.held || !p b then s
      else
        let id := s.nextId
        let s := pushReq s (flushReq s tk b)
        s.modGroup gk fun g => { g with ballast := setNth g.ballast i { b with req := id } }) s

/-- The stores of the whole ballast are sent: a store has found it full, or the last thread of the group exits (R416). -/
def commitBallast (s : State) (tk : Nat) : State := if (s.hdrOf tk).replay then sendBallast s tk fun _ => true else s

/-- A block of a thread may still restart from its head: it streams, or has trapped, or some access of it but the commit-point word's is
still to be performed (R260). -/
def State.unfinished (s : State) (tk no : Nat) : Bool :=
  let t := s.thread tk
  (mget s.threads tk).isSome && t.blockNo = no && t.stat ≠ .exited
    && (t.stat = .stream || (t.stat = .ret && (t.cands ≠ [] || s.reqs.any fun q => q.ofThread tk && t.first ≤ q.id && !q.commits && !q.flush && !q.performed)))

/-- What a commit-point request that nothing else holds back does first (R416): none, and it may go, when no store of its group made before
it is left in the ballast; else the state in which those stores are on their way. Stores of a block of another thread that may still restart are
waited for, so that no repeat of them is seen outside the group (R260, DEDUCED, log 119). -/
def commitFirst (s : State) (r : Req) : Option State × State :=
  let gk := s.groupKey r.tk
  if !r.commits || !(s.flight (s.flightKey gk)).hdr.replay then (none, s)
  else
    let due := (s.group gk).ballast.filter fun b => !b.held && b.id < r.id && b.req ≠ r.id
    if due = [] then (none, s.modGroup gk fun g => { g with opened := false })
    else if due.any fun b => b.req = 0 && !r.ofThread b.thread && s.unfinished b.thread b.block then (some s, s)
    else (some (if due.any fun b => b.req = 0 then sendBallast s r.tk fun b => b.id < r.id else s), s)

/-- An entry put into the ballast of a group. One of an engine stands under block 0, which is no thread's current block. -/
def addBallast (s : State) (gk : Nat) (b : BStore) : State := s.modGroup gk fun g => { g with ballast := g.ballast ++ [b] }

/-- A store put into the ballast of its thread's group. -/
def putBallast (s : State) (tk addr : Nat) (data : List Byte) (held : Bool) (sig : Option Scope) (pol : CPol := .dflt) : State :=
  { addBallast s (s.groupKey tk)
      { addr := addr, data := data, thread := tk, block := (s.thread tk).blockNo, id := s.nextId, held := held, sig := sig, pol := pol } with
    nextId := s.nextId + 1 }

/-- The lookup of a store that waits in the ballast: an HLB hit completes it, a miss is walked (R55, R366). -/
def probeStore (s : State) (r : Req) : State :=
  let p := { r with kind := .probe, order := .plain, sig := none, late := false, waitTwin := [], commits := false }
  if (routeReq s p).phase = .walk then pushReq s p else s

/-- A store of one lane joins the ballast (R415); where the ballast has no room, a replayable group's is committed and the store waits in the
load-store unit until there is (R416, R329). -/
def joinBallast (s : State) (tk : Nat) (r : Req) (data : List Byte) (held : Bool) : State :=
  let s := probeStore s r
  if s.ballastRoom tk data.length && !(s.reqs.any fun q => (match q.kind with | .join _ => true | _ => false) && q.ofThread tk) then
    putBallast s tk r.va data held r.sig r.pol
  else pushReq (commitBallast s tk) { r with kind := .join held }

/-- The low n bytes of a data operand, and the value that a load of a size yields (R266). -/
def dataBytes (ws : List Word) (n : Nat) : List Byte := leBytes n (ofWords ws)
def loadValue (z : Size) (bs : List Byte) : List Word :=
  let v := leValue bs
  match z with
  | .s8 => [BitVec.ofInt 32 (sextN v 8)]
  | .s16 => [BitVec.ofInt 32 (sextN v 16)]
  | .b64 => wordsOf 2 v
  | _ => [BitVec.ofNat 32 v]

end Sys2Proof.Machine
end

