-- ==== Sys2Proof/Machine/Perform.lean ====
section
/-! DEFINITION. Performing requests: what a load, store, atomic, counter access, prefetch, pin, flush, scratch access or
fence does once nothing holds it back (R242, R252 to R255, R265 to R280, R322, R323). -/

namespace Sys2Proof.Machine

set_option Elab.async false

/-- The agent that a thread's request stands for. -/
def Req.agent (s : State) (r : Req) : Agent :=
  match r.lanes with
  | l :: _ =>
    let tk := threadKey r.core l.slot
    { die := r.die, thread := some tk, group := some (s.groupKey tk) }
  | [] => { die := r.die }

/-- The twin of a leader thread (R81): the wave slot NWAVES places further in its group. -/
def State.twinOf (s : State) (tk : Nat) : Option Nat :=
  let g := s.groupOf tk
  let h := s.hdrOf tk
  if !h.marionette then none
  else
    (g.wslots[g.wslots.idxOf (slotOf tk / 64) + h.nwaves]?).map fun w => threadKey (coreOfThread tk) (w * 64 + laneOf tk)

/-- A twin has streamed past a word of a block. -/
def Thread.passed (t : Thread) (no off : Nat) : Bool := t.blockNo = no && (off < t.off || t.stat ≠ .stream)

/-- A memory-class result waits for its thread's next head (R68); a leader's enters its twin's load-value queue, from which
a twin that has streamed past the word takes it at once (R81). -/
def addPend (s : State) (tk : Nat) (p : Pend) : State :=
  let no := (s.thread tk).blockNo
  let s := s.modThread tk fun t => { t with pend := t.pend ++ [p] }
  match s.twinOf tk with
  | some w =>
    s.modThread w fun t =>
      if t.passed no p.off then { t with pend := t.pend ++ [p] } else { t with lvq := t.lvq ++ [(no, p)] }
  | none => s

/-! ### L1 (R239, R240) -/

/-- A line, by its key, enters a core's L1; in a full L1 of 512 lines the first STRM line, else the first line, makes room. -/
def l1Put (s : State) (ck line : Nat) (count : Option Nat) (strm : Bool) : State :=
  s.modCore ck fun c =>
    let l1 :=
      if (mget c.l1 line).isSome || c.l1.length < 512 then c.l1
      else
        match c.l1.find? fun e => e.2.2 with
        | some e => mdel c.l1 e.1
        | none => c.l1.drop 1
    { c with l1 := mput l1 line (count, strm), l1Bad := if (mget c.l1 line).isSome then c.l1Bad else c.l1Bad.filter (· ≠ line) }

/-- A beat of a load that reads a line in L1, by its key, counts a hit and lowers its read count, dropping the line at 0. -/
def l1Touch (s : State) (ck : Nat) (gks : List Nat) (line : Nat) : State :=
  match mget (s.core ck).l1 line with
  | none => s.countEvent ck gks 5 1
  | some (none, _) => s.countEvent ck gks 4 1
  | some (some n, st) =>
    let s := s.countEvent ck gks 4 1
    s.modCore ck fun c => { c with l1 := if n ≤ 1 then mdel c.l1 line else mput c.l1 line (some (n - 1), st) }

/-- The lines that each beat of a load word reads: 16 places of the bundle a beat (R64), each line once; a place gives the keys of the
lines that its thread reads, none for one that reads nothing. Beside the state, for each place the lines that its beat finds in L1. -/
def l1Beats (s : State) (ck : Nat) (gks : List Nat) (keys : List (List Nat)) : Nat → List (List Nat) × State
  | 0 => ([], s)
  | n + 1 =>
    let hits := (keys.take 16).map fun ks => ks.filter fun l => (mget (s.core ck).l1 l).isSome
    let s := (keys.take 16).flatten.eraseDups.foldl (fun s l => l1Touch s ck gks l) s
    let (rest, s) := l1Beats s ck gks (keys.drop 16) n
    (hits ++ rest, s)

/-! ### Transactional reads (R322, R323) -/

/-- Read entries of all open levels, each once. -/
def Thread.readSet (t : Thread) : List ReadEnt := t.tx.flatMap fun l => l.reads

/-- The key of a read entry, without its version. -/
def ReadEnt.same : ReadEnt → ReadEnt → Bool
  | .line a _, .line b _ => a = b
  | .reel g h _, .reel g' h' _ => g = g' && h = h'
  | _, _ => false

/-- A read entry joins the innermost level's read set. -/
def Thread.addRead (t : Thread) (e : ReadEnt) : Thread :=
  if t.readSet.any fun x => x.same e then t
  else
    match t.tx with
    | [] => t
    | l :: r => { t with tx := { l with reads := l.reads ++ [e] } :: r }

/-- The read would be a 17th entry. -/
def Thread.readFull (t : Thread) (e : ReadEnt) : Bool :=
  !(t.readSet.any fun x => x.same e) && 16 ≤ t.readSet.length

/-- A watch registered at a line's home (R322); a home with 16,384 remote watches drops its oldest with a wake (R334). -/
def addWatch (s : State) (h vas va : Nat) (die tk : Nat) : State :=
  let w : Watch := { die := die, core := coreOfThread tk, slot := slotOf tk, seq := s.nextId }
  let s := { s with nextId := s.nextId + 1 }
  let remote := (s.die h).dir.flatMap fun p => (p.2.watches.filter fun x => x.die ≠ h).map fun x => (x.seq, p.1, x)
  let s :=
    if die = h || remote.length < 16384 then s
    else
      match leastBy (fun x : Nat × Nat × Watch => x.1) remote with
      | none => s
      | some (_, k, x) =>
        let s := s.modDie h fun d => { d with dir := mmod d.dir k {} fun e => { e with watches := e.watches.filter fun y => y.seq ≠ x.seq } }
        sendPacket s h x.die (k / 2 ^ 57) .bridle (.wake { core := x.core, slot := x.slot, key := .line (k % 2 ^ 57) 0 })
  s.modDie h fun d =>
    { d with dir := mmod d.dir (lineKey vas va) {} fun e =>
        { e with watches := (e.watches.filter fun x => !(x.die = w.die && x.core = w.core && x.slot = w.slot)) ++ [w] } }

/-- The transaction's buffered bytes laid over bytes read (R322). -/
def txOver (t : Thread) (va : Nat) (data : List Byte) : List Byte :=
  data.zipIdx.map fun p => ((t.tx.findSome? fun l => mget l.writes (va + p.2)).getD p.1)

/-! ### Silent widening (R255) -/

/-- A record's scope excludes an acquirer (R255). Beyond R255's words, an acquirer of narrow scope on another die counts
as excluded, so that R246's first case holds whatever the two scopes are (log 12). -/
def excludes (rec acq : Nat) (sc acqScope : Scope) : Bool :=
  rec ≠ acq &&
    (match sc with
     | .wave | .group | .die => true
     | .module => moduleOf rec ≠ moduleOf acq || !wideScope acqScope
     | .domain => !wideScope acqScope)

/-- The dies that must publish before a home answers an acquire, and whether it answers WIDEN. -/
def widenCheck (s : State) (r : Req) : List Nat × Bool :=
  let e := mgetD (s.die r.home).dir (lineKey r.vas r.va) {}
  let recs := e.held ++ e.last.toList
  let out := recs.filter fun p => excludes p.1 r.die p.2 (if r.tx then .wave else r.scope)
  let live (d : Nat) : Bool := match (s.die d).life with | .lost | .out => false | _ => true
  ((out.filter fun p => !wideScope p.2 && live p.1).map (·.1) |>.eraseDups, !out.isEmpty)

/-- What a die has published is recorded at the line's home as released at DOMAIN scope: nothing of it is held back any more. -/
def notePublished (s : State) (die : Nat) (r : Req) : State :=
  let wide (p : Nat × Scope) : Nat × Scope := if p.1 = die && !wideScope p.2 then (die, .domain) else p
  s.modDie r.home fun d =>
    { d with dir := mmod d.dir (lineKey r.vas r.va) {} fun e => { e with held := (e.held.map wide).eraseDups, last := e.last.map wide } }

/-- A die writes back every dirty non-home line that a release of it covers (R255); whether that is done. -/
def publishDie (s : State) (die : Nat) : State × Bool :=
  writeBackAll s die (((s.die die).l2.filter fun p => p.2.dirty ≠ 0 && p.2.covered).map (·.1))

/-- The request is an instruction acquire or a transactional read (R254, R255). -/
def Req.widens (r : Req) : Bool :=
  match r.kind with
  | .load | .ctrRead => r.order ≠ .plain || r.tx
  | _ => false

/-! ### Loads -/

/-- Whether a load is served at the line's home: an acquire, a counter read, a transactional read, policy NA. -/
def Req.atHome (r : Req) : Bool := r.order ≠ .plain || r.tx || r.pol = .na || r.kind = .ctrRead

/-- L1 after a plain load (R239), and an LDC's read count (R240). A load that found the line in L1 as it issued brings nothing new into it: a
line whose count the load has taken to 0 stays dropped. -/
def fillL1 (s : State) (r : Req) : State :=
  if r.atHome || r.pol = .nl1 || (r.l1 && r.reads = 0) then s
  else
    let k := lineKey r.vas r.va
    l1Put s r.core k (if r.reads = 0 then ((mgetD (s.core r.core).l1 k (none, false)).1) else some r.reads) (r.pol = .strm)

/-- A load performed: read at the home or in the die's L2, ballast and write set laid over it, and for a transaction the
read set and the watch. An acquire of MODULE or DOMAIN scope drops the die's non-home lines. -/
def performLoad (s : State) (r : Req) : Served × State :=
  let tk := r.tk
  let t := s.thread tk
  let n := r.size.bytes
  if r.tx && t.readFull (.line (lineOf r.va) 0) then (.done (.trap .txCap 1), s)
  else
    let (ok, s) :=
      if r.order ≠ .plain && wideScope r.scope && !r.tx then (let (s, ok) := dropNonHome s r.die; (ok, s)) else (true, s)
    if !ok then (.hold, s)
    else
      let acc : Acc := if r.kind = .ctrRead then .ctrRead else .read
      let k := lineKey r.vas r.va
      let hit : Bool := (mget (s.die r.die).l2 k).isSome || (s.die r.die).l2home.contains k
      let own : Bool := ((s.hdrOf tk).replay || (s.hdrOf tk).marionette) && (s.groupOf tk).ballast ≠ []
      let (va, m) := if own then (r.va / 4 * 4, max n 4) else (r.va, n)
      match if r.atHome then loadAtHome s r.die r.home r.vas va m acc (r.agent s) else loadPlain s r.die r.home r.vas va m (r.agent s) with
      | (.done (.performed bs), s) =>
        let s := if r.atHome then s else s.countEvent r.core (r.lanes.map fun l => s.groupKey (threadKey r.core l.slot)) (if hit then 6 else 7) 1
        let bs := if own then ((ballastOver (s.groupOf tk).ballast tk r.id va bs).drop (r.va - va)).take n else bs
        if (own && ballastBad (s.groupOf tk).ballast tk r.id r.va n) || (r.l1 && !r.atHome && (s.core r.core).l1Bad.contains k) then (.done (.data 1 r.die), s)
        else if r.tx then
          let s := addWatch s r.home r.vas r.va r.die tk
          let ver := (mgetD (s.die r.home).dir (lineKey r.vas r.va) {}).ver
          let s := s.modThread tk fun t => t.addRead (.line (lineOf r.va) ver)
          (.done (.performed (txOver t r.va bs)), s)
        else (.done (.performed bs), fillL1 s r)
      | x => x

/-! ### Stores -/

/-- The release scope of a store or counter add: its own, or that of the fence whose signal it is (R245). -/
def Req.relScope (r : Req) : Option Scope := if r.order ≠ .plain then some r.scope else r.sig

/-- A held notice for a signal that stays in the die's L2 (R253). -/
def signalHeld (s : State) (die h vas va : Nat) (sc : Scope) : State :=
  let s := s.modDie die fun d =>
    { d with l2 := match mget d.l2 (lineKey vas va) with | some e => mput d.l2 (lineKey vas va) { e with covered := true } | none => d.l2 }
  sendPacket s die h vas .bridle (.held { vas := vas, line := lineOf va, die := die, scope := sc })

/-- Bytes buffered in the level in which the store was made: the innermost that had been opened by then (R322). -/
def Thread.txWrite (t : Thread) (id va : Nat) (data : List Byte) : Thread :=
  { t with
    tx := (t.tx.takeWhile fun l => id < l.first) ++
      match t.tx.dropWhile fun l => id < l.first with
      | [] => []
      | l :: rest => { l with writes := data.zipIdx.foldl (fun w p => mput w (va + p.2) p.1) l.writes } :: rest }

/-- A transactional store (R323): the line must be homed on the own die; the home checks it without performing it; then
it is buffered, if the write set and the ballast have room. -/
def txStore (s : State) (r : Req) (data : List Byte) : Served × State :=
  let tk := r.tk
  let t := s.thread tk
  if r.home ≠ r.die then (.done (.trap .txRemote 0), s)
  else
    match homeCheck s r.home r.vas r.va .write with
    | (.hold, s) => (.hold, s)
    | (.no a, s) => (.done a, s)
    | (.ok _ _, s) =>
      let ls := t.writeLines
      if !ls.contains (lineOf r.va) && 8 ≤ ls.length then (.done (.trap .txCap 2), s)
      else if !s.ballastRoom tk data.length then
        (.done (.performed []), s.modThread tk fun t => { t with doomed := true, doomWhy := 4 })
      else
        (.done (.performed []), s.modThread tk fun t => t.txWrite r.id r.va data)

/-- A ballast store that is performed leaves the ballast; one that is refused with a fault stays, to be sent at the next
commit point (R416). -/
def settleBallast (s : State) (r : Req) (a : Answer) : State :=
  let gk := s.groupKey r.tk
  if (s.group gk).ballast.any fun b => b.req = r.id then
    s.modGroup gk fun g =>
      match a with
      | .performed _ => { g with ballast := g.ballast.filter fun b => b.req ≠ r.id }
      | .moved | .resetting => g
      | _ =>
        { g with ballast := (g.ballast.filter fun b => !(b.req = r.id && b.rel)).map fun b => if b.req = r.id then { b with req := 0 } else b }
  else s

/-- Any copy of a line leaves a die's L1s and L2: of a home line (R239, policy NA). -/
def leaveDie (s : State) (die key : Nat) : State :=
  dropL1 (s.modDie die fun d => { d with l2home := d.l2home.filter (· ≠ key) }) die fun a => a = key

/-- A store performed, under its policy (R239). A release of WAVE or GROUP scope in a replayable group, which is no commit point, joins the
ballast (R415, R416). A release of MODULE or DOMAIN scope writes back the die's dirty non-home lines first and is
performed at its home; a narrower one sends held notices (R253). -/
def performStore (s : State) (r : Req) : Served × State :=
  let data := dataBytes ((r.lanes.map fun l => l.data).headD []) r.size.bytes
  let ag := r.agent s
  let drop (x : Served × State) : Served × State := match x with | (.done a, s) => (.done a, settleBallast s r a) | x => x
  if r.tx then txStore s r data
  else if (s.groupOf r.tk).ballast.any fun b => b.req = r.id && b.bad then drop (.done (.data 1 r.die), s)
  else if r.order ≠ .plain && !wideScope r.scope && r.scope ≠ .die && (s.hdrOf r.tk).replay then
    if s.ballastRoom r.tk data.length then
      (.done (.performed []), putBallast (settleBallast s r (.performed [])) r.tk r.va data false (some r.scope) r.pol)
    else if (s.groupOf r.tk).ballast.any fun b => b.req = 0 && !b.held then (.hold, commitBallast s r.tk)
    else (.hold, s)
  else
    let leave (x : Served × State) : Served × State :=
      match x with
      | (.done (.performed bs), s) => (.done (.performed bs), if r.pol = .na then leaveDie s r.die (lineKey r.vas r.va) else s)
      | x => x
    let keep (x : Served × State) : Served × State :=
      match x with
      | (.done (.performed bs), s) => (.done (.performed bs), if r.home = r.die && r.pol ≠ .na then l2Home s r.die (lineKey r.vas r.va) else s)
      | x => x
    let s := if r.pol = .nl1 then s.modCore r.core fun c => { c with l1 := mdel c.l1 (lineKey r.vas r.va) } else s
    match r.relScope with
    | none =>
      if r.pol = .na then leave (drop (storeAtHome s r.die r.home r.vas r.va data ag none))
      else drop (storePlain s r.die r.home r.vas r.va data ag)
    | some sc =>
      if wideScope sc then
        match releaseWide s r.die sc with
        | (s, false) => (.hold, s)
        | (s, true) => keep (leave (drop (storeAtHome s r.die r.home r.vas r.va data ag (some sc))))
      else
        let s := releaseNarrow s r.die sc
        if r.home = r.die || r.pol = .na || (s.watcher r.vas r.va).isSome then
          keep (leave (drop (storeAtHome s r.die r.home r.vas r.va data ag (some sc))))
        else
          match storePlain s r.die r.home r.vas r.va data ag with
          | (.done (.performed bs), s) => drop (.done (.performed bs), signalHeld s r.die r.home r.vas r.va sc)
          | x => x

/-! ### Atomics and counters (R271 to R274, R279) -/

/-- The new value of one operation (R272), on a memory value of 32 or 64 bits. -/
def atomNew (op : AtomOp) (m a : Nat) : Nat :=
  let mw := BitVec.ofNat 32 m
  let aw := BitVec.ofNat 32 a
  match op with
  | .add => (mw + aw).toNat
  | .min => (fImin mw aw).toNat
  | .max => (fImax mw aw).toNat
  | .umin => min m a
  | .umax => max m a
  | .and => (mw &&& aw).toNat
  | .or => (mw ||| aw).toNat
  | .xor => (mw ^^^ aw).toNat
  | .exch => a
  | .fadd => fp32.add {} m a
  | .add64 => (m + a) % 2 ^ 64
  | .exch64 => a

/-- The lanes' operations in ascending lane order on n bytes: the last value, and the old values in lane order. -/
def laneFold (n : Nat) (f : Nat → ReqLane → Nat) (lanes : List ReqLane) (old : List Byte) : List Byte × List Byte :=
  let r := lanes.foldl (fun (p : Nat × List Byte) l => (f p.1 l, p.2 ++ leBytes n p.1)) (leValue old, [])
  (leBytes n r.1, r.2)

/-- An atomic, CAS or counter add performed at its home for its lanes. -/
def performUpdate (s : State) (r : Req) (acc : Acc) (f : Nat → ReqLane → Nat) : Served × State :=
  let n := r.size.bytes
  let go (s : State) (sig : Option Scope) := updateAtHome s r.die r.home r.vas r.va n acc (r.agent s) sig (laneFold n f r.lanes)
  match r.relScope with
  | none => go s none
  | some sc =>
    if wideScope sc then
      match releaseWide s r.die sc with
      | (s, false) => (.hold, s)
      | (s, true) => go s (some sc)
    else go (releaseNarrow s r.die sc) (some sc)

/-! ### Pins, prefetches, flushes (R241, R270) -/

/-- CLOCK's result and the pins after it (R241). -/
def clockPin (s : State) (die flight vas va : Nat) : Nat × State :=
  let k := lineKey vas va
  let d := s.die die
  let mine := mgetD d.pins k []
  let count := (d.pins.filter fun p => p.2.contains flight).length
  let ways := (d.pins.filter fun p => p.2 ≠ [] && setOf p.1 = setOf k).length
  if mine.contains flight then (0, s)
  else if 32768 ≤ count then (1, s)
  else if mine = [] && 12 ≤ ways then (2, s)
  else (0, s.modDie die fun d => { d with pins := mput d.pins k (flight :: mine) })

/-- A load's checks and, for a non-home line, its fill of the L2. -/
def touchLine (s : State) (r : Req) : Served × State :=
  match loadPlain s r.die r.home r.vas (lineOf r.va) 1 (r.agent s) with
  | (.done (.performed _), s) => (.done (.performed []), s)
  | x => x

def performClock (s : State) (r : Req) : Served × State :=
  match touchLine s r with
  | (.done (.performed _), s) =>
    let (v, s) := clockPin s r.die (s.flightKey (s.groupKey r.tk)) r.vas r.va
    (.done (.performed (leBytes 4 v)), s)
  | x => x

def performPref (s : State) (r : Req) : Served × State :=
  match touchLine s r with
  | (.done (.performed bs), s) =>
    let k := lineKey r.vas r.va
    (.done (.performed bs), if r.pol = .nl1 then s else l1Put s r.core k ((mgetD (s.core r.core).l1 k (none, false)).1) false)
  | x => x

/-- CFLUSH and CCLEAN: whether they are accepted, and the state. -/
def performFlush (s : State) (r : Req) (keep : Bool) : Bool × State :=
  let k := lineKey r.vas r.va
  match mget (s.die r.die).l2 k with
  | some _ =>
    let (s, ok) := if keep then writeBack s r.die k else dropLine s r.die k
    (ok, s)
  | none => (true, if keep then s else dropL1 s r.die fun a => a = k)

/-! ### Scratch -/

/-- The bytes of a scratch load, with a marionette group's held stores laid over them (R83). -/
def scratchBytes (s : State) (r : Req) : List Byte :=
  let gk := s.groupKey r.tk
  let bs := s.readScratch gk r.va r.size.bytes
  let held := (s.group gk).ballast
  if held = [] then bs
  else
    bs.zipIdx.map fun p =>
      let c := s.scratchAt gk (r.va / 2 ^ 18 * 2 ^ 18 + (r.va % 2 ^ 18 + p.2))
      (ballastOver held r.tk r.id c [p.1]).headD p.1

def performScrLoad (s : State) (r : Req) : Served × State :=
  (.done (if s.scratchBad (s.groupKey r.tk) r.va r.size.bytes then .data 1 r.die else .performed (scratchBytes s r)), s)
def performScrStore (s : State) (r : Req) : Served × State :=
  (.done (.performed []), s.writeScratch (s.groupKey r.tk) r.va (dataBytes ((r.lanes.map fun l => l.data).headD []) r.size.bytes))

/-! ### Fences (R276) -/

/-- A fence performed: whether it is accepted, and the state. The next store of the thread is the signal of every release fence
before it, at the widest of their scopes (R245). Kinds 0 ACQ, 1 REL, 2 ACQREL, 3 SC. -/
def performFence (s : State) (r : Req) (k : Nat) : Bool × State :=
  let rel : State × Bool :=
    if k = 0 then (s, true)
    else if wideScope r.scope then releaseWide s r.die r.scope
    else (releaseNarrow s r.die r.scope, true)
  match rel with
  | (s, false) => (false, s)
  | (s, true) =>
    let acq : State × Bool := if k ≠ 1 && wideScope r.scope then dropNonHome s r.die else (s, true)
    match acq with
    | (s, false) => (false, s)
    | (s, true) =>
      (true, if k = 0 then s else s.modThread r.tk fun t => { t with relSig := widerSig t.relSig (some r.scope) })

/-! ### Delivery -/

/-- A performed answer settles the request: each lane's result waits for the thread's next head (R68), and what the
store hash folds of it is noted (R451). -/
def deliver (s : State) (r : Req) (bs : List Byte) : State :=
  let n := r.size.bytes
  let s := s.dropReq r.id
  if !r.returns then s
  else
    r.lanes.zipIdx.foldl (fun s p =>
      let tk := threadKey r.core p.1.slot
      let own :=
        match r.kind with
        | .rmw _ _ | .cas _ => (bs.drop (n * p.2)).take n
        | _ => bs
      let vals :=
        match r.kind with
        | .load | .scrLoad => loadValue r.size own
        | .rmw _ _ | .cas _ => wordsOf (n / 4) (leValue own)
        | .ctrRead => wordsOf 2 (leValue own)
        | _ => wordsOf 1 (leValue own)
      let s :=
        match r.kind with
        | .rmw _ _ | .cas _ =>
          s.modThread tk fun t => { t with stores := t.stores ++ [{ off := r.off, addr := r.va, size := n, data := own }] }
        | _ => s
      if (s.thread tk).first ≤ r.id then addPend s tk { off := r.off, dst := r.dst, vals := vals } else s) s

/-! ### A store of the core read early (R250) -/

/-- The newest store of a list that writes a byte of the load's bytes holds all of them: the load's bytes. -/
def coveredBy (q r : Req) : Option (List Byte) :=
  let data := dataBytes ((q.lanes.map fun l => l.data).headD []) q.size.bytes
  if q.va ≤ r.va && r.va + r.size.bytes ≤ q.va + q.size.bytes then some ((data.drop (r.va - q.va)).take r.size.bytes) else none

/-- A plain load takes its value from a plain store of its own core, to the same partition, that is still on its way, before another
core can read it: nothing but its own thread's earlier stores of the location holds the load back, the store is the newest of them or
there is none, and no other store of the location that the thread has read early is still on its way. The thread notes the store, so that its later
accesses keep the order (R247, R248). -/
def forwardLoad (s : State) (load store : Nat) : State :=
  match s.req? load, s.req? store with
  | some r, some q =>
    let tk := r.tk
    let plain (x : Req) : Bool := x.order = .plain && !x.tx && x.pol ≠ .na && x.sig = none && x.waitTwin = []
    let earlier := s.reqs.filter fun x => x.ofThread tk && x.id < r.id && !x.performed
    let stores := earlier.filter fun x => x.kind = .store && s.overlaps x r
    let rest : Bool := earlier.all fun x => (x.kind = .store && s.overlaps x r) || !s.blocks (s.thread tk).first x r
    let newest : Bool := if q.ofThread tk then stores.all fun x => x.id ≤ q.id else stores.isEmpty
    let kept : Bool := (s.thread tk).early.all fun id => id = store || !(s.reqs.any fun x => x.id = id && !x.performed && s.overlaps x r)
    let unanswered (x : Req) : Bool := match x.phase with | .answered _ _ => false | .back _ _ => false | _ => true
    if r.kind = .load && q.kind = .store && r.core = q.core && r.vas = q.vas && q.id < r.id && plain r && plain q && unanswered r
        && unanswered q && rest && newest && kept && !(s.hdrOf tk).replay && !(s.hdrOf tk).marionette && r.waitTwin = [] then
      match coveredBy q r with
      | some bs => 
        deliver (s.modThread tk fun t => { t with early := store :: t.early.filter fun id => (s.req? id).isSome }) r bs
      | none => s
    else s
  | _, _ => s

end Sys2Proof.Machine
end

