-- ==== Sys2Proof/Machine/GlobalMem.lean ====
section
/-! DEFINITION. Loads and stores of global memory and of scratch, and the cache words (R236, R241, R262 to R270). Each
lane's checks come first (R263); then its accesses are handed to the load-store unit. -/

namespace Sys2Proof.Machine

set_option Elab.async false

/-! ### Handing accesses to the load-store unit -/

/-- A destination w registers further on: the halves of b128 and the words of a run. -/
def skipDst (w : Nat) : Dst → Dst
  | .reg n => .reg (n + w)
  | .trans => .trans

/-- The single-copy atomic accesses of one access (R242): b128 is two halves. -/
def pieces (z : Size) : List (Nat × Size) :=
  match z with
  | .b128 => [(0, .b64), (8, .b64)]
  | z => [(0, z)]

/-- A twin takes the results of its leader's word at its own place from its load-value queue (R81). -/
def twinTake (s : State) (tk : Nat) : State :=
  s.modThread tk fun t =>
    let mine (e : Nat × Pend) : Bool := e.1 = t.blockNo && e.2.off = t.off
    { t with pend := t.pend ++ (t.lvq.filter mine).map (·.2), lvq := t.lvq.filter fun e => !mine e }

/-- A request that returns a value: a twin issues none (R81). -/
def submitLoad (s : State) (tk : Nat) (r : Req) : State := if (s.thread tk).twin then twinTake s tk else pushReq s r

/-- Taking over the signal of an earlier release fence (R245). -/
def takeSignal (s : State) (tk : Nat) : Option Scope × State :=
  ((s.thread tk).relSig, s.modThread tk fun t => { t with relSig := none })

/-- A store by one lane (R245, R415, R83): noted for the store hash; a twin issues none; a marionette leader's waits in
the ballast for its twin, a replayable group's for a commit point, which a full ballast is. -/
def submitStore (s : State) (tk : Nat) (r : Req) (data : List Byte) : State :=
  let s := noteStore s tk 0 r.va data.length data
  let h := s.hdrOf tk
  if (s.thread tk).twin then s
  else
    let r := { r with kind := .store, lanes := [{ slot := slotOf tk, data := wordsOf 2 (leValue data) }] }
    if r.tx then pushReq s r
    else if r.order ≠ .plain then pushReq s { r with commits := 2 ≤ scopeRank r.scope, waitTwin := if h.marionette then [slotOf tk] else [] }
    else if h.marionette || h.replay then joinBallast s tk r data h.marionette
    else pushReq s r

/-! ### LD, LDM, LDC (R266, R268, R269) -/

/-- The checks of a run of accesses at an address (R263): each access's bits [63:57], then the alignment. -/
def runTrap (die ea align : Nat) (wr : Bool) (offs : List Nat) : Option TrapInfo :=
  match offs.find? fun o => 2 ^ 57 ≤ ea + o with
  | some o => globalTrap die (ea + o) 1 wr
  | none => globalTrap die ea align wr

/-- The pieces of a lane's load: checks, then a request for each; `hits` gives, by thread, the lines that its beat found in L1. -/
def loadLane (b : Opnd) (align : Nat) (r : Req) (ps : List (Nat × Size × Dst)) (hits : List (Nat × List Nat)) (s : State) (tk : Nat) : State :=
  let t := s.thread tk
  let ea := t.globalEa b
  match runTrap (dieOfThread tk) ea align false (ps.map (·.1)) with
  | some ti => issueTrap s tk false ti
  | none =>
    ps.foldl (fun s p =>
      submitLoad s tk
        { Req.of s tk with
          kind := .load, va := ea + p.1, size := p.2.1, dst := p.2.2, order := r.order, scope := r.scope
          pol := t.hPol.getD r.pol, reads := r.reads
          l1 := hits.any fun h => h.1 = tk && h.2.contains (lineKey (s.vasOf tk) (ea + p.1)) }) s

/-- The places of a bundle in order, each with its thread's key: a beat carries 16 of them, threads that have trapped or are switched
off keep theirs (R64, R66). -/
def State.places (s : State) (k : Nat) : List Nat := (s.bundle k).lanes.map (threadKey (k / 2) ·)

/-- The keys of the lines that a load word's thread reads through its L1: none for a twin, for a thread that the word does not act for,
and for a load that is served at the home. -/
def laneLines (b : Opnd) (align : Nat) (r : Req) (ps : List (Nat × Size × Dst)) (on : List Nat) (s : State) (tk : Nat) : List Nat :=
  let t := s.thread tk
  if !on.contains tk || t.twin || r.order ≠ .plain || t.hPol.getD r.pol = .na || t.tx ≠ []
      || (runTrap (dieOfThread tk) (t.globalEa b) align false (ps.map (·.1))).isSome then []
  else ps.map fun p => lineKey (s.vasOf tk) (t.globalEa b + p.1)

/-- A load word: its beats meet the L1 (R239, R240), then each lane's load is made. -/
def loadWord (b : Opnd) (align : Nat) (r : Req) (ps : List (Nat × Size × Dst)) (k : Nat) (s : State) : State :=
  let at' := s.places k
  let on := s.active k
  let (hits, s) := l1Beats s (k / 2) (s.bundleGroups k) (at'.map (laneLines b align r ps on s)) (ceilDiv at'.length 16)
  eachOn (loadLane b align r ps (at'.zip hits)) k s

/-- LD (R266). -/
def execLd (sb : Bool) (d : Dst) (b : Opnd) (c : Scope) (z : Size) (o : MemOrder) (pol : CPol) (st : State) :
    Host.Outcome State Fault Refusal :=
  runWord (.ld sb d b c z o pol)
    (loadWord b z.bytes { order := o, scope := c, pol := pol }
      ((pieces z).map fun p => (p.1, p.2, skipDst (p.1 / 4) d))) st

/-- LDC (R269): a plain load that sets its line's read count. -/
def execLdc (sb : Bool) (d : Dst) (b : Opnd) (r : Nat) (z : Size) (st : State) : Host.Outcome State Fault Refusal :=
  runWord (.ldc sb d b r z)
    (loadWord b z.bytes { pol := .dflt, reads := r } ((pieces z).map fun p => (p.1, p.2, skipDst (p.1 / 4) d))) st

/-- The words of a run (R268). -/
def runPieces (d : Dst) (n : Nat) : List (Nat × Size × Dst) := (List.range n).map fun i => (4 * i, .b32, skipDst i d)

/-! ### Scratch (R231, R236, R267, R268) -/

/-- The cells of the 4-byte words that a lane's access of n bytes touches. -/
def scratchWords (s : State) (tk ea n : Nat) : List Nat :=
  (List.range (ceilDiv (ea % 4 + n) 4)).map fun i =>
    s.scratchAt (s.groupKey tk) (ea / 2 ^ 18 * 2 ^ 18 + (ea % 2 ^ 18 / 4 * 4 + 4 * i))

/-- The cycles that bank conflicts add to the beats of an access, 16 places a beat (R236); a place gives its thread's cells. -/
def conflictCycles (lanes : List (List Nat)) : Nat → Nat
  | 0 => 0
  | n + 1 =>
    let ws := (lanes.take 16).flatten.eraseDups
    let bank (c : Nat) : Nat := (c - 2 ^ 60) / 2 ^ 18 * 32 + c / 4 % 32
    let most := (ws.map fun c => (ws.filter fun x => bank x = bank c).length).foldl max 1
    most - 1 + conflictCycles (lanes.drop 16) n

/-- A scratch access is made at once if nothing holds it back; else, or when it meets an uncorrectable error, it waits in the load-store
unit, and so does a commit point for the stores of its group that the ballast holds (R416). -/
def submitScratch (s : State) (r : Req) : State :=
  let r := { r with id := s.nextId, phase := .act }
  let s := { s with nextId := s.nextId + 1 }
  if mayGo s r && !(r.kind = .scrLoad && s.scratchBad (s.groupKey r.tk) r.va r.size.bytes) then
    match r.kind with
    | .scrStore =>
      match commitFirst s r with
      | (some s, _) => { s with reqs := s.reqs ++ [r] }
      | (none, s) => (performScrStore s r).2
    | _ => deliver s r (scratchBytes s r)
  else { s with reqs := s.reqs ++ [r] }

/-- A load of one lane from scratch. -/
def scrLoadLane (ea : Nat) (r : Req) (ps : List (Nat × Size × Dst)) (s : State) (tk : Nat) : State :=
  if (s.thread tk).twin then twinTake s tk
  else
    ps.foldl (fun s p =>
      submitScratch s
        { Req.of s tk with kind := .scrLoad, va := ea + p.1, size := p.2.1, dst := p.2.2, order := r.order, scope := r.scope }) s

/-- A store of one lane to scratch. A release or SC store is sent once every earlier access of its thread has been accepted (R267), a
marionette leader's once its twin has produced the same, and so is a plain one that is the signal of a fence, which acts at DIE scope too (R232,
R416); a leader's other plain store waits in the ballast for its twin, word by word (R83). -/
def scrStoreLane (ea : Nat) (r : Req) (data : List Byte) (s : State) (tk : Nat) : State :=
  let s := noteStore s tk 1 ea data.length data
  if (s.thread tk).twin then s
  else
    let (sig, s) := takeSignal s tk
    if r.order = .plain && sig.isNone && (s.hdrOf tk).marionette then
      (List.range (ceilDiv data.length 4)).foldl (fun s i =>
        putBallast s tk (s.scratchAt (s.groupKey tk) (ea / 2 ^ 18 * 2 ^ 18 + (ea % 2 ^ 18 + 4 * i))) ((data.drop (4 * i)).take 4) true none) s
    else
      submitScratch s
        { Req.of s tk with
          kind := .scrStore, va := ea, size := r.size, order := r.order, scope := r.scope, late := r.order ≠ .plain || sig.isSome, sig := sig
          commits := r.order ≠ .plain || sig.isSome
          waitTwin := if (s.hdrOf tk).marionette then [slotOf tk] else []
          lanes := [{ slot := slotOf tk, data := wordsOf 4 (leValue data) }] }

/-- A scratch word: the cycles of its bank conflicts pass (R236); each lane's checks, then its accesses. -/
def scratchWord (b : Opnd) (n align : Nat) (f : Nat → State → Nat → State) (k : Nat) (s : State) : State :=
  let ck := k / 2
  let ok (tk : Nat) : Bool := (scratchTrap s (s.groupKey tk) ((s.thread tk).scratchEa b) n align).isNone
  let on := (s.active k).filter fun tk => !(s.thread tk).twin && ok tk
  let at' := s.places k
  let cells (tk : Nat) : List Nat := if on.contains tk then scratchWords s tk ((s.thread tk).scratchEa b) n else []
  let extra := conflictCycles (at'.map cells) (ceilDiv at'.length 16)
  let gs := s.bundleGroups k
  let s := s.elapse ck extra gs (some 11)
  let s := s.countEvent ck gs 10 extra
  eachOn (fun s tk =>
    let ea := (s.thread tk).scratchEa b
    match scratchTrap s (s.groupKey tk) ea n align with
    | some ti => trapThread s tk ti
    | none => f ea s tk) k s

/-- LDS (R267). -/
def execLds (sb : Bool) (d : Dst) (b : Opnd) (c : Scope) (z : Size) (o : MemOrder) (st : State) :
    Host.Outcome State Fault Refusal :=
  runWord (.lds sb d b c z o)
    (scratchWord b z.bytes z.bytes fun ea =>
      scrLoadLane ea { order := o, scope := c } ((pieces z).map fun p => (p.1, p.2, skipDst (p.1 / 4) d))) st

/-- STS (R267): a release or SC store acts at DIE scope (R232), so in a replayable group it is a commit point (R416). -/
def execSts (sb : Bool) (d b : Opnd) (c : Scope) (z : Size) (o : MemOrder) (st : State) : Host.Outcome State Fault Refusal :=
  runWord (.sts sb d b c z o)
    (scratchWord b z.bytes z.bytes fun ea s tk =>
      scrStoreLane ea { order := o, scope := c, size := z } (dataBytes ((s.thread tk).srcWords d z.width) z.bytes) s tk) st

/-- LDM (R268). -/
def execLdm (sb : Bool) (d : Dst) (b : Opnd) (n : Nat) (scr : Bool) (pol : CPol) (st : State) :
    Host.Outcome State Fault Refusal :=
  runWord (.ldm sb d b n scr pol)
    (if scr then scratchWord b (4 * n) 4 fun ea => scrLoadLane ea {} (runPieces d n)
     else loadWord b 4 { pol := pol } (runPieces d n)) st

/-! ### ST, STM -/

/-- One lane's global stores: each piece its offset, size and bytes; checks first. An earlier release fence's signal is the word's first
access; both halves of b128 are one store (R245). -/
def storeLane (b : Opnd) (align : Nat) (r : Req) (ps : Thread → List (Nat × Size × List Byte)) (s : State) (tk : Nat) : State :=
  let t := s.thread tk
  let ea := t.globalEa b
  match runTrap (dieOfThread tk) ea align true ((ps t).map (·.1)) with
  | some ti => issueTrap s tk true ti
  | none =>
    let (sig, s) := if t.twin then (none, s) else takeSignal s tk
    (ps t).foldl (fun s p =>
      submitStore s tk
        { Req.of s tk with
          va := ea + p.1, size := p.2.1, order := r.order, scope := r.scope, pol := t.hPol.getD r.pol, late := r.late
          sig := if p.1 = 0 || r.size = .b128 then sig else none
          wide := if r.size = .b128 then some (ea, leValue (((ps t).headD (0, .b64, [])).2.2)) else none } p.2.2) s

/-- ST (R266). -/
def execSt (sb : Bool) (d b : Opnd) (c : Scope) (z : Size) (o : MemOrder) (pol : CPol) (st : State) :
    Host.Outcome State Fault Refusal :=
  runWord (.st sb d b c z o pol)
    (eachOn
      (storeLane b z.bytes { order := o, scope := c, size := z, pol := pol, late := o ≠ .plain }
        (fun t =>
          let bytes := dataBytes (t.srcWords d z.width) z.bytes
          (pieces z).map fun p => (p.1, p.2, (bytes.drop p.1).take p.2.bytes)))) st

/-- STM (R268). -/
def execStm (sb : Bool) (d b : Opnd) (n : Nat) (scr : Bool) (pol : CPol) (st : State) : Host.Outcome State Fault Refusal :=
  runWord (.stm sb d b n scr pol)
    (if scr then
      scratchWord b (4 * n) 4 fun ea s tk =>
        ((s.thread tk).runWords d n).zipIdx.foldl (fun s p => scrStoreLane (ea + 4 * p.2) { size := .b32 } (dataBytes [p.1] 4) s tk) s
     else
      eachOn (storeLane b 4 { pol := pol } fun t =>
        (t.runWords d n).zipIdx.map fun p => (4 * p.2, .b32, dataBytes [p.1] 4))) st

/-! ### Cache words (R241, R270) -/

/-- A cache word's request for one lane; address bits [63:57] trap (R233). -/
def cacheLane (a : Opnd) (r : Req) (s : State) (tk : Nat) : State :=
  let va := ((s.thread tk).pair a).toNat
  match globalTrap (dieOfThread tk) va 1 false with
  | some ti => issueTrap s tk false ti
  | none => submitLoad s tk { Req.of s tk with kind := r.kind, va := va, dst := r.dst, size := .b32 }

/-- PREF: a fault drops the prefetch silently, a bad address too. -/
def execPref (sb : Bool) (a : Opnd) (st : State) : Host.Outcome State Fault Refusal :=
  runWord (.pref sb a)
    (eachOn fun s tk =>
      let t := s.thread tk
      let va := (t.pair a).toNat
      if t.twin || 2 ^ 57 ≤ va then s
      else pushReq s { Req.of s tk with kind := .pref, va := va, size := .b8, pol := t.hPol.getD .dflt }) st

/-- CLOCK (R241). -/
def execClock (sb : Bool) (d : Dst) (a : Opnd) (st : State) : Host.Outcome State Fault Refusal :=
  runWord (.clock sb d a) (eachOn (cacheLane a { kind := .clock, dst := d })) st

/-- A flight's pin on a line is removed. -/
def dropPin (s : State) (die flight key : Nat) : State :=
  s.modDie die fun d =>
    let left := (mgetD d.pins key []).filter fun f => f ≠ flight
    { d with pins := if left = [] then mdel d.pins key else mput d.pins key left }

/-- CUNLOCK: never faults. -/
def execCunlock (sb : Bool) (a : Opnd) (st : State) : Host.Outcome State Fault Refusal :=
  runWord (.cunlock sb a)
    (eachOn fun s tk =>
      let t := s.thread tk
      if t.twin then s
      else dropPin s (dieOfThread tk) (s.flightKey (s.groupKey tk)) (lineKey (s.vasOf tk) (t.pair a).toNat)) st

/-- A write-back request: made at once if nothing holds it back, else when it may go. -/
def submitFlush (keep : Bool) (a : Opnd) (s : State) (tk : Nat) : State :=
  let t := s.thread tk
  let va := (t.pair a).toNat
  match globalTrap (dieOfThread tk) va 1 false with
  | some ti => issueTrap s tk false ti
  | none => if t.twin then s else pushReq s { Req.of s tk with kind := if keep then .clean else .flush, va := va }

/-- CFLUSH. -/
def execCflush (sb : Bool) (a : Opnd) (st : State) : Host.Outcome State Fault Refusal :=
  runWord (.cflush sb a) (eachOn (submitFlush false a)) st

/-- CCLEAN. -/
def execCclean (sb : Bool) (a : Opnd) (st : State) : Host.Outcome State Fault Refusal :=
  runWord (.cclean sb a) (eachOn (submitFlush true a)) st

end Sys2Proof.Machine
end

