-- ==== Sys2Proof/Machine/Atomics.lean ====
section
/-! DEFINITION. Atomics, counters and fences (R271 to R280). The active lanes of a word are grouped by wave and effective
address; a group is one request (R271). -/

namespace Sys2Proof.Machine

set_option Elab.async false

/-- One group of lanes: its wave key, address, lanes in ascending order and the release signal that they carry. -/
structure LaneGroup where
  wave : Nat := 0
  ea : Nat := 0
  lanes : List ReqLane := []
  sig : Option Scope := none
  first : Nat := 0
  deriving DecidableEq, Repr

/-- A lane joins the group of its wave and address. -/
def joinGroup (gs : List LaneGroup) (tk ea : Nat) (l : ReqLane) (sig : Option Scope) : List LaneGroup :=
  if gs.any fun g => g.wave = waveKeyOf tk && g.ea = ea then
    gs.map fun g =>
      if g.wave = waveKeyOf tk && g.ea = ea then { g with lanes := g.lanes ++ [l], sig := widerSig g.sig sig } else g
  else gs ++ [{ wave := waveKeyOf tk, ea := ea, lanes := [l], sig := sig, first := tk }]

/-- An aggregated word (R271): each lane's checks (R263); what it asks is noted for the comparison of R83; a replayable
group's ballast commits before it (R416); then one request for each group of lanes. -/
def aggregate (r : Req) (op : Nat) (b : Opnd) (commit : Bool) (lane : Thread → ReqLane) (k : Nat) (s : State) : State :=
  let n := r.size.bytes
  let ls := s.active k
  let trap (tk : Nat) : Option TrapInfo := globalTrap (dieOfThread tk) ((s.thread tk).globalEa b) n true
  let s := s.forLanes ls fun s tk => match trap tk with | some ti => issueTrap s tk true ti | none => s
  let ok := ls.filter fun tk => (trap tk).isNone
  let s := s.forLanes ok fun s tk =>
    let t := s.thread tk
    let l := lane t
    let s := noteSend s tk op (t.globalEa b) (dataBytes (l.data ++ l.expect) (4 * (l.data ++ l.expect).length))
    if t.twin then twinTake s tk else s
  let own := ok.filter fun tk => !(s.thread tk).twin
  let gs := own.foldl (fun gs tk =>
    let t := s.thread tk
    joinGroup gs tk (t.globalEa b) { lane t with slot := slotOf tk } t.relSig) []
  let s := s.forLanes own fun s tk => s.modThread tk fun t => { t with relSig := none }
  gs.foldl (fun s g =>
    pushReq s
      { Req.of s g.first with
        kind := r.kind, size := r.size, dst := r.dst, order := r.order, scope := r.scope, va := g.ea, lanes := g.lanes
        sig := g.sig, late := true, commits := commit, waitTwin := if (s.hdrOf g.first).marionette then g.lanes.map (·.slot) else [] }) s

/-- The destination of a pair form: code 0 discards (R89). -/
def pairDst : Dst → Nat → Dst
  | .reg 0, 2 => .trans
  | d, _ => d

/-- The size that an operation works on. -/
def opSize (op : AtomOp) : Size := if op.width = 2 then .b64 else .b32

/-- The data of one lane. -/
def opLane (a : Opnd) (w : Nat) (t : Thread) : ReqLane := { data := t.srcWords a w }

/-- ATOM (R272). -/
def execAtom (d : Dst) (b a : Opnd) (op : AtomOp) (st : State) : Host.Outcome State Fault Refusal :=
  runWord (.atom d b a op)
    (aggregate { kind := .rmw op true, size := opSize op, dst := pairDst d op.width } 0x29 b true (opLane a op.width)) st

/-- RED (R273): its data are folded into the store hash (R451). -/
def execRed (b a : Opnd) (op : AtomOp) (st : State) : Host.Outcome State Fault Refusal :=
  runWord (.red b a op) (fun k s =>
    let s := eachOn (fun s tk =>
      let t := s.thread tk
      let n := (opSize op).bytes
      if (globalTrap (dieOfThread tk) (t.globalEa b) n true).isSome then s
      else noteStore s tk 2 (t.globalEa b) n (dataBytes (t.srcWords a op.width) n)) k s
    aggregate { kind := .rmw op false, size := opSize op } 0x2A b true (opLane a op.width) k s) st

/-- CAS (R274): D holds the expected value at issue. -/
def execCas (d : Dst) (b a : Opnd) (st : State) : Host.Outcome State Fault Refusal :=
  runWord (.cas d b a)
    (aggregate { kind := .cas false, size := .b32, dst := d } 0x2B b true fun t => { data := [t.src a], expect := [t.old d] }) st

/-- CAS64 (R274). -/
def execCas64 (d : Dst) (b a : Opnd) (st : State) : Host.Outcome State Fault Refusal :=
  runWord (.cas64 d b a)
    (aggregate { kind := .cas true, size := .b64, dst := pairDst d 2 } 0x2B b true
      fun t => { data := t.srcWords a 2, expect := pairWords (t.oldPair d) }) st

/-- CTRADD (R279): with REL a release whose signal is the add. -/
def execCtradd (b a : Opnd) (rel : Bool) (c : Scope) (st : State) : Host.Outcome State Fault Refusal :=
  runWord (.ctradd b a rel c)
    (aggregate { kind := .ctrAdd, size := .b64, order := if rel then .acqRel else .plain, scope := c } 0x2E b true (opLane a 2)) st

/-- CTRREAD (R280). -/
def execCtrread (sb : Bool) (d : Dst) (b : Opnd) (c : Scope) (o : Bool) (st : State) : Host.Outcome State Fault Refusal :=
  runWord (.ctrread sb d b c o)
    (eachOn fun s tk =>
      let t := s.thread tk
      match globalTrap (dieOfThread tk) (t.globalEa b) 8 false with
      | some ti => issueTrap s tk false ti
      | none =>
        submitLoad s tk
          { Req.of s tk with
            kind := .ctrRead, va := t.globalEa b, size := .b64, dst := d, order := if o then .acqRel else .plain, scope := c }) st

/-- A fence of a kind for one lane (R276): 0 ACQ, 1 REL, 2 ACQREL, 3 SC. A fence with release of DIE scope or wider is a
commit point (R416). -/
def fenceLane (kind : Nat) (c : Scope) (s : State) (tk : Nat) : State :=
  if (s.thread tk).twin then s
  else
    pushReq s
      { Req.of s tk with
        kind := .fence kind, scope := c, late := kind ≠ 0, commits := kind ≠ 0 && 2 ≤ scopeRank c
        waitTwin := if kind ≠ 0 && (s.hdrOf tk).marionette then [slotOf tk] else [] }

/-- FENCE.ACQ. -/
def execFenceAcq (sb : Bool) (c : Scope) (st : State) : Host.Outcome State Fault Refusal :=
  runWord (.fenceAcq sb c) (eachOn (fenceLane 0 c)) st

/-- FENCE.REL. -/
def execFenceRel (c : Scope) (st : State) : Host.Outcome State Fault Refusal :=
  runWord (.fenceRel c) (eachOn (fenceLane 1 c)) st

/-- FENCE.ACQREL. -/
def execFenceAcqrel (c : Scope) (st : State) : Host.Outcome State Fault Refusal :=
  runWord (.fenceAcqrel c) (eachOn (fenceLane 2 c)) st

/-- FENCE.SC. -/
def execFenceSc (c : Scope) (st : State) : Host.Outcome State Fault Refusal :=
  runWord (.fenceSc c) (eachOn (fenceLane 3 c)) st

/-- QFENCE (R277): entries in the named queues of the group, for a marionette leader once its twin has come to the word (R260). -/
def execQfence (m : BitVec 4) (st : State) : Host.Outcome State Fault Refusal :=
  runWord (.qfence m)
    (eachOn fun s tk =>
      let s := noteSend s tk (0x34 + 256 * m.toNat) 0 []
      if (s.thread tk).twin then s
      else pushReq s { Req.of s tk with kind := .qfence m.toNat, late := true, waitTwin := if (s.hdrOf tk).marionette then [slotOf tk] else [] }) st

end Sys2Proof.Machine
end

