-- ==== Sys2Proof/Machine/Fetch.lean ====
section
/-! DEFINITION. Fetching: knot-table entries (R52, R53, R120, R123) and instruction words (R49, R87, R348), through a
core's fetch buffers. A fetch needs X at the home (R368). -/

namespace Sys2Proof.Machine

set_option Elab.async false

/-- What a fetch comes to: a value; it waits; it is refused with a fault, its address, and the detecting die. -/
inductive Fetch (α : Type)
  | got (a : α)
  | hold
  | bad (k : PageFault) (va det : Nat)
  deriving DecidableEq, Repr

/-- n bytes fetched by a core of a die. A consumed uncorrectable word is reported as the home reports it (R405 DATA), here
with the fault kind INVALID. -/
def fetchBytes (s : State) (die vas va n : Nat) : Fetch Nat × State :=
  match agentRead s die vas va n .fetch with
  | (.done (.performed bs), s) => (.got (leValue bs), s)
  | (.done (.fault k det), s) => (.bad k va det, s)
  | (.done (.data _ det), s) => (.bad .invalid va det, s)
  | (_, s) => (.hold, s)

/-- The offset of an absent text in a knot-table entry (R123). -/
def noText : Nat := 0xFFFFFFFF

/-- A knot-table entry k as R123 lays it out: rules broken make the head unlisted (R53, R123). Of a flight whose object holds no
native text the native offset is the one that Ruirber's text gives the ordinal (R126, log 96). -/
def knotOf (fk : Nat) (f : Flight) (glomer : Bool) (k v : Nat) : Option Knot :=
  let noff := bits v 31 0
  let goff := bits v 63 32
  let live := bits v 255 128
  if bits v 95 64 ≠ k || bits v 127 97 ≠ 0 || bitOf live 0 || bits live 127 120 ≠ 0 || (f.glomer && noff ≠ noText)
      || (f.gloSize = 0 && goff ≠ noText) then none
  else
    let nat := if f.glomer then (f.heads[k]?).getD noText else noff
    some
      { flight := fk, glomer := glomer, ord := k, noswap := bitOf v 96, live := live
        off := if glomer then goff else nat }

/-- The entry of a head, by a search of the flight's knot table in ordinal order from entry k on (log 14): the first entry that
gives the head's offset and breaks no rule. -/
def knotSearch (s : State) (die fk : Nat) (f : Flight) (glomer : Bool) (off : Nat) : Nat → Nat → Fetch (Option Knot) × State
  | 0, _ => (.got none, s)
  | fuel + 1, k =>
    match fetchBytes s die f.vas (f.knotBase + 32 * k) 32 with
    | (.got v, s) =>
      match (knotOf fk f glomer k v).filter fun n => n.off = off with
      | some n => (.got (some n), s)
      | none => knotSearch s die fk f glomer off fuel (k + 1)
    | (.hold, s) => (.hold, s)
    | (.bad e va det, s) => (.bad e va det, s)

/-- A knot entry in a core's fetch buffers. -/
def Core.knot? (c : Core) (fk : Nat) (glomer : Bool) (off : Nat) : Option Knot :=
  c.knots.find? fun k => k.flight = fk && k.glomer = glomer && k.off = off

/-- The bytes of one word of a form. -/
def wordBytes (glomer : Bool) : Nat := if glomer then 8 else 4

/-- Base and size of a flight's text in a form. -/
def Flight.text (f : Flight) (glomer : Bool) : Nat × Nat := if glomer then (f.gloBase, f.gloSize) else (f.natBase, f.natSize)

/-- The knot-table entry of a head, kept in the core's fetch buffers (R52, R348). An offset outside the text section is no listed
head (R94), and one that is no multiple of the form's word is none either (R343). -/
def fetchKnot (s : State) (ck fk : Nat) (glomer : Bool) (off : Nat) : Fetch (Option Knot) × State :=
  let f := s.flight fk
  if (f.text glomer).2 < off + wordBytes glomer || off % wordBytes glomer ≠ 0 then (.got none, s)
  else
    match (s.core ck).knot? fk glomer off with
    | some k => (.got (some k), s)
    | none =>
      match knotSearch s (dieOfCore ck) fk f glomer off f.knotCount 0 with
      | (.got (some k), s) => (.got (some k), s.modCore ck fun c => { c with knots := k :: c.knots })
      | r => r

/-- What the ballasts of a flight's groups on a core hold of a fetched word: their stores are visible to their threads (R87, R415; log 140). -/
def codeOver (s : State) (ck fk va : Nat) (data : List Byte) : List Byte :=
  (s.groups.filter fun p => coreOfGroup p.1 = ck && s.flightKey p.1 = fk).foldl (fun data p =>
    p.2.ballast.foldl (fun data b =>
      if b.upd.isSome then data
      else data.zipIdx.map fun q => if b.addr ≤ va + q.2 then (b.data[va + q.2 - b.addr]?).getD q.1 else q.1) data) data

/-- One instruction word of a flight at a code offset, kept in the core's fetch buffers. -/
def fetchWordAt (s : State) (ck fk : Nat) (glomer : Bool) (off : Nat) : Fetch Nat × State :=
  match (s.core ck).words.find? fun w => w.1 = fk && w.2.1 = glomer && w.2.2.1 = off with
  | some w => (.got w.2.2.2, s)
  | none =>
    let f := s.flight fk
    match fetchBytes s (dieOfCore ck) f.vas ((f.text glomer).1 + off) (wordBytes glomer) with
    | (.got v, s) =>
      let v := leValue (codeOver s ck fk ((f.text glomer).1 + off) (leBytes (wordBytes glomer) v))
      (.got v, s.modCore ck fun c => { c with words := (fk, glomer, off, v) :: c.words })
    | r => r

/-- A word that ends its block by itself (R49): a control transfer or JOIN, and natively any word with S = 1. -/
def wordEnds (glomer : Bool) (w : Nat) : Bool :=
  if glomer then (match decodeGlomer w with | some (i, _) => (info i).ctl | none => false)
  else
    bitOf w 31 || (match decodeWord w with | some i => (info i).ctl | none => false)

/-- The word at an offset is a head, so that the word before it ends its block (R49): natively the knot table lists it; in Glomer
form its H bit is 1 (R112). -/
def fetchHead (s : State) (ck fk : Nat) (glomer : Bool) (off : Nat) : Fetch Bool × State :=
  if glomer then
    match fetchWordAt s ck fk true off with
    | (.got v, s) => (.got (bitOf v 1), s)
    | (.hold, s) => (.hold, s)
    | (.bad e va det, s) => (.bad e va det, s)
  else
    match fetchKnot s ck fk false off with
    | (.got k, s) => (.got k.isSome, s)
    | (.hold, s) => (.hold, s)
    | (.bad e va det, s) => (.bad e va det, s)

/-- The words of the block at a head, from place n on, at most `fuel` more: up to a word that ends it, or the word before
the next head (R49). The place of a refused word, or of a word of which it cannot be read whether it is a head, stands beside it. -/
def fetchBlock (s : State) (ck fk : Nat) (glomer : Bool) (head : Nat) : Nat → Nat → Fetch (List (Nat × Bool)) × Nat × State
  | 0, n => (.got [], n, s)
  | fuel + 1, n =>
    let off := head + wordBytes glomer * n
    match fetchWordAt s ck fk glomer off with
    | (.hold, s) => (.hold, n, s)
    | (.bad e va det, s) => (.bad e va det, n, s)
    | (.got w, s) =>
      if wordEnds glomer w then (.got [(w, true)], n, s)
      else
        match fetchHead s ck fk glomer (off + wordBytes glomer) with
        | (.hold, s) => (.hold, n, s)
        | (.bad e va det, s) => (.bad e va det, n + 1, s)
        | (.got true, s) => (.got [(w, true)], n, s)
        | (.got false, s) =>
          match fetchBlock s ck fk glomer head fuel (n + 1) with
          | (.got r, m, s) => (.got ((w, false) :: r), m, s)
          | r => r

end Sys2Proof.Machine
end

