-- ==== Sys2Proof/Machine/Table.lean ====
section
/-! DEFINITION. The block table and the overflow FIFO of a core (R56, R57, R313), the swap of a thread from Glomer to
native form (R126), and join masks (R74 to R76, R350). -/

namespace Sys2Proof.Machine

set_option Elab.async false

/-! ### Places where threads wait -/

/-- The key of the entry in which a thread waits at its next head: flight, form, head, join mask and release. -/
structure EntKey where
  flight : Nat := 0
  glomer : Bool := false
  head : Nat := 0
  join : Option (Nat × Nat) := none
  gen : Option Nat := none
  deriving DecidableEq, Repr

def BEntry.key (e : BEntry) : EntKey := { flight := e.flight, glomer := e.glomer, head := e.head, join := e.join, gen := e.gen }

/-- The key of a thread's place (R56, R74). -/
def State.entKey (s : State) (tk : Nat) : EntKey :=
  let t := s.thread tk
  { flight := s.flightKey (s.groupKey tk), glomer := t.glomer, head := t.next
    join := (match t.bend with | .join n => some (slotOf tk / 64, n) | _ => none)
    gen := (match t.bend with | .join _ => t.jgen | _ => none) }

/-- The state of a thread with its bit in an entry: a HELD entry holds it in JOINWAIT. -/
def waitStat (st : EntStat) : TStat := match st with | .held => .joinWait | _ => .wait

/-- A new entry for a key, with its head's knot data (R52): HELD when it is a join entry whose mask has not released. -/
def newEntry (c : Core) (k : EntKey) (kn : Knot) (vec : Nat) : BEntry :=
  { flight := k.flight, glomer := k.glomer, head := k.head, join := k.join, gen := k.gen, vec := vec, ord := kn.ord
    live := kn.live, born := c.clock, stat := if k.join.isSome && k.gen.isNone then .held else .live }

/-- A thread becomes waiting at its next head: in its entry, in a new entry, or in the overflow FIFO (R56, R57). -/
def placeThread (s : State) (tk : Nat) : State :=
  let ck := coreOfThread tk
  let c := s.core ck
  let k := s.entKey tk
  match c.table.find? fun e => e.key = k with
  | some e =>
    let s := s.setCore ck { c with table := c.table.map fun x => if x.key = k then { x with vec := setBit x.vec (slotOf tk) } else x }
    s.modThread tk fun t => { t with stat := waitStat e.stat }
  | none =>
    if c.fifo = [] && c.table.length < 64 then
      let e := newEntry c k (s.thread tk).ahead (2 ^ slotOf tk)
      let s := s.setCore ck { c with table := c.table ++ [e], clock := c.clock + 1 }
      s.modThread tk fun t => { t with stat := waitStat e.stat }
    else
      let s := s.setCore ck { c with fifo := c.fifo ++ [slotOf tk] }
      s.modThread tk fun t => { t with stat := .overflow }

/-- One entry for the oldest FIFO thread, and every FIFO thread that waits at its place moves into it (R57). -/
def fifoStep (s : State) (ck : Nat) : State :=
  let c := s.core ck
  match c.fifo with
  | [] => s
  | slot :: _ =>
    if 64 ≤ c.table.length then s
    else
      let k := s.entKey (threadKey ck slot)
      let mine := c.fifo.filter fun x => s.entKey (threadKey ck x) = k
      let e := newEntry c k (s.thread (threadKey ck slot)).ahead (mine.foldl setBit 0)
      let s := s.setCore ck
        { c with
          table := c.table ++ [e], clock := c.clock + 1
          fifo := c.fifo.filter fun x => s.entKey (threadKey ck x) ≠ k }
      mine.foldl (fun s x => s.modThread (threadKey ck x) fun t => { t with stat := waitStat e.stat }) s

/-- FIFO threads move while entries are free. -/
def drainFifo (s : State) (ck : Nat) : Nat → State
  | 0 => s
  | n + 1 => if (s.core ck).fifo = [] || 64 ≤ (s.core ck).table.length then s else drainFifo (fifoStep s ck) ck n

/-- Empty entries are freed (R56) and the FIFO moves up (R57). -/
def freeEntries (s : State) (ck : Nat) : State :=
  drainFifo (s.modCore ck fun c => { c with table := c.table.filter fun e => e.vec ≠ 0 }) ck 64

/-- A thread leaves its place in the table or the FIFO. -/
def unplace (s : State) (tk : Nat) : State :=
  freeEntries (s.modCore (coreOfThread tk) fun c =>
    { c with
      table := c.table.map fun e => { e with vec := clrBit e.vec (slotOf tk) }
      fifo := c.fifo.filter fun x => x ≠ slotOf tk }) (coreOfThread tk)

/-! ### Leaders and twins (R81) -/

/-- The form of the leader at the head behind its block n, 1 Glomer: the form in which it streams block n + 1. -/
def Thread.formAfter (t : Thread) (n : Nat) : Bool :=
  if t.blockNo ≤ n then t.glomer
  else if t.blockNo = n + 1 then t.here.glomer
  else ((t.done.find? fun b => b.no = n + 1).map (·.glomer)).getD t.glomer

/-! ### Glomer to native (R126) -/

/-- A thread in native form at the native offset of its head: its spill slots end. -/
def Thread.swap (t : Thread) (off nregs : Nat) : Thread :=
  { t with
    glomer := false, swapped := true, next := off, ahead := { t.ahead with glomer := false, off := off }
    regs := t.regs.filter fun p => p.1 < nregs }

/-- The native head of the ordinal at which a thread in Glomer form stands, once native text is installed for its flight. -/
def nativeHead (s : State) (tk : Nat) : Option Nat :=
  let f := s.flightOf tk
  if f.swap && (s.thread tk).glomer then f.heads[(s.thread tk).ahead.ord]? else none

/-- A marionette twin moves to native form at the heads at which its leader does. -/
def State.twinSwaps (s : State) (tk : Nat) : Bool :=
  match s.leaderOf tk with
  | some l => !(s.thread l).formAfter (s.thread tk).blockNo
  | none => true

/-- A thread that stands at a swappable head of a flight with installed native text moves to native form. -/
def swapAt (s : State) (tk : Nat) : State :=
  match nativeHead s tk with
  | some off =>
    if (!(s.thread tk).ahead.noswap || (s.thread tk).swapped) && s.twinSwaps tk then
      s.modThread tk fun t => t.swap off (s.flightOf tk).hdr.nregs
    else s
  | none => s

/-! ### Join masks -/

/-- The thread keys of a wave's lanes. -/
def waveThreads (wk : Nat) : List Nat := (List.range 64).map fun l => threadKey (wk / 8) (wk % 8 * 64 + l)

/-- The lane set, or the arrival set, of a mask. -/
def Wave.laneSet (w : Wave) (n : Nat) : BitVec 64 := mgetD w.sets n 0
def Wave.arrSet (w : Wave) (n : Nat) : BitVec 64 := mgetD w.arrs n 0

/-- The lane does not hold its mask's release: it has arrived, has exited, or sleeps in RETRY (R75). -/
def laneSettled (s : State) (wk n l : Nat) : Bool :=
  ((s.wave wk).arrSet n).getLsbD l ||
    (match mget s.threads (threadKey (wk / 8) (wk % 8 * 64 + l)) with
     | none => true
     | some t => t.stat = .exited || t.stat = .asleep)

/-- Every lane of the lane set is settled. -/
def maskReady (s : State) (wk n : Nat) : Bool :=
  (List.range 64).all fun l => !((s.wave wk).laneSet n).getLsbD l || laneSettled s wk n l

/-- Every arrived lane of a mask that has not released and is in Glomer form at its head moves to native form (R126): it leaves its
place in the table or in the FIFO for one in the native entry. A lane still in RETURN does so when it becomes waiting. -/
def swapHeld (s : State) (wk n : Nat) : State :=
  let arr := (s.wave wk).arrSet n
  let ts := (waveThreads wk).filter fun tk =>
    let t := s.thread tk
    arr.getLsbD (laneOf tk) && (t.stat = .joinWait || t.stat = .overflow) && t.jgen = none && t.bend = .join n
      && (nativeHead s tk).isSome && s.twinSwaps tk
  let s := ts.foldl unplace s
  ts.foldl (fun s tk => placeThread (swapAt s tk) tk) s

/-- A mask releases (R75, R76): the arrived lanes get the release's number, the arrival set is cleared, and the entries
that hold them become eligible. -/
def releaseMask (s : State) (wk n : Nat) : State :=
  let ck := wk / 8
  let s := swapHeld s wk n
  let g := s.nextId
  let arr := (s.wave wk).arrSet n
  let s := { s with
    nextId := g + 1
    waves := mmod s.waves wk {} fun w => { w with arrs := mput w.arrs n 0 } }
  let ts := (waveThreads wk).filter fun t => arr.getLsbD (laneOf t)
  let s := s.modCore ck fun c =>
    { c with table := c.table.map fun e =>
        if e.join = some (wk % 8, n) && e.gen = none then { e with gen := some g, stat := .live } else e }
  ts.foldl (fun s t =>
    s.modThread t fun t => { t with jgen := some g, stat := if t.stat = .joinWait then .wait else t.stat }) s

/-- The release condition evaluated for a mask. -/
def evalMask (s : State) (wk n : Nat) : State :=
  if (s.wave wk).arrSet n ≠ 0 && maskReady s wk n then releaseMask s wk n else s

/-- Every mask of a wave evaluated. -/
def evalMasks (s : State) (wk : Nat) : State := (List.range 8).foldl (fun s n => evalMask s wk n) s

/-- A lane is released at once, alone (R75): it waits by itself at its next head. -/
def releaseAlone (s : State) (tk : Nat) : State :=
  let g := s.nextId
  let was := (s.thread tk).stat
  let s := { s with nextId := g + 1 }
  let s := if was = .joinWait || was = .overflow then unplace s tk else s
  let s := s.modThread tk fun t => { t with jgen := some g }
  if was = .joinWait || was = .overflow then placeThread s tk else s

/-- A lane that executes JOIN arrives (R74), or, outside the lane set, is released alone (R75). -/
def arriveMask (s : State) (tk n : Nat) : State :=
  let wk := waveKeyOf tk
  if ((s.wave wk).laneSet n).getLsbD (laneOf tk) then
    evalMask { s with waves := mmod s.waves wk {} fun w =>
      { w with arrs := mput w.arrs n (w.arrSet n ||| BitVec.ofNat 64 (2 ^ laneOf tk)) } } wk n
  else releaseAlone s tk

/-- JSET (R350, R78). -/
def setMask (s : State) (tk n : Nat) (v : BitVec 64) : State :=
  let wk := waveKeyOf tk
  let v := if s.waveWidth tk = 32 then v &&& 0xFFFFFFFF else v
  let out := (s.wave wk).arrSet n &&& ~~~v
  let s := { s with waves := mmod s.waves wk {} fun w => { w with sets := mput w.sets n v, arrs := mput w.arrs n (w.arrSet n &&& v) } }
  let s := ((waveThreads wk).filter fun t => out.getLsbD (laneOf t)).foldl releaseAlone s
  evalMask s wk n

/-- JLEAVE (R350). -/
def leaveMask (s : State) (tk n : Nat) : State :=
  let wk := waveKeyOf tk
  evalMask { s with waves := mmod s.waves wk {} fun w =>
    { w with sets := mput w.sets n (w.laneSet n &&& ~~~BitVec.ofNat 64 (2 ^ laneOf tk)) } } wk n

/-- A lane whose JOIN is undone by a trap of its block leaves the arrival set, if the mask has not released (log 15). -/
def undoArrival (s : State) (tk : Nat) : State :=
  match (s.thread tk).bend, (s.thread tk).jgen with
  | .join n, none =>
    { s with waves := mmod s.waves (waveKeyOf tk) {} fun w =>
        { w with arrs := mput w.arrs n (w.arrSet n &&& ~~~BitVec.ofNat 64 (2 ^ laneOf tk)) } }
  | _, _ => s

end Sys2Proof.Machine
end

