-- ==== Sys2Proof/Machine/Trace.lean ====
section
/-! DEFINITION. Engine queues and their QFENCE order (R256, R258), label stacks (R433, R435) and trace records
(R436 to R438). -/

namespace Sys2Proof.Machine

set_option Elab.async false

/-! ### Engine queues -/

/-- The places, in the group's order of issue, of the entries of queue q that are still to be performed: 0 streamer,
1 matrix, 2 combine, 3 trace (R256). A record that the die's trace unit holds has still to be written (R439). -/
def State.queueSeqs (s : State) (gk q : Nat) : List Nat :=
  let qd := s.quad (quadOfCore (coreOfGroup gk))
  match q with
  | 0 => (qd.queue.filter fun e => e.group = gk && e.kind ≠ .combine).map (·.seq)
  | 1 => (qd.table.filter fun e => e.group = gk).map (·.seq)
  | 2 => (qd.queue.filter fun e => e.group = gk && e.kind = .combine).map (·.seq)
  | _ =>
    (s.group gk).trace.map (·.seq)
      ++ ((s.heldRecords (dieOfCore (coreOfGroup gk))).filter fun p => p.2.group = gk).map (·.2.seq)

/-- An entry of queue q, at place seq, must wait for a QFENCE: one that names q stands before it, and an earlier entry of
a named queue is still to be performed (R258). -/
def State.fenced (s : State) (gk q seq : Nat) : Bool :=
  (s.group gk).fences.any fun f =>
    bitOf f.mask q && f.seq < seq &&
      (List.range 4).any fun p => bitOf f.mask p && (s.queueSeqs gk p).any fun n => n < f.seq

/-- The place of a new entry in its group's order. -/
def nextSeq (s : State) (gk : Nat) : Nat × State :=
  ((s.group gk).qseq, s.modGroup gk fun g => { g with qseq := g.qseq + 1 })

/-- QFENCE's entries are placed (R277). -/
def placeFence (s : State) (gk mask : Nat) : State :=
  let (n, s) := nextSeq s gk
  s.modGroup gk fun g => { g with fences := g.fences ++ [{ mask := mask, seq := n }] }

/-! ### Sessions (R432) -/

/-- A flight takes part in a session: in MODE 1 as a pass of this registration (R446). -/
def Session.takes (e : Session) (reg : Nat) : Bool := e.mode ≠ 1 || reg = e.reg

/-- The session that a group's flight is attached to: named by its header, registered and running; a truncated one does not run (log 83). -/
def State.attached (s : State) (fk : Nat) : Option (Nat × Session) :=
  match (s.flight fk).sessionKey with
  | none => none
  | some key =>
    match mget s.sessions key with
    | some e => if e.stat = 1 && e.takes (s.flight fk).reg then some (key, e) else none
    | none => none

/-! ### Label stacks (R433) -/

/-- Entries that are stored, and the top. -/
def Wave.stored (w : Wave) : List Nat := w.labels.take (min w.depth 16)
def Wave.top (w : Wave) : Nat := ((w.stored).getLast?).getD 0

/-- Push and pop. -/
def Wave.push (w : Wave) (l : Nat) : Wave :=
  { w with
    labels := if w.depth < 16 then w.labels.take w.depth ++ [l] else w.labels
    ovf := w.ovf || 16 ≤ w.depth
    depth := if w.depth < 255 then w.depth + 1 else w.depth }
def Wave.pop (w : Wave) : Wave := { w with depth := w.depth - 1 }

/-- A record passes the filters of its flight's TMASK, tested against a wave's stack (R436). -/
def passesFilter (e : Session) (tmask : Nat) (w : Wave) : Bool :=
  tmask = 0 ||
    (List.range 8).any fun k =>
      let f := e.word (0x10 + 8 * k)
      let inside (l : Nat) : Bool := bits f 15 0 ≤ l && l ≤ bits f 31 16
      bitOf tmask k && bitOf f 33 && (if bitOf f 32 then w.depth ≠ 0 && inside w.top else w.stored.any inside)

/-! ### Records (R437) -/

/-- What a record names beside its group: kind, label, value, block, word, form, wave, and whether RET reached it. -/
structure Mark where
  kind : Nat := 0
  label : Nat := 0
  value : Nat := 0
  ord : Nat := 0
  off : Nat := 0
  glomer : Bool := false
  wslot : Nat := 0
  ret : Bool := false
  by' : Option (Nat × Nat) := none
  deriving DecidableEq, Repr

/-- A group key that no group has: of a record that no resident group's queue holds. -/
def noGroup : Nat := 2 ^ 90

/-- A record of a core, with its cycle count and SEQ in the session (R437, R438). -/
def traceRecord (s : State) (ck key gid : Nat) (w : Wave) (m : Mark) : TraceRec :=
  let c := s.core ck
  { session := key, group := noGroup, by' := m.by'
    w0 := m.kind + 256 * w.depth + 2 ^ 16 * m.label + 2 ^ 32 * m.ord
    w1 := m.off % 64 + 2 ^ 6 * m.glomer.toNat + 2 ^ 7 * w.ovf.toNat + 2 ^ 8 * m.wslot + 2 ^ 11 * (ck % 128)
      + 2 ^ 18 * dieOfCore ck + 2 ^ 29 * m.ret.toNat + 2 ^ 32 * m.value
    w2 := gid
    w3 := (c.cycles - mgetD c.starts key 0) % 2 ^ 48 + 2 ^ 48 * (mgetD c.seqs key 0 % 2 ^ 16) }

/-- A core has made a record of a session. -/
def countRecord (s : State) (ck key : Nat) : State := s.modCore ck fun c => { c with seqs := mput c.seqs key (mgetD c.seqs key 0 + 1) }

/-- A record enters a group's trace queue. -/
def pushTrace (s : State) (gk key : Nat) (w : Wave) (m : Mark) : State :=
  let ck := coreOfGroup gk
  let r := traceRecord s ck key (s.gid gk) w m
  let (q, s) := nextSeq s gk
  (countRecord s ck key).modGroup gk fun g => { g with trace := g.trace ++ [{ r with seq := q, group := gk }] }

/-- A record of a group that stands on no core, or that another agent makes, goes to a die's trace unit, which writes it in its turn (R439). -/
def holdTrace (s : State) (die ck key gid : Nat) (m : Mark) : State :=
  let r := traceRecord s ck key gid {} m
  (countRecord s ck key).modDie die fun d => { d with traceHold := d.traceHold ++ [(0, r)] }

/-- A record of a wave, if its flight is attached and the record passes the filters, tested against `w`. -/
def emitMark (s : State) (gk : Nat) (w : Wave) (m : Mark) : State :=
  match s.attached (s.flightKey gk) with
  | none => s
  | some (key, e) =>
    if passesFilter e (s.flight (s.flightKey gk)).hdr.tmask w then pushTrace s gk key w m else s

/-- One TRACE word for one wave (R435): 0 push, 1 pop, 2 event, 3 stat; a and b are the lowest active lane's operands. -/
def performMark (s : State) (r : Req) (op : Nat) : State :=
  let tk := r.tk
  let gk := s.groupKey tk
  let wk := waveKeyOf tk
  let w := s.wave wk
  let l := (r.lanes.head?).getD {}
  let a := ((l.data[0]?).getD 0).toNat
  let b := ((l.data[1]?).getD 0).toNat
  let t := s.thread tk
  let m : Mark := { ord := r.ord, off := r.off, glomer := t.glomer, wslot := wk % 8, ret := t.headRet, by' := some (tk, r.id) }
  match op with
  | 0 =>
    let w' := w.push (a % 2 ^ 16)
    emitMark { s with waves := mput s.waves wk w' } gk w' { m with kind := 1, label := a % 2 ^ 16 }
  | 1 =>
    if w.depth = 0 then s
    else
      let s := emitMark s gk w { m with kind := 2, label := w.top }
      { s with waves := mput s.waves wk w.pop }
  | 2 => emitMark s gk w { m with kind := 3, label := a % 2 ^ 16, value := b }
  | _ => emitMark s gk w { m with kind := 4, label := w.top, value := a }

end Sys2Proof.Machine
end

