-- ==== Sys2Proof/Machine/Reels.lean ====
section
/-! DEFINITION. Reels (R291 to R295). -/

namespace Sys2Proof.Machine

set_option Elab.async false

/-- A count modulo 2^32, from a to b. -/
def Reel.filled (r : Reel) : Nat := count32 r.widx r.ridx
def Reel.claimed (r : Reel) : Nat := count32 r.claim r.ridx
def Reel.inFlight (r : Reel) : Nat := count32 r.claim r.widx

/-- The four words of the header (R291). -/
def Reel.header (r : Reel) : List Byte :=
  leBytes 4 r.widx ++ leBytes 4 r.ridx ++ leBytes 4 (r.nslot + 65536 * r.slotb)
    ++ leBytes 4 (r.ecode + 256 * r.eslot + 65536 * r.ecount)

/-- The reel of a group at a header offset. -/
def State.reel? (s : State) (gk hdr : Nat) : Option Reel := (s.group gk).reels.find? fun r => r.hdr = hdr

/-- A reel put into its group's table, and its header words written (R292). -/
def setReel (s : State) (gk : Nat) (r : Reel) : State :=
  let s := s.modGroup gk fun g =>
    { g with reels := if g.reels.any fun x => x.hdr = r.hdr then g.reels.map fun x => if x.hdr = r.hdr then r else x else g.reels ++ [r] }
  s.writeScratch gk (2 ^ 18 * 0x7F + r.hdr) r.header

/-- Everyone who has read a reel in a transaction is woken or doomed (R294, R327, R332). -/
def wakeReel (s : State) (gk : Nat) (r : Reel) : State :=
  r.watch.foldl (fun s tk =>
    s.modDie (dieOfThread tk) fun d =>
      { d with wakes := d.wakes ++ [{ core := coreOfThread tk, slot := slotOf tk, key := .reel gk r.hdr 0 }] }) s

/-- A change of WIDX or RIDX (R294). -/
def changeReel (s : State) (gk : Nat) (r : Reel) : State :=
  wakeReel (setReel s gk { r with ver := r.ver + 1, watch := [] }) gk r

/-- Case 2 of R295: the header address is another group's, or not 16-aligned. -/
def foreignHeader (s : State) (gk ea : Nat) : Bool :=
  !(bits ea 24 18 = 0x7F || bits ea 24 18 = (s.group gk).f2) || ea % 16 ≠ 0

/-- The checks of a REEL word other than RINIT (R295), then the layout of the address (R231), in the order of R263. -/
def reelTrap (s : State) (gk ea : Nat) : Option TrapInfo :=
  let h := ea % 2 ^ 18
  if foreignHeader s gk ea then some { kind := .reel, sub := 2, va := ea, detail := h }
  else if (s.reel? gk h).isNone then some { kind := .reel, sub := 1, va := ea, detail := h }
  else if bits ea 31 26 ≠ 0 then some { kind := .scrBound, va := ea }
  else none

/-- Live reels that a group may have (R292, R48). -/
def State.reelRoom (s : State) (gk : Nat) : Nat := if (s.flight (s.flightKey gk)).floor then 4 else 8

/-- RINIT's checks (R295), then the layout of the address and the bounds of header and slots (R231), in the order of R263: `b` holds
NSLOT and SLOTB, 0 removes. -/
def rinitTrap (s : State) (gk ea b : Nat) : Option TrapInfo :=
  let h := ea % 2 ^ 18
  let n := b % 65536
  let z := b / 65536
  let no (sub : Nat) : Option TrapInfo := some { kind := .reel, sub := sub, va := ea, detail := h }
  if foreignHeader s gk ea then no 2
  else if b ≠ 0 && (n = 0 || 256 < n || z % 16 ≠ 0 || z < 16 || 65520 < z) then no 3
  else if b ≠ 0 && (s.reel? gk h).isNone && s.reelRoom gk ≤ (s.group gk).reels.length then no 4
  else if ((s.reel? gk h).map fun r => decide (r.inFlight ≠ 0)).getD false then no 5
  else if bits ea 31 26 ≠ 0 || s.scratchSize gk < h + 16 + n * z then some { kind := .scrBound, va := ea }
  else none

/-- RINIT (R294): a new registration is a change for everyone who has read the reel, and so is its removal (R332). -/
def performRinit (s : State) (gk h b : Nat) : State :=
  let old := s.reel? gk h
  if b = 0 then
    match old with
    | none => s
    | some r => wakeReel (s.modGroup gk fun g => { g with reels := g.reels.filter fun r => r.hdr ≠ h }) gk r
  else
    changeReel { s with nextId := s.nextId + 1 } gk
      { hdr := h, nslot := b % 65536, slotb := b / 65536, ver := (old.map (·.ver)).getD s.nextId, watch := (old.map (·.watch)).getD [] }

/-- Slot k's first byte (R291). -/
def Reel.slotOff (r : Reel) (k : Nat) : Nat := r.hdr + 16 + k % r.nslot * r.slotb

/-- RFREE (R294): the freed slots' failed bits clear. -/
def performRfree (s : State) (gk : Nat) (r : Reel) (b : Nat) : State :=
  let n := min b r.filled
  if n = 0 then s
  else
    let bad := (List.range n).foldl (fun m i => clrBit m ((r.ridx + i) % r.nslot)) r.failed
    changeReel s gk { r with ridx := (r.ridx + n) % 2 ^ 32, failed := bad }

/-- The results of RFILL, RSPACE and RSTAT (R294). -/
def reelRead (r : Reel) (op : Nat) : List Word :=
  match op with
  | 1 =>
    if r.filled = 0 then [0xFFFFFFFF]
    else
      [BitVec.ofNat 32 (2 ^ 18 * 0x7F + r.slotOff r.ridx + if bitOf r.failed (r.ridx % r.nslot) then 2 ^ 31 else 0)]
  | 3 => [BitVec.ofNat 32 (r.nslot - r.claimed)]
  | _ =>
    [BitVec.ofNat 32 (r.filled % 65536 + 65536 * r.inFlight),
     BitVec.ofNat 32 (r.ecode + 256 * r.eslot + 65536 * r.ecount)]

/-- A REEL request performed for its thread (R294, R322): a trap when the reel's registration has changed since issue. -/
def performReel (s : State) (r : Req) (op : Nat) (a b : Word) : State :=
  let tk := r.tk
  let gk := s.groupKey tk
  let fail (s : State) (ti : TrapInfo) : State := askedTrap (s.dropReq r.id) tk { ti with off := r.off, ord := r.ord }
  if op = 0 then
    match rinitTrap s gk a.toNat b.toNat with
    | some ti => fail s ti
    | none => performRinit (s.dropReq r.id) gk (a.toNat % 2 ^ 18) b.toNat
  else
    match reelTrap s gk a.toNat, s.reel? gk (a.toNat % 2 ^ 18) with
    | some ti, _ => fail s ti
    | none, none => s.dropReq r.id
    | none, some x =>
      if op = 2 then performRfree (s.dropReq r.id) gk x b.toNat
      else
        let ent := ReadEnt.reel gk x.hdr x.ver
        if r.tx && (s.thread tk).readFull ent then fail s { kind := .txCap, sub := 1 }
        else
          let s := s.dropReq r.id
          let s :=
            if r.tx then
              let s := s.modThread tk fun t => t.addRead ent
              s.modGroup gk fun g => { g with reels := g.reels.map fun y => if y.hdr = x.hdr then { y with watch := tk :: y.watch.filter (· ≠ tk) } else y }
            else s
          if (s.thread tk).first ≤ r.id then addPend s tk { off := r.off, dst := r.dst, vals := reelRead x op } else s

/-- One lane of a REEL word: its checks at issue, then its request. A twin makes none (R81). -/
def reelLane (op : Nat) (d : Dst) (a b : Opnd) (s : State) (tk : Nat) : State :=
  let t := s.thread tk
  let gk := s.groupKey tk
  let va := t.src a
  let vb := t.src b
  match (if op = 0 then rinitTrap s gk va.toNat vb.toNat else reelTrap s gk va.toNat) with
  | some ti => trapThread s tk ti
  | none => submitLoad s tk { Req.of s tk with kind := .reel op va vb, dst := d, late := op = 0 || op = 2 }

end Sys2Proof.Machine
end

