-- ==== Sys2Proof/Machine/Tethers.lean ====
section
/-! DEFINITION. Tethers (R145 to R149): their fields, validity, the places of their elements in global memory, scratch and
the OPM (R147, R234, R235), residues (R138 to R143), and an engine's reads and writes through a tether. -/

namespace Sys2Proof.Machine

set_option Elab.async false

/-! ### Fields (R145) -/

/-- An image's field, from bit lo of its 256 bits. -/
def tethField (img : List Word) (hi lo : Nat) : Nat := bits (ofWords img) hi lo

def tBase (t : List Word) : Nat := tethField t 56 0
def tSpace (t : List Word) : Nat := tethField t 59 57
def tFmt (t : List Word) : Nat := tethField t 63 60
def tRows (t : List Word) : Nat := tethField t 79 64
def tCols (t : List Word) : Nat := tethField t 95 80
def tStride (t : List Word) : Nat := tethField t 127 96
def tSbase (t : List Word) : Nat := tethField t 184 128
def tSspace (t : List Word) : Nat := tethField t 187 185
def tSrows (t : List Word) : Nat := if tethField t 188 188 = 1 then 32 else 1
def tColMajor (t : List Word) : Bool := tethField t 189 189 = 1
def tSwz (t : List Word) : Bool := tethField t 190 190 = 1
def tSpan (t : List Word) : Nat := tethField t 195 192
def tSboff (t : List Word) : Nat := tethField t 202 200

/-- Element bits and scaling of a format code (R146), none for an invalid code. -/
def fmtBits : Nat → Option (Nat × Bool)
  | 0 => some (8, true)
  | 1 => some (6, true)
  | 2 => some (4, true)
  | 3 => some (32, false)
  | 4 => some (16, false)
  | 5 => some (16, false)
  | 6 => some (8, false)
  | 7 => some (8, false)
  | 8 => some (32, false)
  | 9 => some (32, false)
  | _ => none
def tWidth (t : List Word) : Nat := ((fmtBits (tFmt t)).getD (8, false)).1
def tScaled (t : List Word) : Bool := ((fmtBits (tFmt t)).getD (8, false)).2

/-- The length of a line (R147). -/
def tLine (t : List Word) : Nat := if tColMajor t then tRows t else tCols t

/-- A valid tether (R148). -/
def tethValid (t : List Word) : Bool :=
  match fmtBits (tFmt t) with
  | none => false
  | some (_, scaled) =>
    tSpace t ≤ 2 && (tSpace t ≠ 1 || tBase t < 2 ^ 32)
      && tRows t ≠ 0 && tCols t ≠ 0 && (tStride t = 0 || tLine t ≤ tStride t)
      && (tFmt t ≠ 1 || tStride t % 4 = 0) && (tFmt t ≠ 2 || tStride t % 2 = 0)
      && (if scaled then tSspace t ≤ 2 && 5 ≤ tSpan t && tSpan t ≤ 14
          else tSbase t = 0 && tSspace t = 0 && tethField t 188 188 = 0 && tSboff t = 0 && tSpan t = 0)
      && (!tSwz t || tSpace t = 1)
      && tethField t 191 191 = 0 && tethField t 199 196 = 0 && tethField t 255 203 = 0

/-- The image of a slot of a group; none for an empty one. -/
def State.tether (s : State) (gk n : Nat) : Option (List Word) := mget (s.group gk).tethers n

/-! ### Places of elements (R147) -/

/-- The bit offset of element (i, j) from BASE. -/
def tBit (t : List Word) (i j : Nat) : Nat :=
  (if tColMajor t then j * tStride t + i else i * tStride t + j) * tWidth t

/-- Where one byte of a tether's region lies: a global address; one that the matrix engine reads for a group (R208); a cell of scratch; a byte of an accumulator element of a
quad; a byte of an accumulator that an engine's work keeps from being accessed yet; nowhere. -/
inductive Spot
  | glob (va : Nat)
  | own (va : Nat)
  | cell (a : Nat)
  | acc (quad key byte : Nat)
  | busy
  | none
  deriving DecidableEq, Repr

/-- The engine bank that an entry's BANK names. -/
def bankOf (s : State) (e : MEntry) : Nat := ((s.group e.group).banks[e.bank]?).getD 0

/-- An access to an engine bank waits (R235): while a pass streams into it, or while an MDRAIN of it has begun and not ended; the entry
`me`, which makes the access, does not wait for itself (log 98). -/
def accBusy (s : State) (qk bank me : Nat) : Bool :=
  (s.quad qk).table.any fun e =>
    e.id ≠ me && bankOf s e = bank
      && (e.stat = .stream && e.op ≠ .mstat || e.stat = .waiting || (e.stat = .perform && e.op = .mdrain && e.done ≠ 0))

/-- Byte k from a base in a space, for a group (R231, R234, R237); `me` is the matrix entry that makes the access, 0 for none. A page
that has been freed leaves nothing there. -/
def spotOf (s : State) (gk space base : Nat) (swz : Bool) (me : Nat) (k : Nat) : Spot :=
  let scratch (ea : Nat) : Spot :=
    match s.scratchGroup gk ea with
    | some g =>
      let off := foldOff (swz || bitOf ea 25) (ea % 2 ^ 18 + k)
      if (s.group g).pages.length ≤ off / 4096 then .none else .cell (s.scratchCell g off)
    | none => .none
  if space = 0 then (if me = 0 then .glob (base + k) else .own (base + k))
  else if space = 1 then scratch base
  else if bits base 39 36 = 0 then scratch (base % 2 ^ 26)
  else
    match s.scratchGroup gk (bits base 24 18 * 2 ^ 18) with
    | some g =>
      let loc := base % 2 ^ 18 + k
      match (s.group g).banks[loc / 2 ^ 16]? with
      | some b =>
        let qk := quadOfCore (coreOfGroup g)
        if accBusy s qk b me then .busy else .acc qk (b * 16384 + loc % 2 ^ 16 / 4) (loc % 4)
      | none => .none
    | none => .none

/-- An OPM offset that a program may name (R234, R235): none, or its trap; `last` is the last byte's offset from it. An accumulator of a peer group that
has ended, whose banks R47 has freed, is one that the group does not have: SUB 5; one that ends after the issue reads 0 and drops writes (DESIGN CHOICE,
log 135). -/
def opmTrap (s : State) (gk off last : Nat) : Option TrapInfo :=
  let win := bits off 39 36
  let six : Option TrapInfo := some { kind := .tether, sub := 6 }
  if bits off 56 40 ≠ 0 || 2 ≤ win || bits off 35 26 ≠ 0 then six
  else if win = 0 then
    let ea := off % 2 ^ 26
    if (s.scratchGroup gk ea).isNone || s.scratchSize gk ≤ ea % 2 ^ 18 + last then some { kind := .scrBound, va := ea } else none
  else if bitOf off 25 then six
  else
    match s.scratchGroup gk (bits off 24 18 * 2 ^ 18) with
    | none => some { kind := .scrBound, va := off % 2 ^ 26 }
    | some g =>
      let n := (s.group g).banks.length
      if n ≤ off % 2 ^ 18 / 2 ^ 16 then some { kind := .tether, sub := 5, detail := bits off 17 16 }
      else if n * 2 ^ 16 ≤ off % 2 ^ 18 + last then six
      else none

/-- A region of a space from a base to its last byte: what R231, R233 and R235 find at issue, in the order of R263. A scratch address is
the base's bits [31:0]: of a scale stream's SBASE with SSPACE 1 the bits [56:32], of which R145 says nothing, are ignored (DESIGN CHOICE,
log 99). -/
def regionTrap (s : State) (gk space base last : Nat) : Option TrapInfo :=
  if space = 0 then none
  else if space = 1 then
    if bits base 31 26 ≠ 0 || (s.scratchGroup gk base).isNone || s.scratchSize gk ≤ base % 2 ^ 18 + last then
      some { kind := .scrBound, va := base }
    else none
  else opmTrap s gk base last

/-! ### Accumulator words -/

/-- An accumulator element as the OPM reads and writes it (R235). -/
def State.accWord (s : State) (quad key : Nat) : Nat :=
  let r := mgetD (s.quad quad).acc key {}
  if r.ok then res32Word r else poisonWord
def setAccWord (s : State) (quad key w : Nat) : State :=
  let r : Residue := if isPoison w then { chk := 1 } else ofRes32 w
  s.modQuad quad fun q => { q with acc := mput q.acc key r }

/-! ### Reading and writing as an engine -/

/-- What an engine's access comes to: done; it waits; a fault with its address and whether it wrote; uncorrectable data
with the die that found it. -/
inductive Eng (α : Type)
  | ok (a : α)
  | hold
  | fault (k : PageFault) (va : Nat) (wr : Bool) (det : Nat)
  | data (sub det : Nat)
  deriving DecidableEq, Repr

/-- An answer as an engine's outcome. -/
def engOf (va : Nat) (wr : Bool) : Served → Eng (List Byte)
  | .done (.performed bs) => .ok bs
  | .done (.fault k det) => .fault k va wr det
  | .done (.data sub det) => .data sub det
  | _ => .hold

/-- A global access by an engine on behalf of a group: plain, at the home that its die's replica gives. -/
def engRead (s : State) (gk va n : Nat) : Eng (List Byte) × State :=
  let die := dieOfCore (coreOfGroup gk)
  let ag : Agent := { die := die, group := some gk }
  let vas := (s.flight (s.flightKey gk)).vas
  match agentCheck s die vas va .read with
  | (.hold, _, s) => (.hold, s)
  | (.no a, _, s) => (engOf va false (.done a), s)
  | (.ok _ _, h, s) =>
    let (r, s) := loadPlain s die h vas va n ag
    (engOf va false r, s)
def engWrite (s : State) (gk va : Nat) (data : List Byte) : Eng (List Byte) × State :=
  let die := dieOfCore (coreOfGroup gk)
  let ag : Agent := { die := die, group := some gk }
  let vas := (s.flight (s.flightKey gk)).vas
  match agentCheck s die vas va .write with
  | (.hold, _, s) => (.hold, s)
  | (.no a, _, s) => (engOf va true (.done a), s)
  | (.ok _ _, h, s) =>
    let (r, s) := storePlain s die h vas va data ag
    (engOf va true r, s)

/-- The bytes, at most n and at most to the end of a 4-byte word, that one access at a spot reads: their number and value. The matrix engine's
reads are loads of the group's threads, which see the ballast (R208, R415). -/
def spotRead (s : State) (gk n : Nat) : Spot → Eng (Nat × Nat) × State
  | .glob va =>
    let k := min n (4 - va % 4)
    match engRead s gk va k with
    | (.ok bs, s) => (.ok (k, leValue bs), s)
    | (.hold, s) => (.hold, s)
    | (.fault e a w d, s) => (.fault e a w d, s)
    | (.data x d, s) => (.data x d, s)
  | .own va =>
    let k := min n (4 - va % 4)
    match engRead s gk (va / 4 * 4) 4 with
    | (.ok bs, s) => (.ok (k, leValue (((ballastOver (s.group gk).ballast noThread 0 (va / 4 * 4) bs).drop (va % 4)).take k)), s)
    | (.hold, s) => (.hold, s)
    | (.fault e a w d, s) => (.fault e a w d, s)
    | (.data x d, s) => (.data x d, s)
  | .cell a =>
    (if (mget s.bad (cellBad a)).isSome then .data 1 (dieOfCore (coreOfGroup gk)) else .ok (1, (Memory.get s.mem a).toNat), s)
  | .acc q key b => (.ok (1, s.accWord q key / 2 ^ (8 * b) % 256), s)
  | .busy => (.hold, s)
  | .none => (.ok (1, 0), s)

/-- The first bytes of a value, at most n and at most to the end of a 4-byte word, written at a spot: their number. -/
def spotWrite (s : State) (gk v n : Nat) : Spot → Eng Nat × State
  | .glob va | .own va =>
    let k := min n (4 - va % 4)
    match engWrite s gk va (leBytes k v) with
    | (.ok _, s) => (.ok k, s)
    | (.hold, s) => (.hold, s)
    | (.fault e a w d, s) => (.fault e a w d, s)
    | (.data x d, s) => (.data x d, s)
  | .cell a => (.ok 1, { s with mem := Memory.put s.mem a (BitVec.ofNat 8 v) })
  | .acc q key b =>
    if b = 0 && 4 ≤ n then (.ok 4, setAccWord s q key (v % 2 ^ 32))
    else
      let w := s.accWord q key
      (.ok 1, setAccWord s q key (w - w / 2 ^ (8 * b) % 256 * 2 ^ (8 * b) + v % 256 * 2 ^ (8 * b)))
  | .busy => (.hold, s)
  | .none => (.ok 1, s)

/-- A place of a region: its spots by byte offset. -/
abbrev Region := Nat → Spot

/-- The n bytes of a region from byte a on as a number; `fuel` bounds the accesses. -/
def readSpan (s : State) (gk : Nat) (rg : Region) (a n : Nat) : Nat → Eng Nat × State
  | 0 => (.ok 0, s)
  | fuel + 1 =>
    if n = 0 then (.ok 0, s)
    else
      match spotRead s gk n (rg a) with
      | (.ok (k, v), s) =>
        match readSpan s gk rg (a + k) (n - k) fuel with
        | (.ok r, s) => (.ok (v + 2 ^ (8 * k) * r), s)
        | x => x
      | (.hold, s) => (.hold, s)
      | (.fault e x w d, s) => (.fault e x w d, s)
      | (.data x d, s) => (.data x d, s)

/-- The n bytes of a number written from byte a of a region on. -/
def writeSpan (s : State) (gk : Nat) (rg : Region) (a v n : Nat) : Nat → Eng Nat × State
  | 0 => (.ok 0, s)
  | fuel + 1 =>
    if n = 0 then (.ok 0, s)
    else
      match spotWrite s gk v n (rg a) with
      | (.ok k, s) => writeSpan s gk rg (a + k) (v / 2 ^ (8 * k)) (n - k) fuel
      | x => x

/-- The bits b to b + w - 1 of a region: whole bytes at once, in words of at most 4 bytes. -/
def readBits (s : State) (gk : Nat) (rg : Region) (b w : Nat) : Eng Nat × State :=
  match readSpan s gk rg (b / 8) ((b + w - 1) / 8 - b / 8 + 1) 8 with
  | (.ok v, s) => (.ok (v / 2 ^ (b % 8) % 2 ^ w), s)
  | x => x

/-- A 4-byte word changed at its home in one step, for a group's engine (R216, R284). -/
def engUpdate (s : State) (gk va : Nat) (acc : Acc) (f : Nat → Nat) : Eng Nat × State :=
  let die := dieOfCore (coreOfGroup gk)
  let vas := (s.flight (s.flightKey gk)).vas
  match agentCheck s die vas va acc with
  | (.hold, _, s) => (.hold, s)
  | (.no a, _, s) =>
    match engOf va true (.done a) with
    | .fault k va w d => (.fault k va w d, s)
    | _ => (.hold, s)
  | (.ok _ _, h, s) =>
    let (r, s) := updateAtHome s die h vas va 4 acc { die := die, group := some gk } none fun old => (leBytes 4 (f (leValue old)), [])
    match engOf va true r with
    | .ok _ => (.ok 0, s)
    | .hold => (.hold, s)
    | .fault k va w d => (.fault k va w d, s)
    | .data a d => (.data a d, s)

/-- The bits that a mask names of the word at byte 4·n of a region, whose base is 4-aligned: a part of a word is one indivisible masked
write at the word's home or bank, which leaves the other bits (R284). -/
def writeWord (s : State) (gk : Nat) (rg : Region) (n mask v : Nat) : Eng Nat × State :=
  if mask = 2 ^ 32 - 1 then writeSpan s gk rg (4 * n) v 4 8
  else
    match rg (4 * n) with
    | .glob va => engUpdate s gk va .write fun old => mergeBits old mask v
    | _ =>
      match readSpan s gk rg (4 * n) 4 8 with
      | (.ok old, s) => writeSpan s gk rg (4 * n) (mergeBits old mask v) 4 8
      | x => x

/-- One entry of the ballast performed for its group, as an engine's access. -/
def flushEntry (s : State) (gk : Nat) (b : BStore) : Eng Nat × State :=
  match b.upd with
  | some u => engUpdate s gk b.addr .rw u.apply
  | none =>
    match engWrite s gk b.addr b.data with
    | (.ok _, s) => (.ok 0, s)
    | (.hold, s) => (.hold, s)
    | (.fault k va w d, s) => (.fault k va w d, s)
    | (.data a d, s) => (.data a d, s)

/-- The ballast's entries that nothing holds performed for the group by an engine, in their order (R416), up to one that waits or faults; entries
that a thread's commit has sent are waited for. -/
def engCommit (s : State) (gk : Nat) : Nat → Eng Nat × State
  | 0 => (.ok 0, s)
  | n + 1 =>
    match (s.group gk).ballast.find? fun b => !b.held && !b.rel with
    | none => (.ok 0, s.modGroup gk fun g => { g with opened := false })
    | some b =>
      if b.req ≠ 0 then (.hold, s)
      else
        match flushEntry s gk b with
        | (.ok _, s) => engCommit (s.modGroup gk fun g => { g with ballast := g.ballast.erase b, opened := false }) gk n
        | x => x

/-- Room in the ballast for n bytes that an engine stores for a group: a store that finds it full commits it (R416). -/
def roomFor (s : State) (gk tk n : Nat) : Eng Nat × State :=
  if s.ballastRoom tk n then (.ok 0, s)
  else
    match engCommit s gk (s.group gk).ballast.length with
    | (.ok _, s) => (if s.ballastRoom tk n then .ok 0 else .hold, s)
    | x => x

/-- The region of a tether's elements, and of its scale stream; `me` is the matrix entry that works on it. -/
def elemRegion (s : State) (gk : Nat) (t : List Word) (me : Nat := 0) : Region := spotOf s gk (tSpace t) (tBase t) (tSwz t) me
def scaleRegion (s : State) (gk : Nat) (t : List Word) (me : Nat := 0) : Region := spotOf s gk (tSspace t) (tSbase t) false me

/-- The code of element (i, j). -/
def readElem (s : State) (gk : Nat) (t : List Word) (rg : Region) (i j : Nat) : Eng Nat × State :=
  readBits s gk rg (tBit t i j) (tWidth t)
/-- A code of whole bytes written at element (i, j). -/
def writeElem (s : State) (gk : Nat) (t : List Word) (rg : Region) (i j v : Nat) : Eng Nat × State :=
  writeSpan s gk rg (tBit t i j / 8) v (tWidth t / 8) 8

end Sys2Proof.Machine
end

