-- ==== Sys2Proof/Machine/Copies.lean ====
section
/-! DEFINITION. The words of the copy family: rights (R79), checks at issue (R285, R295, R297), and the entry that they put
into the quad's streamer queue (R282). -/

namespace Sys2Proof.Machine

set_option Elab.async false

/-- Halves of a coordinate word. -/
def hiHalf (w : Word) : Nat := bits w.toNat 31 16
def loHalf (w : Word) : Nat := bits w.toNat 15 0

/-- Rows n and columns m of a copy (R284), 0 where the origin lies outside. -/
def copyRows (e : SEntry) : Nat :=
  match e.kind with
  | .copy | .combine => tRows e.dst - hiHalf e.c1
  | .gather => tRows e.dst - hiHalf e.c1
  | .scatter => tRows e.src - hiHalf e.c1
def copyCols (e : SEntry) : Nat :=
  match e.kind with
  | .copy | .combine => tCols e.dst - loHalf e.c1
  | .gather => tCols e.dst
  | .scatter => tCols e.src

/-- Every source element read lies within S, every destination element within T (R285). -/
def copyFits (e : SEntry) : Bool :=
  let n := copyRows e
  let m := copyCols e
  n ≠ 0 && m ≠ 0 &&
    (match e.kind with
     | .copy | .combine => hiHalf e.c0 + n ≤ tRows e.src && loHalf e.c0 + m ≤ tCols e.src
     | .gather => loHalf e.c1 + m ≤ tCols e.src
     | .scatter => loHalf e.c1 + m ≤ tCols e.dst)

/-- The last byte, counted from BASE, that elements (i, j) up to the last row and column of a part of a tether reach. -/
def lastByte (t : List Word) (rows cols : Nat) : Nat := (tBit t (rows - 1) (cols - 1) + tWidth t - 1) / 8

/-- The last byte of the source and of the destination that a copy can touch; the indexed side counts as a whole (log 16). -/
def srcLast (e : SEntry) : Nat :=
  match e.kind with
  | .copy | .combine => lastByte e.src (hiHalf e.c0 + copyRows e) (loHalf e.c0 + copyCols e)
  | .gather => lastByte e.src (tRows e.src) (loHalf e.c1 + copyCols e)
  | .scatter => lastByte e.src (tRows e.src) (tCols e.src)
def dstLast (e : SEntry) : Nat :=
  match e.kind with
  | .copy | .combine | .gather => lastByte e.dst (tRows e.dst) (tCols e.dst)
  | .scatter => lastByte e.dst (tRows e.dst) (loHalf e.c1 + copyCols e)

/-- The kind reads an index list, whose address word 0 of the coordinates gives (R283). -/
def CopyKind.indexed : CopyKind → Bool
  | .gather | .scatter => true
  | _ => false

/-- COMBINE's own checks (R297). -/
def combineTrap (e : SEntry) : Option TrapInfo :=
  let f := tFmt e.dst
  let con := e.con.toNat
  let no (sub : Nat) : Option TrapInfo := some { kind := .tether, sub := sub }
  if f ≠ 8 && f ≠ 9 && f ≠ 3 then no 3
  else if f = 3 && !bitOf con 24 then no 3
  else if tSpace e.dst ≠ 0 then no 4
  else if 16384 < copyRows e * copyCols e * 4 then no 4
  else if con % 4096 = 0 || con % 4096 ≤ bits con 23 12 || bits con 31 25 ≠ 0 then no 4
  else none

/-- The reel checks of a copy with KIND 0 (R295, cases 2, 1 and 6), then the layout of the header's scratch address `ea` (R231), in the
order of R263. -/
def copyReelTrap (s : State) (gk : Nat) (e : SEntry) (ea : Nat) : Option TrapInfo :=
  let h := ea % 2 ^ 18
  let no (sub : Nat) : Option TrapInfo := some { kind := .reel, sub := sub, va := ea, detail := h }
  if foreignHeader s gk ea then no 2
  else
    match s.reel? gk h with
    | none => no 1
    | some r =>
      if r.claimed = r.nslot || r.slotb ≤ dstLast e then no 6
      else if bits ea 31 26 ≠ 0 then some { kind := .scrBound, va := ea }
      else none

/-- First failing test of a list. -/
def firstTrap (l : List (Option TrapInfo)) : Option TrapInfo := (l.find? fun o => o.isSome).join

/-- A trap when a condition holds. -/
def trapIf (c : Bool) (t : TrapInfo) : Option TrapInfo := if c then some t else none

/-- What a copy finds at issue (R285, R295, R297), in the order of R263; `sy` is SYNC's pair. With KIND 0 the streamer ignores T's SPACE and
BASE (R293), so of T's place only the validity of an OPM offset and the alignment of BASE are checked. -/
def copyTrap (s : State) (gk dt sl : Nat) (e : SEntry) (sy : Nat) : Option TrapInfo :=
  let teth (sub slot : Nat) : TrapInfo := { kind := .tether, sub := sub, detail := slot }
  let region (img : List Word) (last : Nat) : Option TrapInfo := regionTrap s gk (tSpace img) (tBase img) last
  let isTeth (o : Option TrapInfo) : Bool := (o.map fun t => decide (t.kind = .tether)).getD false
  let dst : Option TrapInfo :=
    if e.byCtr then region e.dst (dstLast e) else if tSpace e.dst = 2 then opmTrap s gk (tBase e.dst) 0 else none
  let src := region e.src (srcLast e)
  firstTrap
    [trapIf ((s.tether gk dt).isNone) (teth 1 dt), trapIf ((s.tether gk sl).isNone) (teth 1 sl),
     trapIf (tFmt e.src ≠ tFmt e.dst) (teth 3 dt), trapIf (!copyFits e) (teth 4 dt), trapIf (tStride e.dst = 0) (teth 7 dt),
     (if isTeth src then src else none), (if isTeth dst then dst else none),
     (if e.kind = .combine then combineTrap e else none),
     trapIf (!e.byCtr && (e.kind = .scatter || e.kind = .combine)) { kind := .reel, sub := 7, va := sy % 2 ^ 32, detail := sy % 2 ^ 18 },
     (if e.byCtr then none else copyReelTrap s gk e (sy % 2 ^ 32)),
     src, (if e.byCtr then dst else none),
     (if e.kind.indexed then regionTrap s gk 1 e.c0.toNat (4 * copyRows e - 1) else none),
     trapIf (e.byCtr && 2 ^ 57 ≤ sy) { kind := .page, sub := 6, va := sy % 2 ^ 57, detail := 1 + 2 * dieOfCore (coreOfGroup gk) },
     trapIf (tBase e.src % 4 ≠ 0) { kind := .align, va := tBase e.src },
     trapIf (tBase e.dst % 4 ≠ 0) { kind := .align, va := tBase e.dst },
     trapIf (e.kind.indexed && e.c0.toNat % 4 ≠ 0) { kind := .align, va := e.c0.toNat },
     trapIf (e.byCtr && sy % 8 ≠ 0) { kind := .align, va := sy }]

/-- One lane of a copy-family word: the right of R79, the checks, then the request, sent once the rest of the block is
accepted (R108) and, in a marionette flight, once the twin asks the same (R83). -/
def copyLane (kind : CopyKind) (dt sl : Nat) (c y : Opnd) (byCtr : Bool) (s : State) (tk : Nat) : State :=
  let t := s.thread tk
  let gk := s.groupKey tk
  let sy := if byCtr then (t.pair y).toNat else (t.src y).toNat
  let img (n : Nat) : List Word := (s.tether gk n).getD []
  let e : SEntry :=
    { group := gk, kind := kind, src := img sl, dst := img dt, c0 := t.srcWord 0 c, c1 := t.srcWord 1 c
      key := if kind = .combine then t.srcWord 2 c else 0, con := if kind = .combine then t.srcWord 3 c else 0
      byCtr := byCtr, sync := sy, core := coreOfThread tk, thread := tk }
  if (s.flightOf tk).hdr.producer ≠ (s.wave (waveKeyOf tk)).f1 then trapThread s tk { kind := .copyRights }
  else
    match copyTrap s gk dt sl e sy with
    | some ti => issueTrap s tk true ti
    | none =>
      let s := noteSend s tk (0x33 + dt * 256 + sl * 65536) sy (dataBytes [e.c0, e.c1, e.key, e.con] 16)
      if t.twin then s
      else
        pushReq s { Req.of s tk with kind := .copy e, late := true, commits := tSpace e.src = 0, waitTwin := if (s.hdrOf tk).marionette then [slotOf tk] else [] }

/-- A copy request performed: a full streamer queue holds the thread (R80), and so does an entry that its group has issued earlier (R256); a reel's slot is claimed (R293). -/
def performCopy (s : State) (r : Req) (e : SEntry) : State :=
  let gk := e.group
  let qk := quadOfCore e.core
  let q := s.quad qk
  let hdr := e.sync % 2 ^ 18
  if 16 ≤ q.queue.length || s.postsBehind r then s
  else
    match if e.byCtr then none else copyReelTrap s gk e (e.sync % 2 ^ 32) with
    | some ti => askedTrap (s.dropReq r.id) r.tk { ti with off := r.off, ord := r.ord }
    | none =>
      let s := s.dropReq r.id
      let (n, s) := nextSeq s gk
      let claim : Nat := match s.reel? gk hdr with | some x => x.claim | none => 0
      let s :=
        if e.byCtr then s
        else match s.reel? gk hdr with
          | some x => setReel s gk { x with claim := (x.claim + 1) % 2 ^ 32 }
          | none => s
      let e := { e with id := s.nextId, seq := n, slot := claim }
      { s.modQuad qk fun q => { q with queue := q.queue ++ [e] } with nextId := s.nextId + 1 }

/-- COPY (R284). -/
def execCopy (dt sl : Nat) (c y : Opnd) (k : Bool) (st : State) : Host.Outcome State Fault Refusal :=
  runWord (.copy dt sl c y k) (eachOn (copyLane .copy dt sl c y k)) st

/-- GATHER (R284). -/
def execGather (dt sl : Nat) (c y : Opnd) (k : Bool) (st : State) : Host.Outcome State Fault Refusal :=
  runWord (.gather dt sl c y k) (eachOn (copyLane .gather dt sl c y k)) st

/-- SCATTER (R284). -/
def execScatter (dt sl : Nat) (c y : Opnd) (k : Bool) (st : State) : Host.Outcome State Fault Refusal :=
  runWord (.scatter dt sl c y k) (eachOn (copyLane .scatter dt sl c y k)) st

/-- COMBINE (R296). -/
def execCombine (dt sl : Nat) (c y : Opnd) (k : Bool) (st : State) : Host.Outcome State Fault Refusal :=
  runWord (.combine dt sl c y k) (eachOn (copyLane .combine dt sl c y k)) st

end Sys2Proof.Machine
end

