-- ==== Sys2Proof/Machine/Leave.lean ====
section
/-! DEFINITION. How a thread leaves and how a group ends: EXIT (R345), the end of a group by its last thread, by a kill
(R409) or for relaunch (R417), what it frees (R47), and its exit record (R443, R444). -/

namespace Sys2Proof.Machine

set_option Elab.async false

/-! ### Hashes (R449, R451) -/

/-- One byte folded by FNV-1a. -/
def fnvByte (h b : Nat) : Nat := (h ^^^ b) * 0x100000001B3 % 2 ^ 64
/-- A value of n bytes folded, least significant byte first. -/
def fnvBytes (h v : Nat) : Nat → Nat
  | 0 => h
  | n + 1 => fnvBytes (fnvByte h (v % 256)) (v / 256) n

/-- The path hash at a head: its ordinal, with bit 31 set when RET reached it; the head of a trapped block is folded once. -/
def Thread.foldPath (t : Thread) (ord : Nat) : Thread :=
  if t.folded then t
  else if t.skipFold.contains ord then { t with folded := true, skipFold := t.skipFold.erase ord }
  else { t with pathH := fnvBytes t.pathH (ord % 2 ^ 31 + 2 ^ 31 * t.viaRet.toNat) 4, folded := true }

/-- The store hash at the end of a block: each store's address, size and data, in program order. -/
def Thread.foldStores (t : Thread) : Thread :=
  { t with
    storeH := t.stores.foldl (fun h e =>
      e.data.foldl (fun h b => fnvByte h b.toNat) (fnvByte (fnvBytes h e.addr 8) e.size)) t.storeH
    stores := [], sends := [] }

/-- A thread put back to the head of its block, with its registers as they stood there (R66, R413), and to its place in the wave
bundle that the block needs (R223, R226, log 33); requests below `first` no
longer belong to a block of it. Its head is folded once (R449). The block meets its TRAP or BKPT word anew (R410). -/
def Thread.rewind (t : Thread) (first : Nat) : Thread :=
  { t.withDefers (t.defers.filter fun d => !d.own) with
    regs := t.headRegs, rnd := t.headRnd, ftz := t.headFtz, next := t.head, ahead := t.here, viaRet := t.headRet
    bend := (match t.wgen with | some p => .join p.1 | none => .go), jgen := t.wgen.map (·.2)
    pend := [], cands := [], first := first, folded := true, stores := [], sends := [], blockNo := t.blockNo - 1, sEnd := false
    relSig := t.headSig, compared := min t.compared (t.blockNo - 1), done := t.done.filter fun b => b.no < t.blockNo }

/-! ### Tokens and wake tables -/

/-- A thread gives up the solitary token, and its place in the token's FIFO (R330). -/
def dropToken (s : State) (tk : Nat) : State :=
  s.modDie (dieOfThread tk) fun d =>
    { d with token := if d.token = some tk then none else d.token, tokenQ := d.tokenQ.filter (· ≠ tk) }

/-- A thread's bits leave the core's wake table; empty entries are freed (R333). -/
def dropWakes (s : State) (tk : Nat) : State :=
  s.modCore (coreOfThread tk) fun c =>
    { c with
      wakes := (c.wakes.map fun e => { e with vec := clrBit e.vec (slotOf tk) }).filter fun e => e.vec ≠ 0
      coarse := c.coarse.map fun p => (p.1, clrBit p.2 (slotOf tk)) }

/-- Watches of a thread end at every home (R322). -/
def dropWatches (s : State) (tk : Nat) : State :=
  let mine (w : Watch) : Bool := w.core = coreOfThread tk && w.slot = slotOf tk
  { s with
    dies := s.dies.map fun p =>
      (p.1, { p.2 with dir := p.2.dir.map fun q => (q.1, { q.2 with watches := q.2.watches.filter fun w => !mine w }) })
    groups := s.groups.map fun p =>
      (p.1, { p.2 with reels := p.2.reels.map fun r => { r with watch := r.watch.filter (· ≠ tk) } }) }

/-- The requests of a thread that are still to be sent are discarded: it leaves their lanes, and a ballast store that one
of them would have performed waits for the next commit. -/
def dropLane (tk : Nat) (r : Req) : Option Req :=
  if coreOfThread tk ≠ r.core then some r
  else
    let ls := r.lanes.filter fun l => l.slot ≠ slotOf tk
    if ls = [] then none else some { r with lanes := ls, waitTwin := r.waitTwin.filter (· ≠ slotOf tk) }
def dropReqs (s : State) (tk : Nat) (p : Req → Bool) : State :=
  let gone : List Nat := (s.reqs.filter fun r => r.ofThread tk && p r).map fun r => r.id
  let s := { s with reqs := s.reqs.filterMap fun (r : Req) => if gone.contains r.id then dropLane tk r else some r }
  s.modGroup (s.groupKey tk) fun g =>
    let lost (b : BStore) : Bool := gone.contains b.req && (s.req? b.req).isNone
    { g with ballast := (g.ballast.filter fun b => !(lost b && b.rel)).map fun b => if lost b then { b with req := 0 } else b }

/-! ### The end of a group -/

/-- SREAD's FLIGHT value (R127). -/
def Flight.number (f : Flight) : Nat := f.die * 2 ^ 21 + f.seq % 2 ^ 21

/-- Codes of END in an exit record (R443). -/
def exitWords (s : State) (gk code : Nat) : List Nat :=
  let g := s.group gk
  let f := s.flight (s.flightKey gk)
  let ck := coreOfGroup gk
  let stalls := (List.range 16).foldl (fun v i => v + mgetD g.stalls i 0 * 2 ^ (48 * i)) 0
  [s.gid gk,
   f.number + 2 ^ 33 * (s.train g.train).placedLocal.toNat + 2 ^ 34 * code + 2 ^ 38 * g.evskip.toNat + 2 ^ 39 * (ck % 128)
     + 2 ^ 46 * dieOfCore ck,
   g.pathSum, g.storeSum] ++ (List.range 12).map fun i => stalls / 2 ^ (64 * i) % 2 ^ 64

/-- The claim on a core's event counters ends when the core holds no group of the session (R444). -/
def releaseClaim (s : State) (ck : Nat) : State :=
  let c := s.core ck
  if c.claim = 0 then s
  else if (s.groupsOn ck).any fun gk => (s.flight (s.flightKey gk)).sessionKey = some (c.claim - 1) then s
  else s.setCore ck { c with claim := 0, events := [] }

/-- A group ends: its exit record is queued, its wave slots, granules, tether slots and accumulator banks are freed; its
scratch pages stay until its train ends (R47), and its reels while copies that name them are still to be performed (R293). -/
def endGroup (s : State) (gk code : Nat) : State :=
  let g := s.group gk
  if g.ended then s
  else
    let ck := coreOfGroup gk
    let die := dieOfCore ck
    let f := s.flight (s.flightKey gk)
    let counted := s.isCounted gk
    let rec' : ExitRec :=
      { train := g.train, group := gk, words := exitWords s gk code, session := f.sessionKey, g := s.groupNumber gk, pass := f.pass, reg := f.reg
        core := ck, since := (s.core ck).cycles
        events := if counted then (List.range 4).map fun i => mgetD (s.core ck).events i 0 else [] }
    let s := if counted then s.modCore ck fun c => { c with events := [] } else s
    let s := s.modDie die fun d => { d with exits := d.exits ++ [rec'] }
    let waves := g.wslots.map fun w => ck * 8 + w
    let copies := (s.quad (quadOfCore ck)).queue.any fun e => e.group = gk
    let s := { s with
      waves := s.waves.filter fun p => !waves.contains p.1
      threads := s.threads.filter fun p => !(coreOfThread p.1 = ck && g.wslots.contains (slotOf p.1 / 64)) }
    let s := s.modGroup gk fun g =>
      { g with wslots := [], banks := [], tethers := [], reels := if copies then g.reels else [], active := none, shadow := none, opm := [], ballast := [], fences := if copies then g.fences else []
               zeroing := 0, ended := true }
    releaseClaim s ck

/-- The end code of a group: a kill of any of its threads marks it (R409, R443). -/
def Group.endCode (g : Group) : Nat := if g.faulted then 2 else if g.killed then 1 else 0

/-- A thread leaves for good (R345): its hashes join its group's, its masks are evaluated, and the last thread ends the
group. -/
def leaveThread (s : State) (tk : Nat) : State :=
  let gk := s.groupKey tk
  let t := (s.thread tk).foldStores
  let s := dropWatches (dropWakes (dropToken (unplace s tk) tk) tk) tk
  let s := s.setThread tk { t with stat := .exited }
  let s :=
    if t.twin then s
    else s.modGroup gk fun g => { g with pathSum := (g.pathSum + t.pathH) % 2 ^ 64, storeSum := (g.storeSum + t.storeH) % 2 ^ 64 }
  let s := evalMasks s (waveKeyOf tk)
  if s.threadsOf gk = [] then endGroup s gk (s.group gk).endCode else s

/-- The ballast's committed stores made at once, as plain stores of the group, in their order; one that cannot be made is
lost (log 17). -/
def flushBallast (s : State) (gk : Nat) : State :=
  (s.group gk).ballast.foldl (fun s b => if b.held then s else (flushEntry s gk b).2) s

/-- A group is killed: every thread ends as though by EXIT, its engine entries are withdrawn (R226, R290), and it ends.
A CUT follows its queued trace records, for the reason `why`, none for 0 (R439). `keep`: its ballast is committed, as at the exit of its
last thread (R416); else it is discarded (R417). -/
def killGroupFor (s : State) (gk code why : Nat) (keep : Bool) : State :=
  if (s.group gk).ended then s
  else
    let ts := s.threadsOf gk
    let ck := coreOfGroup gk
    let s := ts.foldl (fun s tk => dropReqs s tk fun _ => true) s
    let s := if keep then flushBallast s gk else dropFetched s ck (s.flightKey gk)
    let s := s.modQuad (quadOfCore ck) fun q =>
      { q with
        queue := q.queue.filter fun e => e.group ≠ gk
        table := q.table.filter fun e => e.group ≠ gk
        planeA := q.planeA.filter fun id => !(q.table.any fun e => e.id = id && e.group = gk)
        planeS := q.planeS.filter fun id => !(q.table.any fun e => e.id = id && e.group = gk) }
    let s := s.modDie (dieOfCore ck) fun d => { d with combAdds := d.combAdds.filter fun c => c.group ≠ gk }
    let s := s.withdraw fun p => (match p.body with | .contrib c => c.entry.group = gk | _ => false)
    let s := { s with dies := s.dies.map fun (p : Nat × Die) => (p.1, { p.2 with contribs := p.2.contribs.filter fun (c : Contrib) => c.entry.group ≠ gk }) }
    let s := ts.foldl (fun s tk =>
      let gone := s.setThread tk { (s.thread tk).foldStores with stat := .exited }
      let t := s.thread tk
      let s := dropWatches (dropWakes (dropToken (unplace gone tk) tk) tk) tk
      if t.twin then s
      else s.modGroup gk fun g => { g with pathSum := (g.pathSum + t.pathH) % 2 ^ 64, storeSum := (g.storeSum + t.storeH) % 2 ^ 64 }) s
    let s := s.modGroup gk fun g => { g with killed := g.killed || code = 1 }
    let s :=
      match s.attached (s.flightKey gk) with
      | some (key, _) => if why = 0 then s else pushTrace s gk key {} { kind := 0x0F, label := why }
      | none => s
    endGroup s gk code

/-- A kill whose CUT names the same reason as the exit record's END. -/
def killGroup (s : State) (gk code : Nat) (keep : Bool) : State := killGroupFor s gk code code keep

end Sys2Proof.Machine
end

