-- ==== Sys2Proof/Machine/Tx.lean ====
section
/-! DEFINITION. Transactions: levels and checkpoints (R319 to R321), validation and commit (R325, R326), aborts and the
solitary token (R327 to R330), RETRY, sleeping and waking (R331 to R334). The words stand in TxWords.lean. -/

namespace Sys2Proof.Machine

set_option Elab.async false

/-- REASON codes of TXSTAT (R339). -/
def whyAbort : Nat := 1
def whyConflict : Nat := 2
def whyWake : Nat := 3
def whyPreempt : Nat := 5
def whyTrap : Nat := 6
def whyToken : Nat := 7

/-! ### Checkpoints (R320, R321) -/

/-- The registers that a checkpoint holds: those the live map marks, and in Glomer form the whole spill area, which stands at
the numbers from NREGS on. -/
def checkpoint (t : Thread) (live nregs : Nat) : AMap Word :=
  t.regs.filter fun p => bitOf live p.1 || (t.glomer && nregs ≤ p.1)

/-- A thread put back to a level's checkpoint, to go on at a head: outstanding results and what its block had found are
discarded. -/
def Thread.backTo (t : Thread) (l : Level) (next first : Nat) : Thread :=
  { t with
    regs := l.ckpt, glomer := l.glomer, next := next, viaRet := false, bend := .go, jgen := none, pend := [], cands := []
    deferred := (t.defers.filter fun d => !d.own).head?, owed := (t.defers.filter fun d => !d.own).drop 1
    doomed := false, first := first, stores := [], sends := [], folded := false
    blockNo := l.no - 1, compared := min t.compared (l.no - 1), done := t.done.filter fun b => b.no < l.no
    lvq := t.lvq.filter fun e => e.1 < l.no }

/-- The level of a thread that its block number names. -/
def Thread.levelAt (t : Thread) (no : Nat) : Option Level := t.tx.find? fun l => l.no = no

/-- A thread and its twin go back to a level, which `f` changes further (R335): the transactional accesses made since the level was opened
and still on their way are discarded with its writes, and so are scratch stores that still wait for the comparison with the twin. A twin that has not reached the level only forgets the results that it was still to
take. -/
def goBack (s : State) (tk : Nat) (l : Level) (f : Level → Thread → Thread) : State :=
  let s := dropReqs s tk fun r => r.tx && l.first ≤ r.id
  let s := s.modGroup (s.groupKey tk) fun g => { g with ballast := g.ballast.filter fun b => !(b.thread = tk && b.held && l.no ≤ b.block) }
  let first := s.nextId
  let s := s.modThread tk (f l)
  match s.twinOf tk with
  | none => s
  | some w =>
    match (s.thread w).levelAt l.no with
    | none => s.modThread w fun t => { t with lvq := t.lvq.filter fun e => e.1 < l.no }
    | some lw =>
      let s := unplace s w
      s.modThread w fun t => { (f lw t) with stat := .ret, first := first }

/-! ### Aborts -/

/-- Every level is closed and the outermost checkpoint is restored (R327, R332, R335): the thread continues at its head. -/
def closeAll (s : State) (tk : Nat) (why : Nat) : State :=
  match (s.thread tk).tx.getLast? with
  | none => s
  | some l =>
    let mine (m : WakeMsg) : Bool := !m.all && m.core = coreOfThread tk && m.slot = slotOf tk
    let s := (dropWatches s tk).withdraw fun p => (match p.body with | .wake m => mine m | _ => false)
    let s := s.modDie (dieOfThread tk) fun d => { d with wakes := d.wakes.filter fun m => !mine m }
    goBack s tk l fun l t =>
      { t.backTo l l.head s.nextId with tx := [], txReason := why, skipFold := if why = whyTrap then t.skipFold ++ [t.ord] else t.skipFold }

/-- After 8 conflict aborts the next attempt waits for the token, in the FIFO of its die (R330). -/
def queueToken (s : State) (tk : Nat) : State :=
  let d := s.die (dieOfThread tk)
  if (s.thread tk).confl < 8 || d.token = some tk then s
  else
    let s := s.modThread tk fun t => { t with wantToken := true }
    s.modDie (dieOfThread tk) fun d => { d with tokenQ := if d.tokenQ.contains tk then d.tokenQ else d.tokenQ ++ [tk] }

/-- A conflict abort (R327, R330): counted, and the attempt restarts. -/
def conflictAbort (s : State) (tk : Nat) (why : Nat) : State :=
  let s := (closeAll s tk why).countEvent (coreOfThread tk) [s.groupKey tk] 12 1
  queueToken (s.modThread tk fun t => { t with confl := min 8 (t.confl + 1) }) tk

/-- The attempt is doomed (R327): it restarts at its next head. -/
def doom (s : State) (tk : Nat) (why : Nat) : State :=
  s.modThread tk fun t => if t.tx = [] || t.doomed then t else { t with doomed := true, doomWhy := why }

/-! ### Validation (R326, R328) -/

/-- A read entry still stands as it was read; none while its home cannot answer. -/
def entryHolds (s : State) (tk : Nat) : ReadEnt → Option Bool
  | .reel gk h ver => some (((s.group gk).reels.find? fun r => r.hdr = h).any fun r => r.ver = ver)
  | .line va ver =>
    let die := dieOfThread tk
    let vas := s.vasOf tk
    match s.leafAt die vas va with
    | .inl _ => some false
    | .inr (l, _) =>
      let h := homeOf l va
      if h ≠ die && (s.openAt h vas va).isSome then none
      else
        match (s.die h).life with
        | .up => some (decide ((mgetD (s.die h).dir (lineKey vas va) {}).ver = ver))
        | .lost => some false
        | _ => none

/-- Every entry of the read set: some has changed, all hold, or a home cannot answer yet. -/
def validate (s : State) (tk : Nat) : Option Bool :=
  let rs := (s.thread tk).readSet.map (entryHolds s tk)
  if rs.contains (some false) then some false else if rs.contains none then none else some true

/-! ### Commit (R325, R326) -/

/-- The buffered bytes of every open level, the innermost last: (address, byte). -/
def Thread.writeSet (t : Thread) : AMap Byte :=
  t.tx.reverse.foldl (fun m l => l.writes.foldl (fun m p => mput m p.1 p.2) m) []

/-- The bytes and the mask of one line of a write set. -/
def lineData (w : AMap Byte) (line : Nat) : List Byte := (List.range 128).map fun i => mgetD w (line + i) 0
def lineMask (w : AMap Byte) (line : Nat) : Nat :=
  (List.range 128).foldl (fun m i => if (mget w (line + i)).isSome then setBit m i else m) 0

/-- How a commit stands: it waits, it must take a conflict abort, or its lines are written. -/
inductive CommitEnd
  | hold | conflict | done (s : State)

/-- The lines of a write set written at their home in ascending order, each after the home's checks and its gate. -/
def commitLines (die vas : Nat) (ag : Agent) (w : AMap Byte) : List Nat → State → CommitEnd
  | [], s => .done s
  | line :: r, s =>
    match s.leafAt die vas line with
    | .inl _ => .conflict
    | .inr (l, _) =>
      if homeOf l line ≠ die then .conflict
      else
        match homeCheck s die vas line .write with
        | (.hold, _) => .hold
        | (.no .moved, _) => .hold
        | (.no .resetting, _) => .hold
        | (.no _, _) => .conflict
        | (.ok l pa, s) =>
          if tokenHolds s die vas line ag then .conflict
          else if snapWaits s die vas line l ag.thread then .hold
          else
            match orderGate s die vas line ag with
            | (false, _) => .hold
            | (true, s) =>
              let s := homeWrite s die vas line l pa (lineData w line) (lineMask w line) ag.core
              commitLines die vas ag w r (noteWrite s die vas line ag (some .domain))

/-- The thread's transaction ends with a commit: its level is closed, its count and token are given up. -/
def closeCommitted (s : State) (tk : Nat) : State :=
  let s := dropToken s tk
  let f (t : Thread) : Thread := { t with tx := [], doomed := false, confl := 0, wantToken := false }
  let s := s.modThread tk f
  match s.twinOf tk with
  | some w => s.modThread w f
  | none => s

/-- The outermost TXEND (R326): validation, write-back, write set, in one step; a DOMAIN-scope SC access (R325), so the
die's non-home copies are dropped as an acquire drops them (R254). -/
def commitTx (s : State) (tk : Nat) : CommitEnd :=
  let t := s.thread tk
  let die := dieOfThread tk
  let lines := (t.writeSet.map fun p => lineOf p.1).eraseDups
  if t.doomed then .conflict
  else
    match validate s tk with
    | none => .hold
    | some false => .conflict
    | some true =>
      match dropNonHome s die with
      | (_, false) => .hold
      | (s, true) =>
        let s := dropWatches s tk
        match commitLines die (s.vasOf tk) { die := die, thread := some tk, group := some (s.groupKey tk) } t.writeSet lines s with
        | .done s => .done (closeCommitted s tk)
        | x => x

/-- The request of an outermost TXEND met: it waits, commits, or dooms its attempt. -/
def performTxend (s : State) (r : Req) : State :=
  match commitTx s r.tk with
  | .hold => s
  | .conflict => doom (s.dropReq r.id) r.tk whyConflict
  | .done s => s.dropReq r.id

/-- An inner TXEND merges the innermost level into the one around it (R326). -/
def Thread.mergeLevel (t : Thread) : Thread :=
  match t.tx with
  | a :: b :: r =>
    { t with tx := { b with
        writes := a.writes.foldl (fun m p => mput m p.1 p.2) b.writes
        reads := b.reads ++ a.reads } :: r }
  | _ => t

/-! ### RETRY (R331 to R333) -/

/-- The bucket of a read entry (R333). -/
def bucketOf : ReadEnt → Nat
  | .reel _ h _ => h / 16 % 64
  | .line va _ =>
    let l := va / 128
    (List.range 9).foldl (fun h i => h ^^^ (l / 64 ^ i % 64)) 0

/-- The home that a key is watched at. -/
def keyHome (s : State) (tk : Nat) : ReadEnt → Nat
  | .reel _ _ _ => dieOfThread tk
  | .line va _ =>
    match s.leafAt (dieOfThread tk) (s.vasOf tk) va with
    | .inr (l, _) => homeOf l va
    | .inl _ => dieOfThread tk

/-- Keys agree: one line of one partition on one home, or one reel. -/
def WakeEnt.isFor (w : WakeEnt) (e : ReadEnt) : Bool := w.key.same e

/-- A sleeping thread entered under one key in its core's wake table. -/
def enterWake (tk : Nat) (s : State) (e : ReadEnt) : State :=
  let home := keyHome s tk e
  s.modCore (coreOfThread tk) fun c =>
    if c.wakes.any fun w => w.isFor e && w.home = home then
      { c with wakes := c.wakes.map fun w => if w.isFor e && w.home = home then { w with vec := setBit w.vec (slotOf tk) } else w }
    else if c.wakes.length < 1024 then { c with wakes := c.wakes ++ [{ key := e, home := home, vec := 2 ^ slotOf tk }] }
    else { c with coarse := mmod c.coarse (bucketOf e) 0 fun v => setBit v (slotOf tk) }

/-- A thread wakes: it restarts at its transaction's head (R332). -/
def wakeThread (s : State) (tk : Nat) : State :=
  if (s.thread tk).stat ≠ .asleep then s
  else
    let s := dropWatches (dropWakes s tk) tk
    let s := s.modThread tk fun t => { t with stat := .ret, txReason := whyWake }
    match s.twinOf tk with
    | some w => s.modThread w fun t => { t with stat := .ret }
    | none => s

/-- The whole transaction sleeps (R332); one whose read set has changed already wakes at once. -/
def sleepTx (s : State) (tk : Nat) : State :=
  match (s.thread tk).tx.getLast? with
  | none => s
  | some l =>
    let rs := (s.thread tk).readSet
    let same := validate s tk
    let s := (dropToken s tk).countEvent (coreOfThread tk) [s.groupKey tk] 13 1
    let s := goBack s tk l fun l t => { t.backTo l l.head s.nextId with tx := [], confl := 0, stat := .asleep }
    let s := match s.twinOf tk with | some w => evalMasks (s.modThread w fun t => { t with stat := .asleep }) (waveKeyOf w) | none => s
    let s := rs.foldl (enterWake tk) s
    if same = some true || rs = [] then evalMasks s (waveKeyOf tk) else wakeThread s tk

/-- RETRY at its thread's block end (R331). -/
def retryTx (s : State) (tk : Nat) : State :=
  let t := s.thread tk
  match t.tx.find? fun l => l.orelse && !l.alt with
  | none => sleepTx s tk
  | some l =>
    goBack s tk l fun l t =>
      let inner := t.tx.takeWhile fun x => x.no ≠ l.no
      { t.backTo l l.path s.nextId with
        tx := { l with alt := true, writes := [], reads := l.reads ++ inner.flatMap fun x => x.reads } :: (t.tx.dropWhile fun x => x.no ≠ l.no).drop 1 }

/-! ### TXABORT (R338) -/

/-- TXABORT at its thread's block end, once validated: it waits, restarts as a conflict, or takes the failure path. -/
def abortTx (s : State) (tk code : Nat) : State :=
  match validate s tk with
  | none => s
  | some false => conflictAbort s tk whyConflict
  | some true =>
    match (s.thread tk).tx.find? fun l => !l.orelse with
    | none => s
    | some l =>
      let s := goBack s tk l fun l t =>
        let inner := t.tx.takeWhile fun x => x.no ≠ l.no
        let outer := (t.tx.dropWhile fun x => x.no ≠ l.no).drop 1
        let kept := l.reads ++ inner.flatMap fun x => x.reads
        { t.backTo l l.path s.nextId with
          txCode := code % 256, txReason := whyAbort
          tx := (match outer with | [] => [] | o :: r => { o with reads := o.reads ++ kept } :: r) }
      if (s.thread tk).tx ≠ [] then s
      else (dropWatches (dropToken s tk) tk).modThread tk fun t => { t with confl := 0 }

/-! ### TXSTAT (R339) -/

/-- TXSTAT's value. -/
def txStatus (s : State) (tk : Nat) (t : Thread) : Word :=
  BitVec.ofNat 32
    (t.txCode * 2 ^ 24 + t.txReason * 2 ^ 20 + t.confl * 2 ^ 16 + t.tx.length * 2 ^ 13
      + ((s.die (dieOfThread tk)).token = some tk : Bool).toNat * 2 ^ 12
      + (t.tx.head?.any fun l => l.orelse && l.alt).toNat * 2 ^ 11 + t.readSet.length * 2 ^ 5 + t.writeLines.length)

/-! ### Notices and wakes (R314, R327, R333, R334) -/

/-- The thread's running attempt has read the key. -/
def readsKey (s : State) (tk : Nat) (m : WakeMsg) : Bool :=
  let t := s.thread tk
  t.tx ≠ [] && t.readSet.any fun e => if m.all then (match e, m.key with | .line _ _, .line _ h => keyHome s tk e = h | _, _ => false) else e.same m.key

/-- Threads of a core that a wake message wakes by a coarse bucket, and all that it wakes. A message tells of a key that the core watches
(log 118). -/
def coarseVec (s : State) (ck : Nat) (m : WakeMsg) : Nat :=
  let c := s.core ck
  if m.all then c.coarse.foldl (fun v p => v ||| p.2) 0 else mgetD c.coarse (bucketOf m.key) 0
def threadsIn (ck vec : Nat) : List Nat := ((List.range 512).filter fun i => bitOf vec i).map (threadKey ck)
def wokenBy (s : State) (ck : Nat) (m : WakeMsg) : List Nat :=
  let c := s.core ck
  let home : Nat := match m.key with | .line _ h => h | .reel _ _ _ => 0
  let vec := (c.wakes.filter fun w => if m.all then w.home = home && (match w.key with | .line _ _ => true | _ => false) else w.isFor m.key).foldl (fun v w => v ||| w.vec) 0
  threadsIn ck (vec ||| coarseVec s ck m)

/-- A message for a core acts: sleeping threads of the key wake, and its thread's running attempt conflicts. -/
def actOnWake (s : State) (m : WakeMsg) : State :=
  let s := (threadsIn m.core (coarseVec s m.core m)).foldl (fun s tk => s.countEvent m.core [s.groupKey tk] 16 1) s
  let s := (wokenBy s m.core m).foldl wakeThread s
  if m.all then
    (((s.groupsOn m.core).flatMap s.threadsOf).filter fun tk => readsKey s tk m).foldl (fun s tk => doom s tk whyConflict) s
  else
    let tk := threadKey m.core m.slot
    if readsKey s tk m then doom s tk whyConflict else s

end Sys2Proof.Machine
end

