-- ==== Sys2Proof/Machine/Stops.lean ====
section
/-! DEFINITION. Trap records (R406), and what stops a train: a flight that faults (R413), a relaunch after an uncorrectable
error (R417, R418). -/

namespace Sys2Proof.Machine

set_option Elab.async false

/-! ### Trap records (R406) -/

/-- Words 0x00 to 0x30 of a thread's trap record; `rord` is the ordinal at which RESUME continues. -/
def trapWords (s : State) (tk : Nat) (ti : TrapInfo) (rord : Nat) : List Nat :=
  let t := s.thread tk
  let g := s.groupOf tk
  let f := s.flightOf tk
  [ti.kind.code + 2 ^ 8 * ti.sub + 2 ^ 16 * t.glomer.toNat + 2 ^ 17 * ti.defer.toNat + 2 ^ 18 * (t.tx ≠ [] : Bool).toNat
      + 2 ^ 19 * (f.hdr.replay && g.opened).toNat + 2 ^ 32 * ti.ord,
   ti.off % 64 + 2 ^ 16 * slotOf tk + 2 ^ 25 * (coreOfThread tk % 128) + 2 ^ 32 * rord,
   s.wid tk, ti.va % 2 ^ 57, ti.detail, ti.detail2, f.number]

/-- A trap record waits for its die's trap ring. -/
def queueTrap (s : State) (die : Nat) (r : TrapRec) : State := s.modDie die fun d => { d with traps := d.traps ++ [r] }

/-! ### Flights that fault (R413) -/

/-- The die whose dispatcher keeps a flight: the launching die, or its partner once that is lost (R426). -/
def State.dispatcherOf (s : State) (fk : Nat) : Nat :=
  let d := (s.flight fk).die
  if (s.die d).life = .lost then partnerOf d else d

/-- A train that holds nothing ends at once, and its end is reported to the launching die (R41). -/
def trainGone (s : State) (k : Nat) : State :=
  let fk := (s.train k).flight
  let s := s.modTrain k fun t => { t with stat := .ended, saved := false, ctxBytes := 0 }
  let s := { s with saved := mdel s.saved k }
  s.modDie (s.dispatcherOf fk) fun d => { d with ends := d.ends ++ [fk] }

/-- A saved group as it stands when it ends: the hashes of its threads join its own (R449, R451). -/
def SavedGroup.atEnd (sg : SavedGroup) : Group :=
  let ts := (sg.threads.map (·.2)).filter fun t => !t.twin && t.stat ≠ .exited
  { sg.group with
    pathSum := ts.foldl (fun n t => (n + t.pathH) % 2 ^ 64) sg.group.pathSum
    storeSum := ts.foldl (fun n t => (n + t.storeH) % 2 ^ 64) sg.group.storeSum }

/-- A group that stands saved ends with END `code`: its queued trace records go to the trace unit, a CUT with the reason `why` follows, none
for 0 (R439), and its exit record waits (R443). -/
def savedExit (s : State) (k : Nat) (code why : Nat) (sg : SavedGroup) : State :=
  if sg.group.ended then s
  else
    let gk := groupKeyOf sg.core 65535
    let fk := (s.train k).flight
    let f := s.flight fk
    let die := (s.train k).die
    let s' := s.setGroup gk sg.atEnd
    let r : ExitRec :=
      { train := k, group := gk, words := exitWords s' gk code, session := f.sessionKey, g := s'.groupNumber gk, pass := f.pass, reg := f.reg
        core := sg.core, since := (s.core sg.core).cycles }
    let s := s.modDie die fun d => { d with traceHold := d.traceHold ++ sg.group.trace.map fun x => (0, { x with group := noGroup, by' := none }) }
    let s :=
      match s.attached fk with
      | some (key, _) => if why = 0 then s else holdTrace s die sg.core key (s'.gid gk) { kind := 0x0F, label := why }
      | none => s
    s.modDie die fun d => { d with exits := d.exits ++ [r] }

/-- A train stops without save, for a flight that faults. One that is pending holds no group, but may have run: its end follows its die's
write-back too (R41). -/
def stopForFault (s : State) (k : Nat) : State :=
  match (s.train k).stat with
  | .ended => s
  | .sending | .travelling => trainGone s k
  | .pending =>
    let s := (mgetD s.saved k []).foldl (fun s g => savedExit s k 2 2 g) s
    { s with saved := mdel s.saved k }.modTrain k fun t =>
      { t with stat := .stopping, noSave := true, groups := [], saved := false, ctxBytes := 0 }
  | .resident =>
    let s := s.modTrain k fun t => { t with stat := .stopping, noSave := true }
    (s.train k).groups.foldl (fun s gk => s.modGroup gk fun g => { g with stopping := true, faulted := true }) s
  | .stopping | .saving =>
    let s := s.modTrain k fun t => { t with noSave := true }
    (s.train k).groups.foldl (fun s gk => s.modGroup gk fun g => { g with faulted := true }) s

/-- A flight faults: a FLIGHT record at the launching die, and every train of it stops. -/
def faultFlight (s : State) (fk sub detail t : Nat) : State :=
  let f := s.flight fk
  if f.faulted || f.done then s
  else
    let s := s.modFlight fk fun f => { f with faulted := true }
    let s := queueTrap s (s.dispatcherOf fk) { words := [TrapKind.flight.code + 2 ^ 8 * sub, 0, 0, 0, detail, t, f.number] }
    ((s.trains.filter fun p => p.2.flight = fk).map (·.1)).foldl stopForFault s

/-! ### Placement (R42, R43) -/

/-- The compute die that stands for an I/O die. -/
def ioStand (die : Nat) : Nat :=
  let m := moduleOf die * 32
  if localOf die = 16 then m else if localOf die = 17 then m + 2 else if localOf die = 18 then m + 12 else m + 14
def standDie (die : Nat) : Nat := if isCompute die then die else ioStand die

/-- Where a train is to go: it waits, or a die, and whether that is the fallback die. R43 does not name the loss of the compute die that
stands for an I/O home, nor a fallback die that is not up: in the first case the train goes to the fallback die, in the second it
waits (DESIGN CHOICE, log 107). -/
def placeOf (s : State) (from_ : Nat) (f : Flight) (t : Nat) : Option (Nat × Bool) :=
  let addr := (f.hdr.pbase + t * f.hdr.pstride) % 2 ^ 64
  let fall : Option (Nat × Bool) := some (standDie from_, true)
  if 2 ^ 57 ≤ addr then fall
  else
    match s.leafAt from_ f.vas addr with
    | .inl _ => fall
    | .inr (l, _) =>
      let h := homeOf l addr
      if leafF l then none
      else if (s.die h).life = .lost then
        if leafM l && (s.die (partnerOf h)).life ≠ .lost then some (standDie (partnerOf h), false) else fall
      else if moduleOf h = moduleOf from_ && !(s.members f.vas).contains h then fall
      else if (s.die (standDie h)).life = .lost then fall
      else some (standDie h, false)

/-! ### Relaunch (R417, R418) -/

/-- The die for a relaunched train whose own die fails: its partner if that is a member, else the lowest member. -/
def relaunchDie (s : State) (vas die : Nat) : Nat :=
  if (s.die die).life = .up then die
  else
    let ms := (s.members vas).filter fun d => isCompute d && (s.die d).life = .up
    if ms.contains (partnerOf die) then partnerOf die else ms.headD die

/-- A train that is to run again stands in its die's list with its age, or travels to another die's list, where its age is its order of
entry (R305, R417). -/
def Train.again (t : Train) (die : Nat) : Train :=
  { t with
    stat := if die = t.die then .pending else .travelling
    die := die, groups := [], saved := false, ctxBytes := 0, noSave := false, forPrio := false }

/-- The scratch pages of killed groups are freed before their train is admitted again (R47). -/
def freePages (s : State) (gks : List Nat) : State := gks.foldl (fun s gk => s.modGroup gk fun g => { g with pages := [] }) s

/-- A train relaunched, of which nothing is left on its die: with its age and its placement (R417); on the die of R42 when its placement
address has been re-homed since it was placed, at its dispatcher while that die or the leaf makes it wait (R43, R418). -/
def relaunched (s : State) (k : Nat) : Train :=
  let t := s.train k
  let f := s.flight t.flight
  let disp := s.dispatcherOf t.flight
  let wait : Train := { t.again t.die with stat := .sending, from_ := disp }
  match placeOf s disp f t.t with
  | none => wait
  | some (d, fall) =>
    if fall || d = t.placed then t.again (relaunchDie s f.vas t.die)
    else if (s.die d).life = .up then { t.again d with placed := d, placedLocal := false }
    else wait

/-- Every group of a train is killed and the train stands pending again with its age. -/
def relaunchTrain (s : State) (k : Nat) : State :=
  let t := s.train k
  let s := t.groups.foldl (fun s gk => killGroup s gk 3 false) s
  (freePages s t.groups).modTrain k fun _ => { relaunched s k with relaunches := t.relaunches + 1 }

/-- The trap kinds that count as an uncorrectable error (R417). -/
def TrapKind.uncorrectable : TrapKind → Bool
  | .data | .parity | .residue | .marionette => true
  | _ => false

/-- An uncorrectable error in a group of a replayable flight (R417, R418): relaunch, or the flight faults. -/
def uncorrectable (s : State) (gk : Nat) : State :=
  let k := (s.group gk).train
  let t := s.train k
  if t.groups.any fun g => !(s.group g).opened then faultFlight s t.flight 2 0 t.t
  else if 3 ≤ t.relaunches then faultFlight s t.flight 4 0 t.t
  else relaunchTrain s k

end Sys2Proof.Machine
end

