-- ==== Sys2Proof/Machine/Control.lean ====
section
/-! DEFINITION. HINT and PBLK (R102, R104), control transfers (R342, R343), SYS (R345 to R348), LAUNCH (R353), joins (R350)
and special registers (R127, R351). -/

namespace Sys2Proof.Machine

set_option Elab.async false

/-! ### HINT and PBLK -/

/-- HINT.IMM. -/
def execHintImm (p : BitVec 21) (st : State) : Host.Outcome State Fault Refusal :=
  runWord (.hintImm p) (mapOn fun t => { t with hImm := some p }) st

/-- HINT.OFF. -/
def execHintOff (p : BitVec 22) (st : State) : Host.Outcome State Fault Refusal :=
  runWord (.hintOff p) (mapOn fun t => { t with hOff := some p }) st

/-- HINT.MOD. -/
def execHintMod (rov : Bool) (pol : Option CPol) (sat ftz : Bool) (rnd : Rnd) (st : State) :
    Host.Outcome State Fault Refusal :=
  runWord (.hintMod rov pol sat ftz rnd)
    (mapOn fun t => { t with hRnd := if rov then some rnd else none, hFtz := some ftz, hSat := sat, hPol := pol }) st

/-- HINT.PRIO. -/
def execHintPrio (p : Nat) (st : State) : Host.Outcome State Fault Refusal :=
  runWord (.hintPrio p) (mapOn fun t => { t with hPrio := some p }) st

/-- PBLK: COND is read once (R104). -/
def execPblk (c : Opnd) (n : Nat) (p : BitVec 8) (st : State) : Host.Outcome State Fault Refusal :=
  runWord (.pblk c n p)
    (fun k s => s.mapLanes k fun _ t => { t with gLeft := n, gPat := p.toNat, gCond := t.src c ≠ 0 }) st

/-! ### Control transfers -/

/-- The code offset of the word after the current one, in the current form. -/
def Thread.after (t : Thread) : Nat := (t.head + wordBytes t.glomer * (t.off + 1)) % 2 ^ 32

/-- The destination of a B-format displacement (R94, R342). -/
def Thread.dest (t : Thread) (disp : BitVec 18) : Nat := wrapN (t.after + wordBytes t.glomer * disp.toInt) 32

/-- The link of a call. -/
def linkWord (d : Dst) : Nat → State → State := aluWord d fun t => BitVec.ofNat 32 t.after

/-- A thread that has written its link goes on elsewhere; the words it reads are those before the link is written. -/
def callWord (d : Dst) (dest : Thread → Nat) (k : Nat) (s : State) : State :=
  linkWord d k (mapOn (fun t => { t with next := dest t }) k s)

/-- BRA. -/
def execBra (sb : Bool) (disp : BitVec 18) (st : State) : Host.Outcome State Fault Refusal :=
  runWord (.bra sb disp) (mapOn fun t => { t with next := t.dest disp }) st

/-- BRZ. -/
def execBrz (sb : Bool) (a : Opnd) (disp : BitVec 18) (st : State) : Host.Outcome State Fault Refusal :=
  runWord (.brz sb a disp) (mapOn fun t => if t.src a = 0 then { t with next := t.dest disp } else t) st

/-- BRNZ. -/
def execBrnz (sb : Bool) (a : Opnd) (disp : BitVec 18) (st : State) : Host.Outcome State Fault Refusal :=
  runWord (.brnz sb a disp) (mapOn fun t => if t.src a ≠ 0 then { t with next := t.dest disp } else t) st

/-- CALL. -/
def execCall (sb : Bool) (l : Dst) (disp : BitVec 18) (st : State) : Host.Outcome State Fault Refusal :=
  runWord (.call sb l disp) (callWord l fun t => t.dest disp) st

/-- BRX. -/
def execBrx (sb : Bool) (a : Opnd) (st : State) : Host.Outcome State Fault Refusal :=
  runWord (.brx sb a) (mapOn fun t => { t with next := (t.src a).toNat }) st

/-- RET: recorded as a return at the head it reaches. -/
def execRet (sb : Bool) (a : Opnd) (st : State) : Host.Outcome State Fault Refusal :=
  runWord (.ret sb a) (mapOn fun t => { t with next := (t.src a).toNat, viaRet := true }) st

/-- CALLX. -/
def execCallx (sb : Bool) (d : Dst) (a : Opnd) (st : State) : Host.Outcome State Fault Refusal :=
  runWord (.callx sb d a) (callWord d fun t => (t.src a).toNat) st

/-! ### SYS -/

/-- NOP. -/
def execNop (sb : Bool) (st : State) : Host.Outcome State Fault Refusal := runWord (.nop sb) (fun _ s => s) st

/-- EXIT: the thread leaves at its block's end (R345). -/
def execExit (sb : Bool) (st : State) : Host.Outcome State Fault Refusal :=
  runWord (.exit sb) (mapOn fun t => { t with bend := .exit }) st

/-- TRAP. -/
def execTrap (sb : Bool) (a : Opnd) (st : State) : Host.Outcome State Fault Refusal :=
  runWord (.trap sb a) (mapOn fun t => t.defer { kind := .trap, detail := (t.src a).toNat }) st

/-- BKPT. -/
def execBkpt (sb : Bool) (st : State) : Host.Outcome State Fault Refusal :=
  runWord (.bkpt sb) (mapOn fun t => t.defer { kind := .brk }) st

/-- A request that acts by itself once the rest of the block is accepted (R108): what the thread asks is noted; a twin makes
none; a marionette leader's waits for its twin (R83). -/
def submitAct (s : State) (tk op addr : Nat) (data : List Byte) (r : Req) : State :=
  let s := noteSend s tk op addr data
  if (s.thread tk).twin then s
  else pushReq s { r with late := true, waitTwin := if (s.hdrOf tk).marionette then [slotOf tk] else [] }

/-- SYSCALL (R347): a commit point (R416). -/
def execSyscall (d : Dst) (a b : Opnd) (st : State) : Host.Outcome State Fault Refusal :=
  runWord (.syscall d a b)
    (eachOn fun s tk =>
      let t := s.thread tk
      let ws := [t.src a, t.src b]
      let s := if t.twin then twinTake s tk else s
      submitAct s tk 0x07 0 (dataBytes ws 8)
        { Req.of s tk with kind := .syscall, commits := true, dst := d, lanes := [{ slot := slotOf tk, data := ws }] }) st

/-- IFLUSH (R348). -/
def execIflush (st : State) : Host.Outcome State Fault Refusal :=
  runWord .iflush
    (eachOn fun s tk => if (s.thread tk).twin then s else pushReq s { Req.of s tk with kind := .iflush, late := true }) st

/-- One lane's header (R353): LAUNCH is a commit point (R416). -/
def launchLane (a : Opnd) (batch : Nat) (s : State) (tk : Nat) : State :=
  let t := s.thread tk
  let va := (t.pair a).toNat
  match globalTrap (dieOfThread tk) va 128 false with
  | some ti => issueTrap s tk false ti
  | none =>
    submitAct s tk 0x38 va [] { Req.of s tk with kind := .launch, commits := true, va := va, scope := .domain, batch := batch }

/-- LAUNCH (R353). -/
def execLaunch (a : Opnd) (st : State) : Host.Outcome State Fault Refusal :=
  runWord (.launch a) (fun k s => eachOn (launchLane a s.nextId) k s) st

/-! ### Joins -/

/-- JOIN (R74). -/
def execJoin (sb : Bool) (n : Nat) (st : State) : Host.Outcome State Fault Refusal :=
  runWord (.join sb n)
    (eachOn fun s tk => arriveMask (s.modThread tk fun t => { t with bend := .join n }) tk n) st

/-- JSET (R350). -/
def execJset (sb : Bool) (n : Nat) (b : Opnd) (st : State) : Host.Outcome State Fault Refusal :=
  runWord (.jset sb n b) (eachOn fun s tk => setMask s tk n ((s.thread tk).pair b)) st

/-- JGET (R350): in a narrow wave bits 32 to 63 of the set are never 1 (R78). -/
def execJget (sb : Bool) (d : Dst) (n : Nat) (st : State) : Host.Outcome State Fault Refusal :=
  runWord (.jget sb d n)
    (fun k s => s.mapLanes k fun tk t => t.emit d 2 fun _ => pairWords ((s.wave (waveKeyOf tk)).laneSet n)) st

/-- JLEAVE (R350). -/
def execJleave (sb : Bool) (n : Nat) (st : State) : Host.Outcome State Fault Refusal :=
  runWord (.jleave sb n) (eachOn fun s tk => leaveMask s tk n) st

/-! ### Special registers -/

/-- The value of a special register (R127). -/
def sregWord (s : State) (tk : Nat) (t : Thread) (c : SReg) : Word :=
  let h := s.hdrOf tk
  let f := s.fields tk
  let field (i : Nat) : Word := BitVec.ofNat 32 ((f[i]?).getD 0)
  match c with
  | .lane => field 0
  | .waveIx => field 1
  | .widLo => BitVec.ofNat 32 (s.wid tk)
  | .widHi => BitVec.ofNat 32 (s.wid tk / 2 ^ 32)
  | .field0 => field 0
  | .field1 => field 1
  | .field2 => field 2
  | .field3 => field 3
  | .field4 => field 4
  | .field5 => field 5
  | .waveW => BitVec.ofNat 32 (s.waveWidth tk)
  | .flight => BitVec.ofNat 32 (s.flightOf tk).number
  | .seed => BitVec.ofNat 32 h.seed
  | .argLo => BitVec.ofNat 32 h.args
  | .argHi => BitVec.ofNat 32 (h.args / 2 ^ 32)
  | .prio => BitVec.ofNat 32 (h.prio % 8 + 16 * t.hPrio.getD t.boost)

/-- SREAD. -/
def execSread (sb : Bool) (d : Dst) (c : SReg) (st : State) : Host.Outcome State Fault Refusal :=
  runWord (.sread sb d c) (fun k s => s.mapLanes k fun tk t => t.emit d 1 fun t => [sregWord s tk t c]) st

/-- The rounding mode of a code (R102). -/
def rndOf (n : Nat) : Rnd := if n = 0 then .rne else if n = 1 then .rz else if n = 2 then .ru else .rd

/-- SWRITE. -/
def execSwrite (sb : Bool) (c : SWReg) (b : Opnd) (st : State) : Host.Outcome State Fault Refusal :=
  runWord (.swrite sb c b)
    (mapOn fun t =>
      match c with
      | .round => { t with rnd := rndOf ((t.src b).toNat % 4) }
      | .ftz => { t with ftz := (t.src b).toNat % 2 = 1 }) st

end Sys2Proof.Machine
end

