-- ==== Sys2Proof/Machine/TxWords.lean ====
section
/-! DEFINITION. The words of transactions (R337 to R339), reels (R294), tethers (R150) and trace marks (R434, R435). -/

namespace Sys2Proof.Machine

set_option Elab.async false

/-! ### Results that a twin takes from its leader -/

/-- One lane's ALU-class result; a twin takes the one that its leader's word gave (R81, R150, R435). -/
def leaderLane (d : Dst) (n : Nat) (f : State → Nat → Thread → List Word) (s : State) (tk : Nat) : State :=
  let t := s.thread tk
  if t.twin then
    let mine (e : Nat × Pend) : Bool := e.1 = t.blockNo && e.2.off = t.off
    let vals : List Word := ((t.lvq.find? mine).map fun e => e.2.vals).getD (List.replicate n 0)
    s.modThread tk fun t => { (t.emit d n fun _ => vals) with lvq := t.lvq.filter fun e => !mine e }
  else
    let vals := f s tk t
    let s := s.modThread tk fun t => t.emit d n fun _ => vals
    match (if t.on then s.twinOf tk else none) with
    | some w => s.modThread w fun x => { x with lvq := x.lvq ++ [(t.blockNo, { off := t.off, dst := d, vals := vals })] }
    | none => s
def leaderEmit (d : Dst) (n : Nat) (f : State → Nat → Thread → List Word) (k : Nat) (s : State) : State :=
  s.forLanes (s.lanes k) (leaderLane d n f)

/-! ### Transactions -/

/-- TXBEGIN and ORELSE open a level (R319, R320). -/
def openLevel (orelse : Bool) (disp : BitVec 18) (k : Nat) (s : State) (tk : Nat) : State :=
  let t := s.thread tk
  let f := s.flightOf tk
  let most := if f.floor then 2 else 4
  if orelse && t.tx = [] then trapThread s tk { kind := .illegal, sub := 8 }
  else if most ≤ t.tx.length then trapThread s tk { kind := .txCap, sub := 3 }
  else
    let l : Level :=
      { orelse := orelse, glomer := t.glomer, no := t.blockNo, head := t.head, ord := t.ord, path := t.dest disp
        ckpt := checkpoint t (s.bundle k).live f.hdr.nregs, first := s.nextId }
    let now := (s.core (coreOfThread tk)).cycles
    let s := if t.tx = [] && !t.twin then s.countEvent (coreOfThread tk) [s.groupKey tk] 11 1 else s
    s.modThread tk fun t => { t with tx := l :: t.tx, txCycles := if t.tx = [] then now else t.txCycles }

/-- TXBEGIN. -/
def execTxbegin (sb : Bool) (disp : BitVec 18) (st : State) : Host.Outcome State Fault Refusal :=
  runWord (.txbegin sb disp) (fun k => eachOn (openLevel false disp k) k) st

/-- ORELSE. -/
def execOrelse (sb : Bool) (disp : BitVec 18) (st : State) : Host.Outcome State Fault Refusal :=
  runWord (.orelse sb disp) (fun k => eachOn (openLevel true disp k) k) st

/-- A word that needs an open level (R319). -/
def inLevel (f : State → Nat → State) (s : State) (tk : Nat) : State :=
  if (s.thread tk).tx = [] then trapThread s tk { kind := .illegal, sub := 8 } else f s tk

/-- TXEND (R326, R338): the outermost one is a commit point of a replayable group (R416). -/
def execTxend (st : State) : Host.Outcome State Fault Refusal :=
  runWord .txend
    (eachOn (inLevel fun s tk =>
      let t := s.thread tk
      if 1 < t.tx.length then s.modThread tk Thread.mergeLevel
      else
        submitAct s tk 0x32 0 [] { Req.of s tk with kind := .txend, scope := .domain, tx := false, commits := true })) st

/-- RETRY: it acts at the block's end (R331). -/
def execRetry (st : State) : Host.Outcome State Fault Refusal :=
  runWord .retry (eachOn (inLevel fun s tk => s.modThread tk fun t => { t with bend := .retry })) st

/-- TXABORT: it acts at the block's end (R338). -/
def execTxabort (a : Opnd) (st : State) : Host.Outcome State Fault Refusal :=
  runWord (.txabort a)
    (eachOn (inLevel fun s tk => s.modThread tk fun t => { t with bend := .abort ((t.src a).toNat % 256) })) st

/-- TXSTAT. -/
def execTxstat (sb : Bool) (d : Dst) (st : State) : Host.Outcome State Fault Refusal :=
  runWord (.txstat sb d) (leaderEmit d 1 fun s tk t => [txStatus s tk t]) st

/-! ### Reels -/

/-- RINIT. -/
def execRinit (a b : Opnd) (st : State) : Host.Outcome State Fault Refusal :=
  runWord (.rinit a b) (eachOn (reelLane 0 .trans a b)) st

/-- RFILL. -/
def execRfill (sb : Bool) (d : Dst) (a : Opnd) (st : State) : Host.Outcome State Fault Refusal :=
  runWord (.rfill sb d a) (eachOn (reelLane 1 d a (.reg 0))) st

/-- RFREE. -/
def execRfree (a b : Opnd) (st : State) : Host.Outcome State Fault Refusal :=
  runWord (.rfree a b) (eachOn (reelLane 2 .trans a b)) st

/-- RSPACE. -/
def execRspace (sb : Bool) (d : Dst) (a : Opnd) (st : State) : Host.Outcome State Fault Refusal :=
  runWord (.rspace sb d a) (eachOn (reelLane 3 d a (.reg 0))) st

/-- RSTAT. -/
def execRstat (sb : Bool) (d : Dst) (a : Opnd) (st : State) : Host.Outcome State Fault Refusal :=
  runWord (.rstat sb d a) (eachOn (reelLane 4 (pairDst d 2) a (.reg 0))) st

/-! ### Tethers -/

/-- The send code under which a tether write is compared (R150). -/
def tethSend : Nat := 0x3A

/-- A slot written, or emptied by an image of zeros, by a leader; a twin's write is only compared (R150). -/
def writeTether (n : Nat) (img : List Word) (s : State) (tk : Nat) : State :=
  let s := noteSend s tk tethSend n (dataBytes img 32)
  if (s.thread tk).twin then s
  else
    s.modGroup (s.groupKey tk) fun g =>
      { g with tethers := if img.all (· = 0) then mdel g.tethers n else mput g.tethers n img }

/-- TTSET. -/
def execTtset (sb : Bool) (a : Opnd) (n : Nat) (st : State) : Host.Outcome State Fault Refusal :=
  runWord (.ttset sb a n)
    (eachOn fun s tk =>
      let img := (s.thread tk).runWords a 8
      if img.all (· = 0) || tethValid img then writeTether n img s tk
      else trapThread s tk { kind := .tether, sub := 2, detail := n }) st

/-- TTGET. -/
def execTtget (sb : Bool) (d : Dst) (n : Nat) (st : State) : Host.Outcome State Fault Refusal :=
  runWord (.ttget sb d n)
    (leaderEmit d 8 fun s tk _ => (s.tether (s.groupKey tk) n).getD (List.replicate 8 0)) st

/-- TTCLR. -/
def execTtclr (sb : Bool) (n : Nat) (st : State) : Host.Outcome State Fault Refusal :=
  runWord (.ttclr sb n) (eachOn (writeTether n (List.replicate 8 0))) st

/-! ### Marks -/

/-- The request of a TRACE word for one wave (R435): `ws` are the lowest active lane's words, which stand for every lane. -/
def markWave (op : Nat) (ws : Thread → List Word) (ls : List Nat) (s : State) (wk : Nat) : State :=
  let mine := ls.filter fun tk => waveKeyOf tk = wk
  match mine with
  | [] => s
  | l :: _ =>
    let t := s.thread l
    if t.twin then s
    else
      pushReq s
        { Req.of s l with
          kind := .mark op, late := true
          lanes := mine.map fun tk => { slot := slotOf tk, data := ws t }
          waitTwin := if (s.hdrOf l).marionette then mine.map slotOf else [] }

/-- A TRACE word: noted for the comparison of R83, then one request for each wave with an active lane. -/
def markWord (op : Nat) (ws : Thread → List Word) (k : Nat) (s : State) : State :=
  let ls := s.active k
  let s := s.forLanes ls fun s tk => noteSend s tk (0x3B + 256 * op) 0 (dataBytes (ws (s.thread tk)) 8)
  ((ls.map waveKeyOf).eraseDups).foldl (markWave op ws ls) s

/-- MARKPUSH. -/
def execMarkpush (a : Opnd) (st : State) : Host.Outcome State Fault Refusal :=
  runWord (.markpush a) (markWord 0 fun t => [t.src a]) st

/-- MARKPOP. -/
def execMarkpop (st : State) : Host.Outcome State Fault Refusal := runWord .markpop (markWord 1 fun _ => []) st

/-- MARKEVT. -/
def execMarkevt (a b : Opnd) (st : State) : Host.Outcome State Fault Refusal :=
  runWord (.markevt a b) (markWord 2 fun t => [t.src a, t.src b]) st

/-- MARKSTAT's result: the wave's top, DEPTH and OVFSEEN (R435). -/
def markStatus (s : State) (tk : Nat) : Word :=
  let w := s.wave (waveKeyOf tk)
  BitVec.ofNat 32 (w.top + 2 ^ 16 * w.depth + 2 ^ 24 * w.ovf.toNat)

/-- MARKSTAT. -/
def execMarkstat (d : Dst) (st : State) : Host.Outcome State Fault Refusal :=
  runWord (.markstat d) (fun k s =>
    let s := leaderEmit d 1 (fun s tk _ => [markStatus s tk]) k s
    markWord 3 (fun t => t.win.headD none |>.getD [0]) k s) st

end Sys2Proof.Machine
end

