-- ==== Sys2Proof/Machine/Matrix.lean ====
section
/-! DEFINITION. The matrix words (R203 to R209): checks of the wave and posting, and what the engine's events share: an
entry's fields, the checks at the front of its group queue (R210, R214, R215), scales and operand reads. -/

namespace Sys2Proof.Machine

set_option Elab.async false

/-! ### Fields of an entry (R202) -/

def MEntry.arow (e : MEntry) : Nat := bits e.origin.toNat 31 24
def MEntry.nrow (e : MEntry) : Nat := bits e.origin.toNat 23 16 + 1
def MEntry.i0 (e : MEntry) : Nat := bits e.origin.toNat 15 0
def MEntry.deep (e : MEntry) : Bool := bitOf e.origin.toNat 0
def MEntry.kidx (e : MEntry) : Nat := bits e.prog.toNat 20 10
def MEntry.jb (e : MEntry) : Nat := bits e.prog.toNat 9 0
/-- The span of the B tether: T2's for MMUL, T1's for MSTAT. -/
def MEntry.span (e : MEntry) : Nat := 2 ^ tSpan e.t1
/-- The depth of a pass (R198). -/
def MEntry.depth (e : MEntry) : Nat :=
  match e.op with
  | .mstat => min (if e.deep then 128 else 64) e.span
  | _ => min (if tFmt e.t1 = 2 && tFmt e.t2 = 2 then 128 else 64) e.span
/-- k-steps of an MMUL (R213). -/
def MEntry.steps (e : MEntry) : Nat := e.span / e.depth
/-- The progress word with PROG replaced. -/
def MEntry.progWord (e : MEntry) (n : Nat) : Word := BitVec.ofNat 32 (e.prog.toNat % 2 ^ 21 + n * 2 ^ 21)
/-! ### Posting -/

/-- Every lane of the bundle's wave that is there at all is in the bundle (R77). -/
def waveWhole (s : State) (k : Nat) : Bool :=
  let ls := s.lanes k
  (s.bundle k).waveBundle &&
    ((ls.head?.map waveKeyOf).map waveThreads |>.getD []).all fun t =>
      ls.contains t || (match mget s.threads t with | none => true | some x => x.stat = .exited)

/-- The register that a pair operand names, for the comparison of words (R209). -/
def opndCode : Opnd → Nat
  | .reg n => n
  | .win n => 128 + n

/-- A matrix word (R205): convergence, then one request for the wave, with the lowest lane's pair; a twin posts nothing and is
compared, on every field of the word (R209). Under a guard that is off for every lane nothing happens. -/
def matrixWord (sb : Bool) (p : Opnd) (e : MEntry) (k : Nat) (s : State) : State :=
  let ls := s.lanes k
  let on := s.active k
  match on with
  | [] => s
  | l :: _ =>
    if on ≠ ls || !waveWhole s k then trapAll s k { kind := .converge }
    else
      let t := s.thread l
      let gk := s.groupKey l
      let img (n : Nat) : List Word := (s.tether gk n).getD []
      let o := t.srcWord 0 p
      let g := t.srcWord 1 p
      let op : Nat := match e.op with | .mmul => 0 | .mstat => 1 | .mstream => 2 | .mdrain => 3 | .mzero => 4
      let mode : Nat := match e.mode with | .acc => 0 | .ovr => 1 | .bf16 => 2 | .i32 => 3 | .res => 4
      let code := 0x39 + 2 ^ 8 * op + 2 ^ 12 * mode + 2 ^ 16 * e.bank + 2 ^ 20 * e.slot1 + 2 ^ 28 * e.slot2 + 2 ^ 36 * e.pair.toNat
        + 2 ^ 37 * e.swapf.toNat + 2 ^ 38 * sb.toNat + 2 ^ 40 * opndCode p
      let s := s.forLanes ls fun s tk => noteSend s tk code 0 (dataBytes [o, g] 8)
      if t.twin then (if e.op.hasProg then s.forLanes ls twinTake else s)
      else
        let e := { e with
          group := gk, prio := (s.flightOf l).hdr.prio, t1 := img e.slot1, t2 := img e.slot2, origin := o, prog := g
          core := coreOfThread l, lanes := ls.map slotOf, off := t.off, ord := t.ord, dst := p }
        pushReq s
          { Req.of s l with
            kind := .matrix e, late := e.op.waits, lanes := ls.map fun tk => { slot := slotOf tk }
            waitTwin := if (s.hdrOf l).marionette then ls.map slotOf else [] }

/-- MMUL. -/
def execMmul (bank x y : Nat) (p : Opnd) (pair : Bool) (st : State) : Host.Outcome State Fault Refusal :=
  runWord (.mmul bank x y p pair) (matrixWord true p { op := .mmul, bank := bank, slot1 := x, slot2 := y, pair := pair }) st

/-- MSTAT. -/
def execMstat (x : Nat) (p : Opnd) (st : State) : Host.Outcome State Fault Refusal :=
  runWord (.mstat x p) (matrixWord true p { op := .mstat, slot1 := x }) st

/-- MSTREAM. -/
def execMstream (bank x : Nat) (p : Opnd) (pair swapf : Bool) (st : State) : Host.Outcome State Fault Refusal :=
  runWord (.mstream bank x p pair swapf)
    (matrixWord true p { op := .mstream, bank := bank, slot1 := x, pair := pair, swapf := swapf }) st

/-- MDRAIN. -/
def execMdrain (sb : Bool) (bank x : Nat) (p : Opnd) (m : DrainMode) (st : State) : Host.Outcome State Fault Refusal :=
  runWord (.mdrain sb bank x p m) (matrixWord sb p { op := .mdrain, bank := bank, slot1 := x, mode := m }) st

/-- MZERO. -/
def execMzero (sb : Bool) (bank : Nat) (p : Opnd) (st : State) : Host.Outcome State Fault Refusal :=
  runWord (.mzero sb bank p) (matrixWord sb p { op := .mzero, bank := bank }) st

/-- A matrix request performed: a full table holds it, and so does an entry that its group has issued earlier (R206); else an entry is posted. -/
def performMatrix (s : State) (r : Req) (e : MEntry) : State :=
  let qk := quadOfCore e.core
  if 16 ≤ (s.quad qk).table.length || s.postsBehind r then s
  else
    let s := s.dropReq r.id
    let (n, s) := nextSeq s e.group
    let e := { e with id := s.nextId, seq := n, done := if e.op.hasProg then bits e.prog.toNat 31 21 else 0, reqId := r.id, lanes := r.lanes.map fun l => l.slot }
    { s.modQuad qk fun q => { q with table := q.table ++ [e] } with nextId := s.nextId + 1 }

/-! ### Reading operands -/

/-- A read for each element of a list, in turn, stopping at the first that is not answered. -/
def engMap {α β : Type} (f : State → α → Eng β × State) : List α → State → Eng (List β) × State
  | [], s => (.ok [], s)
  | x :: r, s =>
    match f s x with
    | (.ok v, s) =>
      match engMap f r s with
      | (.ok vs, s) => (.ok (v :: vs), s)
      | x => x
    | (.hold, s) => (.hold, s)
    | (.fault k va w d, s) => (.fault k va w d, s)
    | (.data a d, s) => (.data a d, s)

/-- An operand element, two's complement (R134). -/
def readInt (s : State) (gk : Nat) (t : List Word) (rg : Region) (p : Nat × Nat) : Eng Int × State :=
  match readElem s gk t rg p.1 p.2 with
  | (.ok v, s) => (.ok (sextN v (tWidth t)), s)
  | (.hold, s) => (.hold, s)
  | (.fault k va w d, s) => (.fault k va w d, s)
  | (.data a d, s) => (.data a d, s)

/-- Elements of row i of an A operand, k from k0 on (R137: k along COLS), read for the entry `me`. -/
def readRow (s : State) (gk : Nat) (t : List Word) (k0 d i me : Nat) : Eng (List Int) × State :=
  engMap (fun s k => readInt s gk t (elemRegion s gk t me) (i, k)) (span k0 d) s

/-- The B slice of k rows from k0 on and columns from 64·JB on (R211), by (k - k0)·64 + column; a column beyond COLS reads as
zeros. -/
def readSlice (s : State) (gk : Nat) (t : List Word) (k0 d jb me : Nat) : Eng (AMap Int) × State :=
  let cols := min 64 (tCols t - 64 * jb)
  let places := (List.range d).flatMap fun k => (List.range cols).map fun c => (k, c)
  match engMap (fun s (p : Nat × Nat) => readInt s gk t (elemRegion s gk t me) (k0 + p.1, 64 * jb + p.2)) places s with
  | (.ok vs, s) => (.ok ((places.zip vs).map fun p => (p.1.1 * 64 + p.1.2, p.2)), s)
  | (.hold, s) => (.hold, s)
  | (.fault k va w d, s) => (.fault k va w d, s)
  | (.data a d, s) => (.data a d, s)

/-! ### Scales (R136, R137, R215) -/

/-- A scale code, with the zero and NaN codes made one each. -/
def normScale (c : Nat) : Nat := if c / 2 = 0 then 0 else if c / 2 = 255 then 0x1FE else c
/-- The bit offset in the scale stream of the scale of non-k index i and k index k; kExt is K. -/
def scaleBit (t : List Word) (kExt i k : Nat) : Nat :=
  tSboff t + 9 * (i / tSrows t * (kExt / 2 ^ tSpan t) + k / 2 ^ tSpan t)
/-- That scale; 1.0 without a stream. -/
def readScale (s : State) (gk : Nat) (t : List Word) (kExt k me i : Nat) : Eng Nat × State :=
  if tSbase t = 0 then (.ok 0x0FE, s)
  else
    match readBits s gk (scaleRegion s gk t me) (scaleBit t kExt i k) 9 with
    | (.ok v, s) => (.ok (normScale v), s)
    | x => x

/-- Scales of in-range columns of a B operand at k. -/
def readColScales (s : State) (gk : Nat) (t : List Word) (jb k me : Nat) : Eng (AMap Nat) × State :=
  let cols := List.range (min 64 (tCols t - 64 * jb))
  match engMap (fun s c => readScale s gk t (tRows t) k me (64 * jb + c)) cols s with
  | (.ok vs, s) => (.ok (cols.zip vs), s)
  | (.hold, s) => (.hold, s)
  | (.fault k va w d, s) => (.fault k va w d, s)
  | (.data a d, s) => (.data a d, s)

/-! ### Checks at the front (R210) -/

/-- The name of an MSTREAM word in its group's mark of exchanges done (R212): f1·64 + lane of its first thread. -/
def swapKey (s : State) (e : MEntry) : Nat :=
  let slot := e.lanes.headD 0
  (s.wave (e.core * 8 + slot / 64)).f1 * 64 + slot % 64
/-- The name that a SWAPDONE bit written from outside stands under (R414): it is the mark of whichever word takes it. -/
def anySwap : Nat := 2 ^ 32
/-- The exchange of a stopped MSTREAM is done. -/
def swapped (s : State) (e : MEntry) : Bool :=
  let l := (s.group e.group).swapDone
  l.contains (swapKey s e) || l.contains anySwap

/-- The plane that an MSTREAM streams past: ACTIVE, after its exchange (R212). -/
def sliceOf (s : State) (e : MEntry) : Option Slice :=
  let g := s.group e.group
  if e.swapf && !swapped s e then g.shadow else g.active

/-- A region of elements and of its scale stream lies where R231 and R235 allow. -/
def tileTrap (s : State) (gk : Nat) (t : List Word) (rows cols : Nat) (scale : Option (Nat × Nat × Nat)) : Option TrapInfo :=
  firstTrap
    [regionTrap s gk (tSpace t) (tBase t) (lastByte t rows cols),
     (match scale with
      | some (kExt, i, k) => if tSbase t = 0 then none else regionTrap s gk (tSspace t) (tSbase t) ((scaleBit t kExt i k + 8) / 8)
      | none => none)]

/-- The format codes that T1 may have: integer operands, or a drain's destination by mode. -/
def fmtAllowed (e : MEntry) (f : Nat) : Bool :=
  match e.op with
  | .mdrain => f = (match e.mode with | .acc => 3 | .ovr => 3 | .bf16 => 4 | .i32 => 9 | .res => 8)
  | _ => f ≤ 2

/-- The checks of R210 that read no memory, in the order of its table. Of the tether traps to which R407 gives no SUB, an MSTREAM whose
ACTIVE is empty takes SUB 1, and one whose 128-deep plane has an A operand other than INT4 takes SUB 3 (DESIGN CHOICE, log 100). -/
def frontTrap (s : State) (e : MEntry) : Option TrapInfo :=
  let gk := e.group
  let no (sub slot : Nat) : TrapInfo := { kind := .tether, sub := sub, detail := slot }
  let rowsUsed : Bool := e.op ≠ .mstat
  let named : Bool := e.op ≠ .mzero
  let sl := sliceOf s e
  let k1 := (e.kidx + 1) * e.span
  let (mm, ms, mt, md) := ((e.op = .mmul : Bool), (e.op = .mstream : Bool), (e.op = .mstat : Bool), (e.op = .mdrain : Bool))
  firstTrap
    [trapIf ((s.group gk).banks.length ≤ e.bank) (no 5 e.bank),
     trapIf (rowsUsed && 256 < e.arow + e.nrow) (no 4 e.slot1),
     trapIf (named && e.t1 = []) (no 1 e.slot1), trapIf (mm && e.t2 = []) (no 1 e.slot2),
     trapIf (named && !fmtAllowed e (tFmt e.t1)) (no 3 e.slot1), trapIf (mm && 2 < tFmt e.t2) (no 3 e.slot2),
     trapIf (mt && e.deep && tFmt e.t1 ≠ 2) (no 3 e.slot1), trapIf (mt && 1 < e.origin.toNat) (no 4 e.slot1),
     trapIf (mm && tSpan e.t1 ≠ tSpan e.t2) (no 8 e.slot2),
     trapIf (ms && (sl.map fun p => tSpan p.image).getD (tSpan e.t1) ≠ tSpan e.t1) (no 8 e.slot1),
     trapIf ((mm || ms) && tCols e.t1 % e.span ≠ 0) (no 8 e.slot1), trapIf (mt && tRows e.t1 % e.span ≠ 0) (no 8 e.slot1),
     trapIf (mm && tRows e.t2 % e.span ≠ 0) (no 8 e.slot2),
     trapIf ((mm || ms || md) && tRows e.t1 < e.i0 + e.nrow) (no 4 e.slot1),
     trapIf (mm && tCols e.t1 < k1) (no 4 e.slot1), trapIf (mm && (tRows e.t2 < k1 || tCols e.t2 ≤ 64 * e.jb)) (no 4 e.slot2),
     trapIf (mt && (tRows e.t1 < (e.kidx + 1) * e.depth || tCols e.t1 ≤ 64 * e.jb)) (no 4 e.slot1),
     trapIf (md && tCols e.t1 ≤ 64 * e.jb) (no 4 e.slot1),
     trapIf (ms && (match sl with | some p => decide (tCols e.t1 < p.k0 + p.depth) | none => false)) (no 4 e.slot1),
     trapIf (ms && sl.isNone) (no 1 e.slot1),
     trapIf (ms && (match sl with | some p => decide (64 < p.depth) && decide (tFmt e.t1 ≠ 2) | none => false)) (no 3 e.slot1),
     trapIf (md && tStride e.t1 = 0) (no 7 e.slot1),
     trapIf (named && tBase e.t1 % 4 ≠ 0) { kind := .align, va := tBase e.t1 },
     trapIf (mm && tBase e.t2 % 4 ≠ 0) { kind := .align, va := tBase e.t2 },
     (match e.op with
      | .mmul =>
        firstTrap
          [tileTrap s gk e.t1 (e.i0 + e.nrow) k1 (some (tCols e.t1, e.i0 + e.nrow - 1, k1 - 1)),
           tileTrap s gk e.t2 k1 (min (tCols e.t2) (64 * e.jb + 64)) (some (tRows e.t2, min (tCols e.t2) (64 * e.jb + 64) - 1, k1 - 1))]
      | .mstream =>
        match sl with
        | some p => tileTrap s gk e.t1 (e.i0 + e.nrow) (p.k0 + p.depth) (some (tCols e.t1, e.i0 + e.nrow - 1, p.k0))
        | none => none
      | .mstat =>
        let k := (e.kidx + 1) * e.depth
        tileTrap s gk e.t1 k (min (tCols e.t1) (64 * e.jb + 64)) (some (tRows e.t1, min (tCols e.t1) (64 * e.jb + 64) - 1, k - 1))
      | .mdrain => tileTrap s gk e.t1 (e.i0 + e.nrow) (min (tCols e.t1) (64 * e.jb + 64)) none
      | .mzero => none)]

/-! ### Exactness and latches (R214, R215) -/

/-- COUNT and scale latches of a bank. -/
def Quad.cnt (q : Quad) (b r : Nat) : Nat := mgetD q.count (b * 256 + r) 0
def Quad.empty (q : Quad) (b : Nat) : Bool := (List.range 256).all fun r => q.cnt b r = 0

/-- The rows of the operation that are still to be done. -/
def MEntry.rowsLeft (e : MEntry) : List Nat :=
  match e.op with
  | .mstream => Sys2Proof.Machine.span e.done (e.nrow - e.done)
  | _ => List.range e.nrow

/-- k elements that the rest of the operation adds to a row. -/
def amountLeft (s : State) (e : MEntry) : Nat :=
  match e.op with
  | .mmul => (e.steps - e.done) * e.depth
  | _ => ((sliceOf s e).map fun p => p.depth).getD 0

/-- The span-overflow trap of an operation with these row and column scales, if it takes one. Codes are compared with the zero and the
NaN codes made one each, those of the latches too, which an OPM write sets as they stand (R215). -/
def latchTrap (s : State) (e : MEntry) (sa : List Nat) (sb : AMap Nat) : Option TrapInfo :=
  let q := s.quad (quadOfCore e.core)
  let b := bankOf s e
  let no (sub row col : Nat) : TrapInfo := { kind := .span, sub := sub, detail := e.bank + 2 ^ 8 * row + 2 ^ 16 * col }
  let full := e.rowsLeft.find? fun i => decide (16384 < q.cnt b (e.arow + i) + amountLeft s e)
  let row := e.rowsLeft.find? fun i =>
    decide (q.cnt b (e.arow + i) ≠ 0) && (mget q.rscale (b * 256 + e.arow + i)).map normScale ≠ (sa[i]?).map normScale
  let col := sb.find? fun p =>
    match mget q.cscale (b * 64 + p.1) with
    | some c => decide (normScale c ≠ normScale p.2)
    | none => false
  firstTrap
    [full.map fun i => no 1 (e.arow + i) 0, row.map fun i => no 2 (e.arow + i) 0,
     if q.empty b then none else col.map fun p => no 3 0 p.1]

/-- The latches set, as an operation starts. -/
def setLatches (s : State) (e : MEntry) : State :=
  let b := bankOf s e
  s.modQuad (quadOfCore e.core) fun q =>
    let rs := e.rowsLeft.foldl (fun m i =>
      if q.cnt b (e.arow + i) = 0 then (match e.sa[i]? with | some v => mput m (b * 256 + e.arow + i) v | none => m) else m) q.rscale
    { q with rscale := rs, cscale := e.sb.foldl (fun m p => mput m (b * 64 + p.1) p.2) q.cscale }

end Sys2Proof.Machine
end

