-- ==== Sys2Proof/Machine/MatrixEngine.lean ====
section
/-! DEFINITION. The events of a quad's matrix engine: the front of a group queue (R210), grants (R219), passes (R212, R213),
pairing (R222), operand faults (R223), MSTAT, MDRAIN and MZERO (R211, R216, R217, R224, R225, R228). -/

namespace Sys2Proof.Machine

set_option Elab.async false

/-! ### Entries -/

def Quad.entry? (q : Quad) (id : Nat) : Option MEntry := q.table.find? fun e => e.id = id
def setEntry (s : State) (qk : Nat) (e : MEntry) : State :=
  s.modQuad qk fun q => { q with table := q.table.map fun x => if x.id = e.id then e else x }
/-- An entry frees (R218). -/
def dropEntry (s : State) (qk id : Nat) : State :=
  s.modQuad qk fun q =>
    { q with
      table := q.table.filter fun x => x.id ≠ id
      planeA := q.planeA.filter fun x => x ≠ id
      planeS := q.planeS.filter fun x => x ≠ id }

/-- The threads of an entry that still stand in the block that posted it. -/
def entryThreads (s : State) (e : MEntry) : List Nat :=
  (e.lanes.map (threadKey e.core)).filter fun tk => (mget s.threads tk).isSome && (s.thread tk).first ≤ e.reqId

/-- The progress word's register. -/
def progDst (e : MEntry) : Dst := match e.dst with | .reg n => .reg (n + 1) | .win _ => .trans

/-- An operation ends: its progress word lands in each lane at the next head, and its entry frees. -/
def finishEntry (s : State) (qk : Nat) (e : MEntry) : State :=
  let s :=
    if e.op.hasProg then
      (entryThreads s e).foldl (fun s tk => addPend s tk { off := e.off, dst := progDst e, vals := [e.progWord 0] }) s
    else s
  let key := swapKey s e
  let s := if e.op = .mstream then s.modGroup e.group fun g => { g with swapDone := g.swapDone.filter fun x => x ≠ key && x ≠ anySwap } else s
  dropEntry s qk e.id

/-- The recorded PROG stands in the register as the thread parks (R207), and in that of its twin, which issues the same word anew (R209). -/
def recordProg (s : State) (e : MEntry) : State :=
  if !e.op.hasProg then s
  else
    ((entryThreads s e).flatMap fun tk => tk :: (s.twinOf tk).toList).foldl (fun s tk =>
      s.modThread tk fun t =>
        match progDst e with
        | .reg n => { t with headRegs := mput t.headRegs n (e.progWord e.done) }
        | .trans => t) s

/-- An operation is given up with a trap, and nothing of it is done (R210, R228): at the knot of the word for MMUL, MSTAT and MSTREAM; at
the next head that its threads reach for MDRAIN and MZERO. Its entry frees. -/
def trapEntry (s : State) (qk : Nat) (e : MEntry) (ti : TrapInfo) : State :=
  let ts := (e.lanes.map (threadKey e.core)).filter fun tk => (mget s.threads tk).isSome
  let s := ts.foldl (fun s tk =>
    s.modThread tk fun t =>
      let ti := { ti with off := e.off, ord := e.ord }
      if e.op.waits then (if t.first ≤ e.reqId then { t with cands := { ti with asked := true } :: t.cands } else t)
      else t.deferEngine (decide (t.first ≤ e.reqId)) { ti with defer := true }) s
  dropEntry s qk e.id

/-- An operation stops with a trap, its PROG recorded (R223). -/
def stopEntry (s : State) (qk : Nat) (e : MEntry) (ti : TrapInfo) : State := trapEntry (recordProg s e) qk e ti

/-- An engine's fault goes to its die's fault queue, and stops the operation with a PAGE trap (R370); only an MDRAIN's names the first row it
leaves unwritten (R407). -/
def faultEntry (s : State) (qk : Nat) (e : MEntry) (k : PageFault) (va : Nat) (wr : Bool) (det row : Nat) : State :=
  let id := s.nextId
  let s := { s with nextId := id + 1 }
  let s := s.addFault (dieOfQuad qk)
    { va := va, vas := (s.flight (s.flightKey e.group)).vas, kind := k, src := .matrix, wr := wr, core := qk % 32 * 4, det := det, who := id }
  stopEntry s qk e { kind := .page, sub := k.code, va := va, detail := wr.toNat + 2 * det, detail2 := if e.op = .mdrain then row else 0, who := id }

/-- Uncorrectable data met by an engine: in a replayable flight a record of its thread's DATA trap and a relaunch (R417), else a DATA trap. -/
def dataEntry (s : State) (qk : Nat) (e : MEntry) (sub det : Nat) : State :=
  let tk := threadKey e.core (e.lanes.headD 0)
  if (s.flight (s.flightKey e.group)).hdr.replay then
    let ti : TrapInfo := { kind := .data, sub := sub, off := e.off, ord := e.ord, detail := 2 * det, defer := !e.op.waits }
    uncorrectable (queueTrap s (dieOfQuad qk) { words := trapWords s tk ti (if e.op.waits then e.ord else (s.thread tk).ord) }) e.group
  else stopEntry s qk e { kind := .data, sub := sub, detail := 2 * det }

/-- An outcome that stops an operation; `row` is the first row that it leaves undone. -/
def failEntry {α : Type} (s : State) (qk : Nat) (e : MEntry) (row : Nat) : Eng α → State
  | .fault k va wr det => faultEntry s qk e k va wr det row
  | .data sub det => dataEntry s qk e sub det
  | _ => s

/-! ### MATRIX_ENTRY_FRONT -/

/-- The entry heads its group queue: every earlier entry of its group is gone, and no QFENCE holds it (R206, R258). -/
def atFront (s : State) (qk : Nat) (e : MEntry) : Bool :=
  !((s.quad qk).table.any fun x => x.group = e.group && x.seq < e.seq) && !s.fenced e.group 1 e.seq
    && (s.group e.group).zeroing = 0

/-- The row scales and in-range column scales of an MMUL or MSTREAM (R215). -/
def readScales (s : State) (e : MEntry) : Eng (List Nat × AMap Nat) × State :=
  let gk := e.group
  let k0 : Nat := if e.op = .mmul then e.kidx * e.span else ((sliceOf s e).map fun p => p.k0).getD 0
  match engMap (fun s i => readScale s gk e.t1 (tCols e.t1) k0 e.id (e.i0 + i)) (List.range e.nrow) s with
  | (.ok sa, s) =>
    if e.op = .mmul then
      match readColScales s gk e.t2 e.jb k0 e.id with
      | (.ok sb, s) => (.ok (sa, sb), s)
      | (.hold, s) => (.hold, s)
      | (.fault k va w d, s) => (.fault k va w d, s)
      | (.data a d, s) => (.data a d, s)
    else (.ok (sa, ((sliceOf s e).map fun p => p.scales).getD []), s)
  | (.hold, s) => (.hold, s)
  | (.fault k va w d, s) => (.fault k va w d, s)
  | (.data a d, s) => (.data a d, s)

/-- The checks at the front of the group queue, and the state that the entry enters (R210, R218). -/
def frontEntry (s : State) (qk : Nat) (e : MEntry) : State :=
  match frontTrap s e with
  | some ti => trapEntry s qk e ti
  | none =>
    if !e.op.hasProg then setEntry s qk { e with stat := .perform }
    else if (match e.op with | .mmul => e.steps | _ => e.nrow) ≤ e.done then finishEntry s qk e
    else
      match readScales s e with
      | (.ok (sa, sb), s) =>
        match latchTrap s e sa sb with
        | some ti => trapEntry s qk e ti
        | none => setEntry s qk { e with stat := .ready, sa := sa, sb := sb }
      | (.hold, _) => s
      | (x, s) => failEntry s qk e 0 x

/-! ### ARBITER_GRANT -/

/-- The entry that the arbiter grants (R219). -/
def pickEntry (q : Quad) : Option MEntry :=
  let ready := q.table.filter fun e => e.stat = .ready
  match ready.find? fun e => e.passed = 16 with
  | some e => some e
  | none => leastBy (fun e => 7 - e.prio) ready

/-- The array holds a pass. -/
def Quad.busy (q : Quad) : Bool := q.table.any fun e => e.stat = .stream || e.stat = .hold

/-- Two entries of quad partners match for a paired pass (R222). -/
def pairMatch (s : State) (a b : MEntry) : Bool :=
  let plane (e : MEntry) := (sliceOf s e).map fun p => (p.k0, p.depth)
  a.pair && b.pair && a.op = b.op && s.flightKey a.group = s.flightKey b.group && a.t1 = b.t1 && a.i0 = b.i0 && a.nrow = b.nrow
    && a.done = b.done && (if a.op = .mmul then a.kidx = b.kidx else plane a = plane b)

/-- A pass starts: an MSTREAM with SWAPF exchanges the buffers of its plane record (R212, R221), the operation sets its latches,
and the shadow plane preloads for the entry that then heads the order, which may be the pass's own with its next k-step (R199). -/
def startPass (s : State) (qk : Nat) (e : MEntry) : State :=
  let g := s.group e.group
  let s :=
    if e.op = .mstream && e.swapf && !swapped s e then
      s.setGroup e.group { g with active := g.shadow, shadow := g.active, opm := [], swapDone := swapKey s e :: g.swapDone }
    else s
  let s := (setLatches s e).countEvent e.core [e.group] 14 1
  let s := setEntry s qk { e with stat := .stream }
  let next := pickEntry { s.quad qk with table := (s.quad qk).table.map fun x =>
    if x.id = e.id && e.op = .mmul && e.done + 1 < e.steps then { x with stat := .ready, done := e.done + 1 } else x }
  s.modQuad qk fun q =>
    { q with planeA := some e.id, stepA := e.done, planeS := next.map fun x => x.id, stepS := (next.map fun x => x.done).getD 0 }

/-- The granted entry, and the ones passed over (R219). -/
def grantEntry (s : State) (qk : Nat) (e : MEntry) : State :=
  let s := s.modQuad qk fun q =>
    { q with table := q.table.map fun x =>
        if x.stat ≠ .ready then x else if x.id = e.id then { x with passed := 0 } else { x with passed := min (x.passed + 1) 16 } }
  let e := { e with passed := 0 }
  let mate := if qk % 2 = 0 then qk + 1 else qk - 1
  if !e.pair then startPass s qk e
  else
    match (s.quad mate).table.find? fun x => x.stat = .hold with
    | some x => if pairMatch s e x then startPass (startPass s mate x) qk e else setEntry s qk { e with stat := .hold }
    | none => setEntry s qk { e with stat := .hold }

/-- ARBITER_GRANT. -/
def execArbiterGrant (die quad : Nat) (s : State) : Host.Outcome State Fault Refusal :=
  let qk := die * 32 + quad
  let q := s.quad qk
  if q.busy || !s.up die then .next s
  else
    match pickEntry q with
    | some e => .next (grantEntry s qk e)
    | none => .next s

/-- PAIRED_HOLD_TIMEOUT (R222): the entry is re-posted as the oldest, single-width. -/
def execPairedHoldTimeout (die quad : Nat) (s : State) : Host.Outcome State Fault Refusal :=
  let qk := die * 32 + quad
  match (s.quad qk).table.find? fun e => e.stat = .hold with
  | some e =>
    .next (s.modQuad qk fun q =>
      { q with table := { e with stat := .ready, passed := 16, pair := false } :: q.table.filter fun x => x.id ≠ e.id })
  | none => .next s

/-! ### Passes -/

/-- One output row: the products of an A row with the slice, one sum for each of 64 columns. -/
def rowSums (elems : AMap Int) (a : List Int) : List Int :=
  (List.range 64).map fun c => a.zipIdx.foldl (fun v p => v + p.1 * mgetD elems (p.2 * 64 + c) 0) 0

/-- Sums added to an accumulator row, and D to its COUNT. -/
def addRow (s : State) (qk bank row d : Nat) (sums : List Int) : State :=
  s.modQuad qk fun q =>
    { q with
      acc := sums.zipIdx.foldl (fun m p => mmod m (bank * 16384 + row * 64 + p.2) {} fun r => r.add (residueOf p.1)) q.acc
      count := mmod q.count (bank * 256 + row) 0 fun n => n + d }

/-- The rows of a pass from row i on: each row's operands read, then the row added; the first row not done and what stopped it. -/
def streamRows (qk : Nat) (e : MEntry) (p : Slice) : List Nat → State → Nat × Eng Unit × State
  | [], s => (e.nrow, .ok (), s)
  | i :: r, s =>
    match readRow s e.group e.t1 p.k0 p.depth (e.i0 + i) e.id with
    | (.ok a, s) => streamRows qk e p r (addRow s qk (bankOf s e) (e.arow + i) p.depth (rowSums p.elems a))
    | (.hold, s) => (i, .hold, s)
    | (.fault k va w d, s) => (i, .fault k va w d, s)
    | (.data a d, s) => (i, .data a d, s)

/-- The slice of an MMUL's next k-step. -/
def stepSlice (s : State) (e : MEntry) : Eng Slice × State :=
  let k0 := e.kidx * e.span + e.done * e.depth
  match readSlice s e.group e.t2 k0 e.depth e.jb e.id with
  | (.ok el, s) => (.ok { elems := el, k0 := k0, depth := e.depth, jb := e.jb, image := e.t2 }, s)
  | (.hold, s) => (.hold, s)
  | (.fault k va w d, s) => (.fault k va w d, s)
  | (.data a d, s) => (.data a d, s)

/-- The pass of the streaming entry: its rows, the first one not done, and what stopped it. An MMUL's k-step is whole or
nothing (R223). -/
def runPass (s : State) (qk : Nat) (e : MEntry) : Nat × Eng Unit × State :=
  match e.op with
  | .mstream =>
    match (s.group e.group).active with
    | some p => streamRows qk e p e.rowsLeft s
    | none => (e.nrow, .ok (), s)
  | _ =>
    match stepSlice s e with
    | (.ok p, s1) =>
      match streamRows qk e p (List.range e.nrow) s1 with
      | (n, .ok (), s2) => (n, .ok (), s2)
      | (_, x, _) => (0, x, s1)
    | (.hold, s) => (0, .hold, s)
    | (.fault k va w d, s) => (0, .fault k va w d, s)
    | (.data a d, s) => (0, .data a d, s)

/-- A returned entry becomes READY once its next operand fetch would not wait again: its home has rejoined, or its re-walk is done
(R218, R223). It resumes at PROG with the scales it has. -/
def readyAgain (s : State) (qk : Nat) (e : MEntry) : State :=
  match runPass s qk e with
  | (n, .hold, _) => if n ≤ e.done then s else setEntry s qk { e with stat := .ready, returned := false }
  | _ => setEntry s qk { e with stat := .ready, returned := false }

/-- MATRIX_ENTRY_FRONT. -/
def execMatrixEntryFront (die quad entry : Nat) (s : State) : Host.Outcome State Fault Refusal :=
  let qk := die * 32 + quad
  match (s.quad qk).entry? entry with
  | some e =>
    .next (if e.stat = .posted && s.up die && atFront s qk e then (if e.returned then readyAgain s qk e else frontEntry s qk e) else s)
  | none => .next s

/-- The twin of a thread that has gone back to its block's head goes there too (R226). -/
def twinBack (s : State) (tk : Nat) : State :=
  match s.twinOf tk with
  | none => s
  | some w =>
    let no := (s.thread tk).blockNo
    if (s.thread w).blockNo ≤ no then s
    else (undoArrival (unplace s w) w).modThread w fun t => { t.rewind s.nextId with stat := .ret, lvq := t.lvq.filter fun e => e.1 ≤ no }

/-- An entry withdrawn by a stop (R226): PROG is recorded and its threads go back to their knots, a marionette flight's twins with them. -/
def withdrawEntry (s : State) (qk : Nat) (e : MEntry) : State :=
  let s := recordProg s e
  let s := (entryThreads s e).foldl (fun s tk => twinBack (s.modThread tk fun t => t.rewind s.nextId) tk) s
  dropEntry s qk e.id

/-- PASS_END: the streaming pass has been performed. An MMUL with steps left competes again, unless its group is being
stopped. -/
def execPassEnd (die quad : Nat) (s : State) : Host.Outcome State Fault Refusal :=
  let qk := die * 32 + quad
  match (s.quad qk).table.find? fun e => e.stat = .stream with
  | none => .next s
  | some e =>
    match runPass s qk e with
    | (_, .ok (), t) =>
      if e.op = .mmul && e.done + 1 < e.steps then
        let e := { e with done := e.done + 1, stat := .ready }
        let t := setEntry t qk e
        .next (if (s.group e.group).stopping then withdrawEntry t qk e else t)
      else .next (finishEntry t qk e)
    | _ => .next s

/-- OPERAND_FETCH_STOP (R223): the streaming pass meets a fault, or a home that does not answer: rows completed stay, and the
operation stops with a trap, or goes back to POSTED. -/
def execOperandFetchStop (die quad entry : Nat) (s : State) : Host.Outcome State Fault Refusal :=
  let qk := die * 32 + quad
  match (s.quad qk).entry? entry with
  | none => .next s
  | some e =>
    if e.stat ≠ .stream then .next s
    else
      match runPass s qk e with
      | (_, .ok (), _) => .next s
      | (n, x, t) =>
        let e := if e.op = .mstream then { e with done := n } else e
        match x with
        | .hold => .next (setEntry t qk { e with stat := .posted, returned := true })
        | x => .next (failEntry t qk e e.done x)

/-! ### MSTAT -/

/-- MSTAT_PERFORM (R211). -/
def execMstatPerform (die quad entry : Nat) (s : State) : Host.Outcome State Fault Refusal :=
  let qk := die * 32 + quad
  match (s.quad qk).entry? entry with
  | none => .next s
  | some e =>
    if e.stat ≠ .perform || e.op ≠ .mstat then .next s
    else
      let k0 := e.kidx * e.depth
      match readSlice s e.group e.t1 k0 e.depth e.jb e.id with
      | (.ok el, t) =>
        match readColScales t e.group e.t1 e.jb k0 e.id with
        | (.ok sb, t) =>
          let p : Slice := { elems := el, scales := sb, image := e.t1, k0 := k0, depth := e.depth, jb := e.jb }
          .next (finishEntry (t.modGroup e.group fun g => { g with shadow := some p, opm := g.opm.filter fun x => x.1 < 2 ^ 18 }) qk e)
        | (.hold, _) => .next s
        | (x, t) => .next (failEntry t qk e 0 x)
      | (.hold, _) => .next s
      | (x, t) => .next (failEntry t qk e 0 x)

/-! ### MZERO and the clearing of rows -/

/-- Rows cleared (R216, R217). -/
def clearRows (s : State) (qk bank : Nat) (rows : List Nat) : State :=
  s.modQuad qk fun q =>
    let inRow (k w : Nat) : Bool := k / (256 * w) = bank && rows.contains (k / w % 256)
    let q := { q with
      acc := q.acc.filter fun p => !inRow p.1 64
      count := q.count.filter fun p => !inRow p.1 1
      rscale := q.rscale.filter fun p => !inRow p.1 1 }
    if q.empty bank then { q with cscale := q.cscale.filter fun p => p.1 / 64 ≠ bank } else q

/-- MZERO_PERFORM (R217). -/
def execMzeroPerform (die quad entry : Nat) (s : State) : Host.Outcome State Fault Refusal :=
  let qk := die * 32 + quad
  match (s.quad qk).entry? entry with
  | none => .next s
  | some e =>
    if e.stat ≠ .perform || e.op ≠ .mzero then .next s
    else .next (finishEntry (clearRows s qk (bankOf s e) (span e.arow e.nrow)) qk e)

/-! ### MDRAIN -/

/-- One element written: modes 0 and 4 read and write at once at the home. In a replayable flight each global element joins the ballast under
the number of its MDRAIN, so that a later release of its thread commits it (R208, R415): a store, or a change of the word, which reads and writes
at once when it is committed (R216). The ballast must have room (R416). -/
def drainElem (s : State) (e : MEntry) (rg : Region) (i j : Nat) (v : Int) (sa sb : Nat) : Eng Nat × State :=
  let gk := e.group
  let at_ := rg (tBit e.t1 i j / 8)
  let rw : Bool := e.mode = .acc || e.mode = .res
  match at_ with
  | .own va | .glob va =>
    if (s.flight (s.flightKey gk)).hdr.replay then
      let tk := threadKey e.core (e.lanes.headD 0)
      let b : BStore :=
        { addr := va, data := leBytes (tWidth e.t1 / 8) (drainCode e.mode v sa sb 0), thread := tk, id := e.reqId
          upd := if rw then some (.drain e.mode v sa sb) else none }
      match roomFor s gk tk b.data.length with
      | (.ok _, s) => (.ok 0, addBallast s gk b)
      | x => x
    else if rw then engUpdate s gk va .rw (drainCode e.mode v sa sb)
    else writeElem s gk e.t1 rg i j (drainCode e.mode v sa sb 0)
  | _ =>
    if rw then
      match readElem s gk e.t1 rg i j with
      | (.ok old, s) => writeElem s gk e.t1 rg i j (drainCode e.mode v sa sb old)
      | x => x
    else writeElem s gk e.t1 rg i j (drainCode e.mode v sa sb 0)

/-- The value and scales with which a row's column drains (R216). -/
def drainPart (q : Quad) (b row c : Nat) : Int × Nat × Nat :=
  let live := q.cnt b row ≠ 0
  match mget q.cscale (b * 64 + c) with
  | some sc => if live then ((mgetD q.acc (b * 16384 + row * 64 + c) {}).val, mgetD q.rscale (b * 256 + row) 0x0FE, sc) else (0, 0x0FE, 0x0FE)
  | none => (0, if live then mgetD q.rscale (b * 256 + row) 0x0FE else 0x0FE, 0x0FE)

/-- The elements of one row from column c on; the column that was not written. -/
def drainRow (e : MEntry) (rg : Region) (b row i : Nat) (q : Quad) : List Nat → State → Nat × Eng Unit × State
  | [], s => (64, .ok (), s)
  | c :: r, s =>
    let (v, sa, sb) := drainPart q b row c
    match drainElem s e rg i (64 * e.jb + c) v sa sb with
    | (.ok _, s) => drainRow e rg b row i q r s
    | (.hold, s) => (c, .hold, s)
    | (.fault k va w d, s) => (c, .fault k va w d, s)
    | (.data a d, s) => (c, .data a d, s)

/-- The first element of the tile whose check channel disagrees (R140). -/
def badElem (q : Quad) (e : MEntry) (b : Nat) : Option (Nat × Nat × Residue) :=
  (List.range e.nrow).findSome? fun i =>
    (List.range 64).findSome? fun c =>
      let r := mgetD q.acc (b * 16384 + (e.arow + i) * 64 + c) {}
      if r.ok then none else some (e.arow + i, c, r)

/-- Rows of a drain, each cleared once it is written in full. A row whose write waits, or stops, keeps what it has: the whole row
is taken again, so that the row's write is one step: nothing of it is written before. -/
def drainRows (qk : Nat) (e : MEntry) : Nat → State → Nat × Eng Unit × State
  | 0, s => (e.nrow, .ok (), s)
  | n + 1, s =>
    let i := e.nrow - (n + 1)
    if i < e.done then drainRows qk e n s
    else
      let b := bankOf s e
      let row := e.arow + i
      let cols := List.range (min 64 (tCols e.t1 - 64 * e.jb))
      match drainRow e (elemRegion s e.group e.t1 e.id) b row (e.i0 + i) (s.quad qk) cols s with
      | (_, .ok (), t) => drainRows qk e n (clearRows t qk b [row])
      | (_, x, _) => (i, x, s)

/-- MDRAIN_PERFORM (R216): the check of every element first; then row by row. A MISS waits for the die kernel (R224); any other
fault stops it with rows already written (R225); the first unwritten row that DETAIL2 names is the bank's, AROW + n (DESIGN CHOICE,
log 101). -/
def execMdrainPerform (die quad entry : Nat) (s : State) : Host.Outcome State Fault Refusal :=
  let qk := die * 32 + quad
  match (s.quad qk).entry? entry with
  | none => .next s
  | some e =>
    if e.stat ≠ .perform || e.op ≠ .mdrain then .next s
    else
      match (if e.done = 0 then badElem (s.quad qk) e (bankOf s e) else none) with
      | some (row, col, r) =>
        let sub := if r.r0 = 0 && r.r1 = 0 && r.r2 = 0 && r.chk = 1 then 2 else 1
        .next (stopEntry s qk e { kind := .residue, sub := sub, detail := e.bank + 2 ^ 8 * row + 2 ^ 16 * col })
      | none =>
        match drainRows qk e e.nrow s with
        | (_, .ok (), t) => .next (finishEntry t qk e)
        | (n, .hold, t) => .next (setEntry t qk { e with done := n })
        | (n, .fault .miss va wr det, t) =>
          let e := { e with done := n, stat := .waiting }
          .next ((setEntry t qk e).addFault die
            { va := va, vas := (t.flight (t.flightKey e.group)).vas, kind := .miss, src := .matrix, wr := wr, core := quad * 4, det := det, who := e.id })
        | (n, x, t) => .next (failEntry t qk { e with done := n } (e.arow + n) x)

end Sys2Proof.Machine
end

