-- ==== Sys2Proof/Machine/Streams.lean ====
section
/-! DEFINITION. The events of a streamer (R284 to R290) and of the combining switches (R298 to R300). -/

namespace Sys2Proof.Machine

set_option Elab.async false

/-! ### Entries -/

def setSEntry (s : State) (qk : Nat) (e : SEntry) : State :=
  s.modQuad qk fun q => { q with queue := q.queue.map fun x => if x.id = e.id then e else x }
def dropSEntry (s : State) (qk id : Nat) : State :=
  s.modQuad qk fun q => { q with queue := q.queue.filter fun x => x.id ≠ id }

/-- The first element, in row-major order of the tile, of granule g: granules are 128 bytes of the destination (R287). -/
def firstElem (e : SEntry) (g : Nat) : Nat := ceilDiv (1024 * g) (tWidth e.dst)
def SEntry.cells (e : SEntry) : Nat := copyRows e * copyCols e
/-- Every granule is written. -/
def SEntry.full (e : SEntry) : Bool := e.cells ≤ firstElem e e.granule

/-- The region that the destination is laid out in: the tether's, or for a reel the slot's (R293). -/
def dstRegion (s : State) (e : SEntry) : Region :=
  if e.byCtr then elemRegion s e.group e.dst
  else
    match s.reel? e.group (e.sync % 2 ^ 18) with
    | some r => spotOf s e.group 1 (2 ^ 18 * 0x7F + r.slotOff e.slot) (tSwz e.dst) 0
    | none => fun _ => .none

/-! ### Tiles (R284): which elements of the tile a word of the destination holds, and where they come from -/

/-- The destination row and column of element (i, j) of the tile; none for a row that SCATTER drops. -/
def dstPlace (e : SEntry) (i j : Nat) : Option (Nat × Nat) :=
  match e.kind with
  | .copy | .combine => some (hiHalf e.c1 + i, loHalf e.c1 + j)
  | .gather => some (hiHalf e.c1 + i, j)
  | .scatter => match e.idx[i]? with
    | some row => if row < tRows e.dst then some (row, loHalf e.c1 + j) else none
    | none => none

/-- The source row and column of element (i, j); none for GATHER's zero element. -/
def srcPlace (e : SEntry) (i j : Nat) : Option (Nat × Nat) :=
  match e.kind with
  | .copy | .combine => some (hiHalf e.c0 + i, loHalf e.c0 + j)
  | .scatter => some (hiHalf e.c1 + i, j)
  | .gather => match e.idx[i]? with
    | some row => if row < tRows e.src then some (row, loHalf e.c1 + j) else none
    | none => none

/-- The elements of the tile that a destination row and column take, in ascending order: only SCATTER has more than one. -/
def tileOf (e : SEntry) (row col : Nat) : List (Nat × Nat) :=
  let within (x lo n : Nat) : Bool := lo ≤ x && x < lo + n
  match e.kind with
  | .copy | .combine =>
    if within row (hiHalf e.c1) (copyRows e) && within col (loHalf e.c1) (copyCols e) then [(row - hiHalf e.c1, col - loHalf e.c1)] else []
  | .gather => if within row (hiHalf e.c1) (copyRows e) && col < copyCols e then [(row - hiHalf e.c1, col)] else []
  | .scatter =>
    if row < tRows e.dst && within col (loHalf e.c1) (copyCols e) then (e.idx.zipIdx.filter fun p => p.1 = row).map fun p => (p.2, col - loHalf e.c1) else []

/-- The rows and columns of a tether whose elements lie, at least in part, in word n of its region. -/
def wordPlaces (t : List Word) (n : Nat) : List (Nat × Nat) :=
  let w := tWidth t
  let lo := 32 * n / w
  ((span lo ((32 * n + 31) / w + 1 - lo)).filter fun p => p % tStride t < tLine t).map fun p =>
    if tColMajor t then (p % tStride t, p / tStride t) else (p / tStride t, p % tStride t)

/-- The words of a region that hold bits b to b + w - 1. -/
def bitWords (b w : Nat) : List Nat := span (b / 32) ((b + w - 1) / 32 + 1 - b / 32)

/-- The words of the destination that a granule writes: those that hold an element of it and none of an earlier granule, so that each
word is written once (R289). -/
def granuleWords (e : SEntry) : List Nat :=
  let a := firstElem e e.granule
  let m := copyCols e
  let ks := span a (min (firstElem e (e.granule + 1)) e.cells - a)
  let ws := (ks.flatMap fun k => match dstPlace e (k / m) (k % m) with | some p => bitWords (tBit e.dst p.1 p.2) (tWidth e.dst) | none => []).eraseDups
  ws.filter fun n => (wordPlaces e.dst n).all fun p => (tileOf e p.1 p.2).all fun q => a ≤ q.1 * m + q.2

/-- What a word of the destination takes: for each element its bit in the region and, if it has one, its bit in the source's. Of two
elements in one place the later one stands (R284). -/
def wordParts (e : SEntry) (n : Nat) : List (Nat × Option Nat) :=
  (wordPlaces e.dst n).filterMap fun p =>
    (tileOf e p.1 p.2).getLast?.map fun q => (tBit e.dst p.1 p.2, (srcPlace e q.1 q.2).map fun r => tBit e.src r.1 r.2)

/-! ### Granules (R287 to R289) -/

/-- Words of a region read, each once: those that `seen` lists are not read again. -/
def readWords (gk : Nat) (rg : Region) : List Nat → AMap Nat → State → Eng (AMap Nat) × State
  | [], seen, s => (.ok seen, s)
  | n :: r, seen, s =>
    if (mget seen n).isSome then readWords gk rg r seen s
    else
      match readSpan s gk rg (4 * n) 4 8 with
      | (.ok v, s) => readWords gk rg r (mput seen n v) s
      | (.hold, s) => (.hold, s)
      | (.fault k va w d, s) => (.fault k va w d, s)
      | (.data a d, s) => (.data a d, s)

/-- The index list of a GATHER or SCATTER, read at its first granule (R284). -/
def readIndices (s : State) (e : SEntry) : Eng (List Nat) × State :=
  if !e.kind.indexed || e.idx ≠ [] then (.ok e.idx, s)
  else
    match readWords e.group (spotOf s e.group 1 e.c0.toNat false 0) (List.range (copyRows e)) [] s with
    | (.ok m, s) => (.ok ((List.range (copyRows e)).map fun i => mgetD m i 0), s)
    | (.hold, s) => (.hold, s)
    | (.fault k va w d, s) => (.fault k va w d, s)
    | (.data a d, s) => (.data a d, s)

/-- The code of w bits at bit b of words that have been read. -/
def codeAt (seen : AMap Nat) (b w : Nat) : Nat :=
  (mgetD seen (b / 32) 0 + 2 ^ 32 * mgetD seen (b / 32 + 1) 0) / 2 ^ (b % 32) % 2 ^ w

/-- The value of word n of the destination and the mask of its bits that the copy writes. -/
def wordValue (e : SEntry) (n : Nat) : Nat × Nat :=
  let w := tWidth e.dst
  let at' (b x : Nat) : Nat := x * 2 ^ (b + 32 - 32 * n) / 2 ^ 32 % 2 ^ 32
  (wordParts e n).foldl (fun r p =>
    let code := match p.2 with | some b => codeAt e.seen b w | none => 0
    (r.1 ||| at' p.1 code, r.2 ||| at' p.1 (2 ^ w - 1))) (0, 0)

/-- One word of the destination written. In a replayable flight a copy that is no commit point puts its words of global memory into the group's
ballast (R415), where they stand behind what its thread has stored before (R256). -/
def putWord (e : SEntry) (s : State) (n : Nat) : Eng Nat × State :=
  let v := wordValue e n
  match dstRegion s e (4 * n) with
  | .glob va =>
    if (s.flight (s.flightKey e.group)).hdr.replay && tSpace e.src ≠ 0 then
      match roomFor s e.group e.thread 4 with
      | (.ok _, s) =>
        (.ok 0, addBallast s e.group
          { addr := va, data := leBytes 4 v.1, thread := e.thread, id := e.id, upd := if v.2 = 2 ^ 32 - 1 then none else some (.mask v.2 v.1) })
      | x => x
    else writeWord s e.group (dstRegion s e) n v.2 v.1
  | _ => writeWord s e.group (dstRegion s e) n v.2 v.1

/-- The words of the next granule, all of them moved or none (R288): the words of the source first, then those of the destination. -/
def moveGranule (s : State) (e : SEntry) : Eng SEntry × State :=
  match readIndices s e with
  | (.ok ix, s) =>
    let e := { e with idx := ix }
    let ws := granuleWords e
    let need := ((ws.flatMap (wordParts e)).filterMap (·.2)).flatMap fun b => bitWords b (tWidth e.src)
    match readWords e.group (elemRegion s e.group e.src) need e.seen s with
    | (.ok seen, s) =>
      let e := { e with seen := seen }
      match engMap (putWord e) ws s with
      | (.ok _, s) => (.ok e, s)
      | (.hold, s) => (.hold, s)
      | (.fault k va w d, s) => (.fault k va w d, s)
      | (.data a d, s) => (.data a d, s)
    | (.hold, s) => (.hold, s)
    | (.fault k va w d, s) => (.fault k va w d, s)
    | (.data a d, s) => (.data a d, s)
  | (.hold, s) => (.hold, s)
  | (.fault k va w d, s) => (.fault k va w d, s)
  | (.data a d, s) => (.data a d, s)

/-! ### STREAMER_ENTRY_START -/

/-- An access that the issuing thread made earlier is still to be performed (R256). -/
def earlierOpen (s : State) (e : SEntry) : Bool :=
  s.reqs.any fun r => r.ofThread e.thread && r.id < e.id && !r.performed && r.kind ≠ .pref

/-- The entry is the first of its queue in its group, no QFENCE holds it, its group is not being stopped, and what it must follow
is performed (R256, R258). -/
def mayStart (s : State) (qk : Nat) (e : SEntry) : Bool :=
  let q : Nat := if e.kind = .combine then 2 else 0
  e.stat = .queued && !(s.group e.group).stopping && !s.fenced e.group q e.seq && !earlierOpen s e
    && !((s.quad qk).queue.any fun x => x.group = e.group && x.seq < e.seq && ((x.kind = .combine : Bool) = (e.kind = .combine : Bool)))

/-- STREAMER_ENTRY_START: one entry moves at a time. -/
def execStreamerEntryStart (die quad : Nat) (s : State) : Host.Outcome State Fault Refusal :=
  let qk := die * 32 + quad
  let q := s.quad qk
  if !s.up die || q.queue.any fun e => e.stat = .moving then .next s
  else
    match q.queue.find? (mayStart s qk) with
    | some e => .next (setSEntry s qk { e with stat := .moving })
    | none => .next s

/-! ### Combining: sending (R296, R297) -/

/-- The address of element (i, j) of a global tether. -/
def elemVa (t : List Word) (i j : Nat) : Nat := tBase t + tBit t i j / 8

/-- The switch of a destination (R297): the I/O die of the home of T's first element, which BASE holds; a fault where the contributor's
replica has no leaf. -/
def switchOf (s : State) (e : SEntry) : Eng Nat :=
  let die := dieOfCore e.core
  let va := tBase e.dst
  match s.leafAt die (s.flight (s.flightKey e.group)).vas va with
  | .inr (l, _) => .ok (servingIo (homeOf l va))
  | .inl .absent => .fault .miss va true die
  | .inl _ => .fault .invalid va true die

/-- The tile of a COMBINE. -/
def readTile (s : State) (e : SEntry) : Eng (List Nat) × State :=
  engMap (fun s k => readElem s e.group e.src (elemRegion s e.group e.src) (hiHalf e.c0 + k / copyCols e) (loHalf e.c0 + k % copyCols e))
    (List.range e.cells) s

/-- A contribution sent to its switch. -/
def sendContrib (s : State) (qk io : Nat) (e : SEntry) : State :=
  let c : Contrib :=
    { vas := (s.flight (s.flightKey e.group)).vas, entry := e, quad := qk, rows := copyRows e, cols := copyCols e, data := e.data }
  setSEntry (sendPacket s (dieOfQuad qk) io c.vas .bulk (.contrib c)) qk { e with stat := .sent }

/-- What the next granule of the moving entry comes to: the state after it, or what stops it, which leaves nothing of the granule
written (R288). -/
def tryGranule (s : State) (qk : Nat) (e : SEntry) : Eng State :=
  if e.kind = .combine then
    match switchOf s e with
    | .ok io =>
      match readTile s e with
      | (.ok vs, t) => .ok (sendContrib t qk io { e with data := vs.map fun v => BitVec.ofNat 32 v })
      | (.hold, _) => .hold
      | (.fault k va w d, _) => .fault k va w d
      | (.data a d, _) => .data a d
    | .hold => .hold
    | .fault k va w d => .fault k va w d
    | .data a d => .data a d
  else
    match moveGranule s e with
    | (.ok e, t) =>
      let e := { e with granule := e.granule + 1, crcBad := false }
      .ok (setSEntry (t.countEvent e.core [e.group] 15 1) qk (if e.full then { e with stat := .written } else e))
    | (.hold, _) => .hold
    | (.fault k va w d, _) => .fault k va w d
    | (.data a d, _) => .data a d

/-! ### COPY_GRANULE, COPY_FAULT, COPY_SYNC -/

/-- COPY_GRANULE: a granule is moved; one CRC mismatch makes it be read and sent again (R287). -/
def execCopyGranule (die quad : Nat) (crc : Crc) (s : State) : Host.Outcome State Fault Refusal :=
  let qk := die * 32 + quad
  match (s.quad qk).queue.find? fun e => e.stat = .moving with
  | none => .next s
  | some e =>
    match crc with
    | .good =>
      match tryGranule s qk e with
      | .ok t => .next t
      | _ => .next s
    | .once => .next (if e.kind = .combine then s else setSEntry s qk { e with crcBad := true })
    | _ => .next s

/-- The next slot of a reel is filled as failed, with a code of R288. -/
def Reel.fail (r : Reel) (slot code : Nat) : Reel :=
  let k := slot % r.nslot
  { r with widx := (r.widx + 1) % 2 ^ 32, failed := setBit r.failed k, ecode := code, eslot := k, ecount := satAdd r.ecount 1 8 }

/-- A copy stops for good with a code of R288: its reel's slot is filled as failed, or its flight faults. -/
def failCopy (s : State) (qk : Nat) (e : SEntry) (code : Nat) : State :=
  let gk := e.group
  let s := dropSEntry s qk e.id
  if e.byCtr then faultFlight s (s.flightKey gk) 1 code (s.train (s.group gk).train).t
  else
    match s.reel? gk (e.sync % 2 ^ 18) with
    | none => s
    | some r => changeReel s gk (r.fail e.slot code)

/-- An access fault of an entry: entered in the fault queue; MISS and ADDR wait for the die kernel, the others are fatal (R288), once the fault
queue has an entry for them (R371). -/
def faultCopy (s : State) (qk : Nat) (e : SEntry) (k : PageFault) (va : Nat) (wr : Bool) (det : Nat) : State :=
  let s := s.addFault (dieOfQuad qk)
    { va := va % 2 ^ 57, vas := (s.flight (s.flightKey e.group)).vas, kind := k, src := .streamer, wr := wr, core := qk % 32 * 4, det := det
      who := e.id }
  if k = .addr || s.faultWaits (dieOfQuad qk) k then setSEntry s qk { e with stat := .faulted, fault := some k.copyCode } else failCopy s qk e k.copyCode

/-- Uncorrectable source data: in a replayable flight a DATA record that names the issuing thread, and a relaunch (R417); else a fatal
fault. -/
def dataCopy (s : State) (qk : Nat) (e : SEntry) : State :=
  if (s.flight (s.flightKey e.group)).hdr.replay then
    let ti : TrapInfo := { kind := .data, sub := 1, off := (s.thread e.thread).off, ord := (s.thread e.thread).ord, detail := 2 * dieOfQuad qk, defer := true }
    uncorrectable (queueTrap s (dieOfQuad qk) { words := trapWords s e.thread ti ti.ord }) e.group
  else failCopy s qk e 6

/-- COPY_FAULT: the next granule meets a fault, a second CRC mismatch, or uncorrectable data. -/
def execCopyFault (die quad : Nat) (crc : Crc) (s : State) : Host.Outcome State Fault Refusal :=
  let qk := die * 32 + quad
  match (s.quad qk).queue.find? fun e => e.stat = .moving with
  | none => .next s
  | some e =>
    match crc with
    | .twice => .next (failCopy s qk e 5)
    | .once => .next (if e.crcBad then failCopy s qk e 5 else s)
    | .uncorr => .next (dataCopy s qk e)
    | .good =>
      match tryGranule s qk e with
      | .fault k va wr det => .next (faultCopy s qk e k va wr det)
      | .data _ _ => .next (dataCopy s qk e)
      | _ => .next s

/-- What a copy of a replayable flight has put into the ballast is committed before its counter add, which is its release (R257, R416;
DEDUCED, log 120). -/
def commitCopy (s : State) (e : SEntry) : Eng Nat × State :=
  if (s.flight (s.flightKey e.group)).hdr.replay && (s.group e.group).ballast ≠ [] then
    engCommit s e.group (s.group e.group).ballast.length
  else (.ok 0, s)

/-- COPY_SYNC (R286, R257): the counter add after the die's dirty non-home lines are written back, or the reel's advance. -/
def execCopySync (die quad : Nat) (s : State) : Host.Outcome State Fault Refusal :=
  let qk := die * 32 + quad
  match (s.quad qk).queue.find? fun e => e.stat = .written with
  | none => .next s
  | some e =>
    if e.byCtr then
      match commitCopy s e with
      | (.ok _, s) =>
        match releaseWide s die with
        | (t, false) => .next t
        | (t, true) =>
          match agentCtrAdd t die (t.flight (t.flightKey e.group)).vas e.sync 1 with
          | (.done (.performed _), t) => .next (dropSEntry t qk e.id)
          | (.done (.fault k det), t) => .next (faultCopy t qk e k e.sync true det)
          | (.done (.data _ _), t) => .next (dataCopy t qk e)
          | _ => .next s
      | (.fault k va wr det, s) => .next (faultCopy s qk e k va wr det)
      | (.data _ _, s) => .next (dataCopy s qk e)
      | (.hold, s) => .next s
    else
      match s.reel? e.group (e.sync % 2 ^ 18) with
      | some r => .next (changeReel (dropSEntry s qk e.id) e.group { r with widx := (r.widx + 1) % 2 ^ 32 })
      | none => .next (dropSEntry s qk e.id)

/-! ### The combining switch (R298 to R300) -/

/-- Fields of a contribution: contributor index, number of contributors. -/
def cidx (con : Word) : Nat := bits con.toNat 23 12
def ncon (con : Word) : Nat := con.toNat % 4096

/-- A contribution agrees with an entry of its key. -/
def Contrib.agrees (c : Contrib) (e : Combine) : Bool :=
  c.entry.dst = e.dst && c.entry.c1 = e.c1 && c.rows = e.rows && c.cols = e.cols && ncon c.entry.con = ncon e.con
    && bitOf c.entry.con.toNat 24 = bitOf e.con.toNat 24

/-- Table entries in use: one for each key, and one for each FP32 contribution ahead of its index. -/
def combineUse (d : Die) : Nat := d.combines.length + sumBy (fun (e : Combine) => e.early.length) d.combines

/-- Two words added under a format: RES32, INT32, FP32. -/
def combineAdd (fmt : Nat) (a b : Word) : Word :=
  if fmt = 8 then BitVec.ofNat 32 (addRes32 a.toNat b.toNat)
  else if fmt = 9 then a + b
  else BitVec.ofNat 32 (fp32.add {} a.toNat b.toNat)

/-- Contributions that arrived early and whose turn has come. -/
def takeEarly (e : Combine) : Nat → Combine
  | 0 => e
  | n + 1 =>
    match e.early.find? fun p => p.1 = e.next with
    | none => e
    | some p =>
      takeEarly { e with
        sum := List.zipWith (combineAdd 3) e.sum p.2, next := e.next + 1, early := e.early.filter fun x => x.1 ≠ p.1 } n

/-- A contribution summed into its entry. -/
def sumContrib (e : Combine) (c : Contrib) : Combine :=
  let fmt := tFmt e.dst
  let e := { e with who := e.who ++ [c.entry.id] }
  if fmt ≠ 3 then { e with sum := if e.next = 0 then c.data else List.zipWith (combineAdd fmt) e.sum c.data, next := e.next + 1 }
  else if cidx c.entry.con = e.next then
    takeEarly { e with sum := if e.next = 0 then c.data else List.zipWith (combineAdd 3) e.sum c.data, next := e.next + 1 } e.early.length
  else { e with early := e.early ++ [(cidx c.entry.con, c.data)] }

/-- One word of the destination written by a switch: FP32 stores the sum, the others add it, indivisibly at the home. -/
def combineWord (io : Nat) (e : Combine) (s : State) (p : Word × Nat) : Eng Nat × State :=
  let va := elemVa e.dst (hiHalf e.c1 + p.2 / e.cols) (loHalf e.c1 + p.2 % e.cols)
  let fmt := tFmt e.dst
  match agentCheck s io e.vas va (if fmt = 3 then .write else .rw) with
  | (.hold, _, s) => (.hold, s)
  | (.no a, _, s) =>
    match engOf va true (.done a) with
    | .fault k va w d => (.fault k va w d, s)
    | _ => (.hold, s)
  | (.ok _ _, h, s) =>
    let f (old : List Byte) : List Byte :=
      if fmt = 3 then leBytes 4 p.1.toNat else leBytes 4 (combineAdd fmt (BitVec.ofNat 32 (leValue old)) p.1).toNat
    let (r, s) :=
      if fmt = 3 then storeAtHome s io h e.vas va (f []) { die := io } none
      else updateAtHome s io h e.vas va 4 .rw { die := io } none fun old => (f old, [])
    match engOf va true r with
    | .ok _ => (.ok 0, s)
    | .hold => (.hold, s)
    | .fault k va w d => (.fault k va w d, s)
    | .data a d => (.data a d, s)

/-- The adds owed for contributions become ready. -/
def readyAdds (s : State) (ids : List Nat) : State :=
  { s with dies := s.dies.map fun p =>
      (p.1, { p.2 with combAdds := p.2.combAdds.map fun a => if ids.contains a.id then { a with ready := true } else a }) }

/-- The same entry of the table. -/
def Combine.same (a b : Combine) : Bool := a.vas = b.vas && a.key = b.key

/-- An entry's sum is written to the destination, all words or none, and the entry is freed; a fault waits for the die kernel. -/
def writeCombine (s : State) (io : Nat) (e : Combine) : State :=
  match engMap (combineWord io e) e.sum.zipIdx s with
  | (.ok _, t) => readyAdds (t.modDie io fun d => { d with combines := d.combines.filter fun x => !x.same e }) e.who
  | (.fault k va wr det, _) =>
    if e.fault ≠ 0 then s
    else
      let id := s.nextId
      let s := ({ s with nextId := id + 1 }).addFault io
        { va := va % 2 ^ 57, vas := e.vas, kind := k, src := .streamer, wr := wr, det := det, who := id }
      s.modDie io fun d => { d with combines := d.combines.map fun x => if x.same e then { x with fault := id } else x }
  | (_, _) => s

/-- The contribution is accepted: its streamer entry is performed, and its counter add is owed (R299). -/
def acceptContrib (s : State) (c : Contrib) (ready : Bool) : State :=
  let e := c.entry
  let s := dropSEntry s c.quad e.id
  s.modDie (dieOfQuad c.quad) fun d =>
    { d with combAdds := d.combAdds ++ [{ id := e.id, group := e.group, seq := e.seq, vas := c.vas, ctr := e.sync, ready := ready }] }

/-- A contribution for a key with an entry. -/
def joinCombine (s : State) (io : Nat) (c : Contrib) (e : Combine) : State :=
  let ahead : Bool := tFmt e.dst = 3 && cidx c.entry.con ≠ e.next
  if !c.agrees e then failCopy s c.quad c.entry 7
  else if ahead && 4096 ≤ combineUse (s.die io) then setSEntry s c.quad { c.entry with stat := .refused }
  else
    let e' := sumContrib e c
    let s := s.modDie io fun d => { d with combines := d.combines.map fun x => if x.same e then e' else x }
    let s := acceptContrib s c false
    if e'.next = ncon e'.con then writeCombine s io e' else s

/-- The switch takes a contribution; none while it must wait. A bypass that faults has added nothing (R300). -/
def takeContrib (s : State) (io : Nat) (c : Contrib) : Option State :=
  let t := s.modDie io fun d => { d with contribs := d.contribs.erase c }
  let fresh : Combine :=
    { vas := c.vas, key := c.entry.key, dst := c.entry.dst, c1 := c.entry.c1, rows := c.rows, cols := c.cols, con := c.entry.con }
  match (s.die io).combines.find? fun e => e.vas = c.vas && e.key = c.entry.key with
  | some e => some (joinCombine t io c e)
  | none =>
    if combineUse (s.die io) < 4096 then
      some (joinCombine (t.modDie io fun d => { d with combines := d.combines ++ [fresh] }) io c fresh)
    else if tFmt c.entry.dst = 3 then some (setSEntry t c.quad { c.entry with stat := .refused })
    else
      match engMap (combineWord io fresh) c.data.zipIdx t with
      | (.ok _, u) => some (acceptContrib (u.modDie io fun d => { d with partials := d.partials + 1 }) c true)
      | (.hold, _) => none
      | (.fault k va wr det, _) => some (faultCopy t c.quad c.entry k va wr det)
      | (.data _ _, _) => some (dataCopy t c.quad c.entry)

/-- The oldest packet of each partition of a list: packets of one partition keep their order, and none waits for another's (R24, R316). -/
def oldestEach {α : Type} (vas : α → Nat) (l : List α) : List α :=
  l.foldl (fun r x => if r.any fun y => vas y = vas x then r else r ++ [x]) []

/-- COMBINE_CONTRIBUTION: the switch takes its next contribution: the first of a partition that need not wait. -/
def execCombineContribution (io : Nat) (s : State) : Host.Outcome State Fault Refusal :=
  if !s.up io then .next s else .next (((oldestEach (·.vas) (s.die io).contribs).findSome? (takeContrib s io)).getD s)

/-- COMBINE_ENTRY_TIMEOUT: an INT32 or RES32 entry that has received nothing for 16 µs completes early; an entry that is complete
tries its write again. -/
def execCombineEntryTimeout (io vas key : Nat) (s : State) : Host.Outcome State Fault Refusal :=
  match (s.die io).combines.find? fun e => e.vas = vas && e.key.toNat = key with
  | none => .next s
  | some e => .next (if s.up io && e.fault = 0 && (tFmt e.dst ≠ 3 || e.next = ncon e.con) then writeCombine s io e else s)

/-- COMBINE_RESEND (R300). -/
def execCombineResend (die quad : Nat) (s : State) : Host.Outcome State Fault Refusal :=
  let qk := die * 32 + quad
  match (s.quad qk).queue.find? fun e => e.stat = .refused with
  | none => .next s
  | some e =>
    match switchOf s e with
    | .ok io => .next (sendContrib s qk io e)
    | _ => .next s

/-- COMBINE_COUNTER_ADD (R299): the first ready add of a group of the quad that no earlier COMBINE of its group precedes, once the die's dirty non-home lines are written back: the add is a DOMAIN-scope release (R257). -/
def execCombineCounterAdd (die quad : Nat) (s : State) : Host.Outcome State Fault Refusal :=
  let adds := (s.die die).combAdds
  let first (a : CombAdd) : Bool :=
    a.ready && a.fault.isNone && quadOfCore (coreOfGroup a.group) = die * 32 + quad
      && !(adds.any fun b => b.group = a.group && b.seq < a.seq)
  match adds.find? first with
  | none => .next s
  | some a =>
    let drop (s : State) : State := s.modDie die fun d => { d with combAdds := d.combAdds.filter fun b => b.id ≠ a.id }
    match releaseWide s die with
    | (t, false) => .next t
    | (t, true) =>
      match agentCtrAdd t die a.vas a.ctr 1 with
      | (.done (.performed _), t) => .next (drop t)
      | (.done (.fault k det), t) =>
        let t := t.addFault die
          { va := a.ctr % 2 ^ 57, vas := a.vas, kind := k, src := .streamer, wr := true, core := quad * 4, det := det, who := a.id }
        .next (if k = .addr || t.faultWaits die k then
            t.modDie die fun d => { d with combAdds := d.combAdds.map fun b => if b.id = a.id then { b with fault := some k.copyCode } else b }
          else faultFlight (drop t) (s.flightKey a.group) 1 k.copyCode (s.train (s.group a.group).train).t)
      | _ => .next t

end Sys2Proof.Machine
end

