-- ==== Sys2Proof/Machine/Acts.lean ====
section
/-! DEFINITION. The life of a request (R366, R368, R265, R255, R375, R411): the walk, the home, publishing, answers, resending,
and the requests that act by themselves. -/

namespace Sys2Proof.Machine

set_option Elab.async false

/-! ### Requests that act by themselves -/

/-- A LAUNCH met (R353): the headers of lower thread slots of its word come first; its release, then the dispatcher reads the header into
its intake of 64. A read that misses waits for the die kernel; an unreadable header is refused by the dispatcher (R40). -/
def performLaunch (s : State) (r : Req) : State :=
  let s0 := s
  match releaseWide s r.die with
  | (_, false) => s0
  | (s, true) =>
    if 64 ≤ (s.die r.die).intake.length || s.reqs.any fun q => q.kind = .launch && q.batch = r.batch && q.id < r.id then s0
    else
      let f := s.flightOf r.tk
      let item (words : List Nat) : Intake :=
        { vas := r.vas, addr := r.va, flight := f.number, prio := f.hdr.prio, words := words }
      let put (s : State) (words : List Nat) : State :=
        (s.dropReq r.id).modDie r.die fun d => { d with intake := d.intake ++ [item words] }
      match agentRead s r.die r.vas r.va 128 .read with
      | (.hold, _) => s0
      | (.done (.performed bs), s) => put s ((List.range 16).map fun i => leValue ((bs.drop (8 * i)).take 8))
      | (.done (.fault k det), s) =>
        let s := s.addFault r.die { va := r.va, vas := r.vas, kind := k, src := .dispatcher, det := det, who := r.id }
        if s.faultWaits r.die k then s.setReq { r with phase := .held } else put s []
      | (.done (.data _ _), s) => put s []
      | (_, _) => s0

/-- A store that waits for room in its group's ballast joins it once there is (R416); one whose twin has been compared meanwhile is released
(R83). -/
def performJoin (s : State) (r : Req) (held : Bool) : State :=
  let tk := r.tk
  let data := dataBytes ((r.lanes.map fun l => l.data).headD []) r.size.bytes
  let t := s.thread tk
  let held := held && t.compared < t.blockNo
  if !held && !(s.hdrOf tk).replay then
    let q := routeReq s { r with kind := .store }
    sentOut ((countReq s q).setReq q) q
  else if s.ballastRoom tk data.length then
    addBallast (s.dropReq r.id) (s.groupKey tk)
      { addr := r.va, data := data, thread := tk, block := t.blockNo, id := r.id, held := held, sig := r.sig, pol := r.pol }
  else if (s.groupOf tk).ballast.any fun b => b.req = 0 && !b.held then commitBallast s tk
  else s

/-- A request that acts by itself is performed, if it can be. -/
def performAct (s : State) (r : Req) : State :=
  match r.kind with
  | .scrLoad =>
    match performScrLoad s r with
    | (.done (.performed bs), s) => deliver s r bs
    | (.done a, s) => s.setReq { r with phase := .answered a false }
    | (.hold, s) => s
  | .scrStore => deliver (settleBallast (performScrStore s r).2 r (.performed [])) r []
  | .fence k => (match performFence s r k with | (true, s) => s.dropReq r.id | (false, _) => s)
  | .qfence m => if s.postsBehind r then s else placeFence (s.dropReq r.id) (s.groupKey r.tk) m
  | .join held => performJoin s r held
  | .copy e => performCopy s r e
  | .matrix e => performMatrix s r e
  | .reel op a b => performReel s r op a b
  | .launch => performLaunch s r
  | .iflush => dropFetched (s.dropReq r.id) r.core (s.flightKey (s.groupKey r.tk))
  | .mark op => if s.postsBehind r then s else (performMark s r op).dropReq r.id
  | .txend => performTxend s r
  | .flush => (match performFlush s r false with | (true, s) => s.dropReq r.id | (false, _) => s)
  | .clean => (match performFlush s r true with | (true, s) => s.dropReq r.id | (false, _) => s)
  | _ => s

/-! ### Faults -/

/-- The bytes of a store. -/
def Req.bytes (r : Req) : List Byte := dataBytes ((r.lanes.map fun l => l.data).headD []) r.size.bytes

/-- The request waits in the load-store unit: it has not been sent. -/
def State.unsent (s : State) (r : Req) : Bool :=
  match r.phase with
  | .walk | .resend | .act => true
  | .sent => !mayGo s r
  | _ => false

/-- A refused store as its trap record names it (R407, R411): its address, its size, and its first 8 bytes; b128 as one store. -/
def Req.refused (r : Req) : Nat × Nat × Nat :=
  match r.wide with
  | some (va, data) => (va, 16, data)
  | none => (r.va, r.size.bytes, leValue (r.bytes.take 8))

/-- The deferred traps of a thread with that of a refusal (R411): of several refusals the first in program order is reported (R375), before a
TRAP or BKPT of a later block. -/
def Thread.deferRefused (t : Thread) (ti : TrapInfo) : Thread :=
  match t.defers.find? fun d => d.rid ≠ 0 with
  | some d => if ti.rid < d.rid then t.withDefers (t.defers.map fun x => if x.rid ≠ 0 then ti else x) else t
  | none => t.withDefers ((t.defers.filter fun d => !d.own) ++ [ti] ++ t.defers.filter TrapInfo.own)

/-- A thread that has gone on takes note of a refused store of an earlier block (R411): it parks at its next head, or, if no word
of its block that must carry S = 1 has been sent, at the head of the block it is in, whose accesses that wait in the load-store unit are
discarded. -/
def deferRefusal (s : State) (r : Req) (k : PageFault) (det : Nat) : State :=
  r.lanes.foldl (fun s l =>
    let tk := threadKey r.core l.slot
    let t := s.thread tk
    let id := s.nextId
    let s := ({ s with nextId := id + 1 }).addFault r.die
      { va := r.va, vas := r.vas, kind := k, wr := r.writes, core := r.core % 128, slot := l.slot, det := det, who := id }
    if (mget s.threads tk).isNone || t.stat = .parked || t.stat = .exited then s
    else
      let (va, n, data) := r.refused
      let ti : TrapInfo :=
        { kind := .page, sub := k.code, off := r.off, ord := r.ord, va := va, defer := true, who := id, rid := r.id
          detail := r.writes.toNat + 2 * det + 2 ^ 12 * n, detail2 := data }
      let again : Bool := t.defers.any fun d => d.rid ≠ 0
      let s := s.modThread tk fun t => t.deferRefused ti
      match t.stat with
      | .stream | .ret =>
        let wordSent : Bool := t.sMust && !(s.reqs.any fun q => q.ofThread tk && q.late && t.first ≤ q.id && s.unsent q)
        if again || (t.stat = .ret && (wordSent || t.was.isSome)) then s
        else
          let gone (q : Req) : Bool := t.first ≤ q.id && s.unsent q
          let s := undoArrival (dropReqs (discardBallast s tk) tk gone) tk
          s.modThread tk fun t => { (t.rewind s.nextId) with stat := .ret }
      | .wait | .overflow | .joinWait => (unplace s tk).modThread tk fun t => { t with was := some t.stat, stat := .ret }
      | _ => s) s

/-- A request's fault: reported in its block (R410), or deferred (R411). -/
def settleFault (s : State) (r : Req) (k : PageFault) (det : Nat) : State :=
  let s := settleBallast s r (.fault k det)
  if r.kind = .pref then s.dropReq r.id
  else if s.inBlock r then requestFault (s.dropReq r.id) r k det
  else deferRefusal (s.dropReq r.id) r k det

/-! ### PAGE_TABLE_WALK (R366) -/

/-- A translation enters a core's HLB. -/
def hlbPut (s : State) (ck : Nat) (t : Tlb) : State := s.modCore ck fun c => { c with hlb := t :: c.hlb.take 511 }

/-- The walk of a request: a leaf fills the HLB, unless a range open on the die covers the address (R376), and sends the request to
the line's home; an absent or malformed entry is a fault. -/
def walkReq (s : State) (r : Req) : State :=
  match s.walk r.die r.vas r.va with
  | some (.leaf level l entry ptrs) =>
    let t := s.tlbOf r.die r.vas r.va level l entry
    let h := homeOf t.leaf r.va
    let s := s.keepPtrs r.die r.vas r.va ptrs
    let s := if (s.openAt r.die r.vas r.va).isSome then s else hlbPut s r.core t
    if r.kind = .probe then s.dropReq r.id
    else if s.sendBlocked r h then s
    else
      let s := if h ≠ r.die then s.countEvent r.core (r.lanes.map fun l => s.groupKey (threadKey r.core l.slot)) 8 1 else s
      sentOut (s.setReq { r with phase := .sent, leaf := t.leaf, home := h }) { r with phase := .sent, home := h }
  | some .bad => settleFault s r .invalid r.die
  | _ => settleFault s r .miss r.die

/-- PAGE_TABLE_WALK. -/
def execPageTableWalk (req : Nat) (s : State) : Host.Outcome State Fault Refusal :=
  match s.req? req with
  | some r => .next (if r.phase = .walk && s.up r.die then walkReq s r else s)
  | none => .next s

/-! ### HOME_REQUEST -/

/-- What the home does for a request by its kind. -/
def serveReq (s : State) (r : Req) : Served × State :=
  match r.kind with
  | .load => performLoad s r
  | .ctrRead => performLoad s r
  | .store => performStore s r
  | .change u =>
    let put (x : Served × State) : Served × State := match x with | (.done a, s) => (.done a, settleBallast s r a) | x => x
    put (performUpdate s r .rw fun old _ => u.apply old)
  | .rmw op _ => performUpdate s r .rw fun old l => atomNew op old (ofWords l.data)
  | .cas _ => performUpdate s r .rw fun old l => if old = ofWords l.expect then ofWords l.data else old
  | .ctrAdd => performUpdate s r .ctrAdd fun old l => satAdd old (ofWords l.data) 64
  | .pref => performPref s r
  | .clock => performClock s r
  | _ => (.hold, s)

/-- The access kind for the checks of R368. -/
def Req.acc (r : Req) : Acc :=
  match r.kind with
  | .ctrRead => .ctrRead
  | .store => .write
  | .change _ => .rw
  | .rmw _ _ => .rw
  | .cas _ => .rw
  | .ctrAdd => .ctrAdd
  | _ => .read

/-- A request that its home refuses as moved notes for which shootdown (R375). -/
def noteMoved (s : State) (r : Req) : Answer → Req
  | .moved => { r with mvd := match s.openAt r.home r.vas r.va with | some x => x.sdid | none => r.mvd }
  | _ => r

/-- A home's answer: to another die it travels in the RSP class (R314). -/
def answerTo (s : State) (r : Req) (a : Answer) (widen : Bool) : State :=
  let r := noteMoved s r a
  if r.home = r.die then s.setReq { r with phase := .answered a widen }
  else sendPacket (s.setReq { r with phase := .back a widen }) r.home r.die r.vas .rsp (.rsp r.id)

/-- The home performs a request, or refuses it, or confirms that it holds it (R374). -/
def answerReq (s : State) (r : Req) (widen : Bool) : State :=
  match serveReq s r with
  | (.done a, s) => answerTo s r a widen
  | (.hold, s') =>
    if s.up r.home && (s.openAt r.home r.vas r.va).isSome && r.phase = .sent then s'.setReq { r with phase := .held } else s

/-- The dies that hold a line under a narrow release are made to publish (R255). -/
def askPublish (s : State) (r : Req) (pubs : List Nat) : State :=
  (pubs.foldl (fun s d => sendPacket s r.home d r.vas .req (.pub r.id)) s).setReq { r with phase := .widening pubs }

/-- The request has reached its home. -/
def State.reached (s : State) (r : Req) : Bool := r.home = r.die || !s.onWay fun b => b = .req r.id

/-- A release or SC store of a marionette leader that waits for nothing but its twin stands in the ballast, where its group's own threads see it at
once (R83); its request performs it. -/
def stageStore (s : State) (r : Req) : State :=
  let tk := r.tk
  let gk := s.groupKey tk
  let b (addr : Nat) (data : List Byte) : BStore :=
    { addr := addr, data := data, thread := tk, id := r.id, held := true, block := (s.thread tk).blockNo, req := r.id, rel := true }
  if r.waitTwin = [] || !s.ballastRoom tk r.size.bytes || (s.group gk).ballast.any (fun x => x.req = r.id) || !mayGo s { r with waitTwin := [] } then s
  else
    match r.kind with
    | .store => if r.tx then s else addBallast s gk (b r.va r.bytes)
    | .scrStore =>
      (List.range (ceilDiv r.size.bytes 4)).foldl (fun s i =>
        addBallast s gk (b (s.scratchAt gk (r.va / 2 ^ 18 * 2 ^ 18 + (r.va % 2 ^ 18 + 4 * i))) ((r.bytes.drop (4 * i)).take 4))) s
    | _ => s

/-- A request at its home: an acquire of a line that a narrow release covers makes the holding dies publish first (R255). -/
def homeRequest (s : State) (r : Req) : State :=
  if !mayGo s r || (s.sendBlocked r r.home) || !s.reached r then stageStore s r
  else
  match commitFirst s r with
  | (some s, _) => s
  | (none, s) =>
  if !r.widens || !s.up r.home then answerReq s r false
  else
    let (pubs, widen) := widenCheck s r
    match homeCheck s r.home r.vas r.va r.acc with
    | (.ok _ _, s) =>
      if pubs = [] then answerReq s r widen else askPublish s r pubs
    | _ => answerReq s r widen

/-- HOME_REQUEST. -/
def execHomeRequest (req : Nat) (s : State) : Host.Outcome State Fault Refusal :=
  match s.req? req with
  | some r => .next (if r.phase = .sent && s.up r.die then homeRequest s r else s)
  | none => .next s

/-! ### Publishing (R253, R255) -/

/-- HELD_NOTICE: the home's directory takes in the next notice. -/
def execHeldNotice (home : Nat) (s : State) : Host.Outcome State Fault Refusal :=
  match (s.die home).heldIn with
  | [] => .next s
  | n :: _ => .next (if s.up home then takeHeld s home fun x => x = n else s)

/-- PUBLISH: the die writes back every covered dirty non-home line, then confirms. -/
def execPublish (die : Nat) (s : State) : Host.Outcome State Fault Refusal :=
  match (s.die die).pubs with
  | [] => .next s
  | id :: rest =>
    if !s.up die then .next s
    else
      match publishDie s die with
      | (_, false) => .next s
      | (t, true) =>
        let t := t.modDie die fun d => { d with pubs := rest }
        match t.req? id with
        | some r =>
          match r.phase with
          | .widening left =>
            let t := notePublished (t.setReq { r with phase := .widening (left.filter fun d => d ≠ die) }) die r
            .next (if die = r.home then t else sendPacket t die r.home r.vas .rsp (.confirm r.id die))
          | _ => .next t
        | none => .next t

/-- PUBLISH_CONFIRM: once every holding die has confirmed, the home answers with WIDEN; a die that has made another narrow release of the
line meanwhile publishes first. -/
def execPublishConfirm (req : Nat) (s : State) : Host.Outcome State Fault Refusal :=
  match s.req? req with
  | some r =>
    match r.phase with
    | .widening [] =>
      if s.onWay fun b => (match b with | .confirm id _ => id = r.id | _ => false) then .next s
      else
        .next (match (widenCheck s r).1 with
          | [] => answerReq s { r with phase := .sent } true
          | pubs => askPublish s r pubs)
    | _ => .next s
  | none => .next s

/-- WIDEN_ANSWER: the acquirer drops its die's non-home lines. -/
def execWidenAnswer (req : Nat) (s : State) : Host.Outcome State Fault Refusal :=
  match s.req? req with
  | some r =>
    match r.phase with
    | .answered a true =>
      match dropNonHome s r.die with
      | (t, true) => .next (t.setReq { r with phase := .answered a false })
      | (_, false) => .next s
    | _ => .next s
  | none => .next s

/-! ### Answers -/

/-- A request that is refused as moved or as resetting waits to be walked again; a prefetch is dropped (R270). -/
def resendLater (s : State) (r : Req) : State := if r.kind = .pref then s.dropReq r.id else s.setReq { r with phase := .resend }

/-- ANSWER_MOVED: the request waits for the COMMIT. -/
def execAnswerMoved (req : Nat) (s : State) : Host.Outcome State Fault Refusal :=
  match s.req? req with
  | some r => .next (match r.phase with | .answered .moved _ => resendLater s r | _ => s)
  | none => .next s

/-- ANSWER_RESETTING: the request waits for the home's rejoin. -/
def execAnswerResetting (req : Nat) (s : State) : Host.Outcome State Fault Refusal :=
  match s.req? req with
  | some r => .next (match r.phase with | .answered .resetting _ => resendLater s r | _ => s)
  | none => .next s

/-- ANSWER_FAULT: a fault, an uncorrectable word or a trap, reported in the request's block. -/
def execAnswerFault (req : Nat) (s : State) : Host.Outcome State Fault Refusal :=
  match s.req? req with
  | none => .next s
  | some r =>
    let trapAt (ti : TrapInfo) : State :=
      r.lanes.foldl (fun s l => askedTrap s (threadKey r.core l.slot) { ti with off := r.off, ord := r.ord, va := r.va })
        (settleBallast (s.dropReq r.id) r (.data 0 0))
    match r.phase with
    | .answered (.fault k det) _ => .next (if s.inBlock r || r.kind = .pref then settleFault s r k det else s)
    | .answered (.data sub det) _ =>
      .next (if r.kind = .pref then s.dropReq r.id else trapAt { kind := .data, sub := sub, detail := 2 * det })
    | .answered (.trap k sub) _ => .next (trapAt { kind := k, sub := sub })
    | _ => .next s

/-- DEFERRED_REFUSAL (R411). -/
def execDeferredRefusal (req : Nat) (s : State) : Host.Outcome State Fault Refusal :=
  match s.req? req with
  | none => .next s
  | some r =>
    match r.phase with
    | .answered (.fault k det) _ => .next (if s.inBlock r || r.kind = .pref then s else settleFault s r k det)
    | _ => .next s

/-- REQUEST_RESEND (R375): after the COMMIT on the requester's die, and the rejoin of a home in warm reset, the request is walked
again. -/
def execRequestResend (req : Nat) (s : State) : Host.Outcome State Fault Refusal :=
  match s.req? req with
  | none => .next s
  | some r =>
    .next (if r.phase = .resend && (s.openAt r.die r.vas r.va).isNone && (s.die r.home).life ≠ .resetting
          && (r.mvd = 0 || (s.die r.die).applied.contains r.mvd) then
        s.setReq { r with phase := .walk, mvd := 0 }
      else s)

/-- ANSWER_PERFORMED: a performed answer settles its request; a request that acts by itself is performed once nothing holds it
back. -/
def execAnswerPerformed (req : Nat) (s : State) : Host.Outcome State Fault Refusal :=
  match s.req? req with
  | none => .next s
  | some r =>
    match r.phase with
    | .answered (.performed bs) false => .next (deliver s r bs)
    | .act =>
      .next (if !s.up r.die then s
        else if !mayGo s r then stageStore s r
        else match commitFirst s r with | (some s, _) => s | (none, s) => performAct s r)
    | _ => .next s

/-! ### Conflict notices and wakes (R314, R327, R334) -/

/-- The first message of a die that passes a test leaves its list and acts. -/
def takeWake (s : State) (die : Nat) (p : WakeMsg → Bool) : State :=
  let rec first : List WakeMsg → List WakeMsg → State
    | _, [] => s
    | seen, m :: r =>
      if p m then actOnWake (s.modDie die fun d => { d with wakes := seen ++ r }) m else first (seen ++ [m]) r
  first [] (s.die die).wakes

/-- CONFLICT_NOTICE: a message for a running attempt. -/
def execConflictNotice (die : Nat) (s : State) : Host.Outcome State Fault Refusal :=
  .next (if s.up die then takeWake s die fun m => m.all || readsKey s (threadKey m.core m.slot) m else s)

/-- WAKE_MESSAGE. -/
def execWakeMessage (die : Nat) (s : State) : Host.Outcome State Fault Refusal :=
  .next (if s.up die then takeWake s die fun m => m.all || !readsKey s (threadKey m.core m.slot) m else s)

/-- SOLITARY_TOKEN_GRANT (R330): the token goes to the head of its FIFO. -/
def execSolitaryTokenGrant (die : Nat) (s : State) : Host.Outcome State Fault Refusal :=
  match (s.die die).token, (s.die die).tokenQ with
  | none, tk :: r =>
    .next ((s.modDie die fun d => { d with token := some tk, tokenQ := r }).modThread tk fun t => { t with wantToken := false })
  | _, _ => .next s

/-- TOKEN_TIMEOUT (R330): a holder whose attempt has run for 2^24 cycles loses the token and takes a conflict abort at its next
head; it goes to the FIFO's tail. -/
def execTokenTimeout (die : Nat) (s : State) : Host.Outcome State Fault Refusal :=
  match (s.die die).token with
  | none => .next s
  | some tk =>
    let t := s.thread tk
    if t.tx = [] || (s.core (coreOfThread tk)).cycles < t.txCycles + 2 ^ 24 then .next s
    else .next (doom (s.modDie die fun d => { d with token := none }) tk whyToken)

end Sys2Proof.Machine
end

