-- ==== Sys2Proof/Machine/Launch.lean ====
section
/-! DEFINITION. Launching: notices (R384), the dispatcher's reads (R371), headers and code objects and their checks (R32, R33, R40,
R45, R48, R122 to R124), placement (R42, R43), HEADER_TAKE (R37, R307), LAUNCH_INTAKE (R39) and TRAIN_ARRIVAL (R305). -/

namespace Sys2Proof.Machine

set_option Elab.async false

/-! ### Notices (R384) -/

/-- A notice for a die's own kernel, by its cause and words 2 to 4. -/
def noticeMsg (die cause w2 w3 w4 : Nat) : Msg := { w0 := 0x20 + 2 ^ 28 * die, w1 := cause, w2 := w2, w3 := w3, w4 := w4 }
def notify (s : State) (die cause w2 w3 w4 : Nat) : State :=
  s.modDie die fun d => { d with notes := d.notes ++ [noticeMsg die cause w2 w3 w4] }

/-! ### Reads of the dispatcher (R371, R409) -/

/-- What a read of the dispatcher comes to: bytes; it waits for an answer; its fault waits (R371) under a number; it is unreadable. -/
inductive Got
  | bytes (bs : List Byte)
  | hold
  | miss (who : Nat)
  | bad
  deriving DecidableEq, Repr

/-- The bytes of one line, or a part of it. `fail`: FAILFAULT has answered an earlier fault. -/
def dispLine (s : State) (die vas va n : Nat) (fail : Bool) : Got × State :=
  match agentRead s die vas va n .read with
  | (.done (.performed bs), s) => (.bytes bs, s)
  | (.done (.fault k det), s) =>
    let id := s.nextId
    if fail then (.bad, s)
    else
      let s := ({ s with nextId := id + 1 }).addFault die { va := va % 2 ^ 57, vas := vas, kind := k, src := .dispatcher, det := det, who := id }
      if s.faultWaits die k then (.miss id, s) else (.bad, s)
  | (.done (.data _ _), s) => (.bad, s)
  | (_, s) => (.hold, s)

/-- n bytes from an address on, line by line. -/
def dispBytes (s : State) (die vas : Nat) (fail : Bool) : Nat → Nat → Nat → Got × State
  | 0, _, _ => (.bytes [], s)
  | fuel + 1, va, n =>
    if n = 0 then (.bytes [], s)
    else
      let m := min n (128 - va % 128)
      match dispLine s die vas (va % 2 ^ 64) m fail with
      | (.bytes bs, s) =>
        match dispBytes s die vas fail fuel (va + m) (n - m) with
        | (.bytes cs, s) => (.bytes (bs ++ cs), s)
        | r => r
      | r => r
def dispRead (s : State) (die vas va n : Nat) (fail : Bool) : Got × State := dispBytes s die vas fail (n / 128 + 2) va n

/-- Field of n bytes at offset o of some bytes. -/
def fieldAt (bs : List Byte) (o n : Nat) : Nat := leValue ((bs.drop o).take n)

/-! ### Headers (R32) -/

/-- The fields of a header's 16 words. -/
def headerOf (ws : List Nat) : Header :=
  let w (i : Nat) : Nat := (ws[i]?).getD 0
  { code := w 0, entry := bits (w 1) 31 0, nregs := bits (w 1) 39 32, nwaves := bits (w 1) 47 40, narrow := bitOf (w 1) 48
    replay := bitOf (w 1) 49, marionette := bitOf (w 1) 50, preempt := bitOf (w 1) 51, tfilt := bitOf (w 1) 52
    widths := (List.range 6).map fun i => bits (w 2) (8 * i + 7) (8 * i)
    prio := bits (w 2) 55 48, producer := bits (w 2) 63 56, e3 := bits (w 3) 31 0, e4 := bits (w 3) 63 32, e5 := bits (w 4) 31 0
    gpt := bits (w 4) 63 32, scratch := bits (w 5) 31 0, njoin := bits (w 5) 39 32, nteth := bits (w 5) 47 40, nacc := bits (w 5) 55 48
    args := w 6, pbase := w 7, pstride := w 8, done := w 9, seed := w 10, tsess := bits (w 11) 3 0, tmask := bits (w 11) 15 8 }

/-- DONE passes its own check: aligned, bits [63:57] zero. -/
def Header.doneOk (h : Header) : Bool := h.done % 8 = 0 && h.done < 2 ^ 57

/-- The trains of a launch. -/
def Header.trains (h : Header) : Nat := h.e3 * h.e4 * h.e5

/-- Every limit that R30 and R32 state holds. -/
def headerOk (ws : List Nat) : Bool :=
  let h := headerOf ws
  let w (i : Nat) : Nat := (ws[i]?).getD 0
  let wd (i : Nat) : Nat := (h.widths[i]?).getD 0
  let within (e i : Nat) : Bool := 1 ≤ e && e ≤ 2 ^ wd i
  h.code % 64 = 0 && h.nregs % 8 = 0 && 8 ≤ h.nregs && h.nregs ≤ 120 && wd 0 = (if h.narrow then 5 else 6)
    && wd 1 ≤ 3 && wd 2 ≤ 7 && wd 3 ≤ 32 && wd 4 ≤ 32 && wd 5 ≤ 32 && h.widths.foldl (· + ·) 0 ≤ 64
    && 1 ≤ h.nwaves && h.nwaves ≤ 8 && h.nwaves ≤ 2 ^ wd 1 && bits (w 1) 63 53 = 0 && h.prio ≤ 7
    && (h.producer < h.nwaves || h.producer = 0xFF) && within h.e3 3 && within h.e4 4 && within h.e5 5 && h.trains < 2 ^ 32
    && within h.gpt 2 && h.gpt ≤ 128 && h.scratch % 4 = 0 && h.scratch ≤ 196608 && h.njoin ≤ 8 && h.nteth ≤ 32 && h.nacc ≤ 4
    && bits (w 5) 63 56 = 0 && h.doneOk && (h.tsess ≤ 7 || h.tsess = 15) && bits (w 11) 7 4 = 0 && bits (w 11) 63 16 = 0
    && (span 12 4).all fun i => w i = 0

/-- Beyond the header limits of R48. -/
def Header.overFloor (h : Header) : Bool :=
  64 < h.nregs || 98304 < h.scratch || 4 < h.nwaves || 4 < h.njoin || 8 < h.nteth || 1 < h.nacc

/-- One group's demand on a core (R45): wave slots, half-granules, scratch pages. -/
def Header.slots (h : Header) : Nat := h.nwaves * (if h.marionette then 2 else 1)
def Header.waveGranules (h : Header) : Nat := h.nregs / 8 * (if h.narrow then 1 else 2)
def Header.pages (h : Header) : Nat := ceilDiv h.scratch 4096

/-- The demand exceeds an empty core. -/
def Header.tooBig (h : Header) : Bool :=
  8 < h.slots || 256 < h.slots * h.waveGranules || 48 < h.pages || 128 < h.nteth || 4 < h.nacc

/-! ### Code objects (R33, R122 to R124) -/

/-- The object header agrees with R122. -/
def objectOk (ob : List Byte) : Bool :=
  let sect (i : Nat) : Nat × Nat := (fieldAt ob (8 + 8 * i) 4, fieldAt ob (12 + 8 * i) 4)
  let fl := fieldAt ob 7 1
  let cls := fieldAt ob 6 1
  let nat := bitOf fl 0
  let glo := bitOf fl 1
  fieldAt ob 0 4 = 0x52454143 && fieldAt ob 5 1 = 1 && cls ≤ 1 && bits fl 7 3 = 0 && (nat || glo) && (cls = 1 || bitOf fl 2)
    && (decide ((sect 0).2 ≠ 0) = nat) && (decide ((sect 1).2 ≠ 0) = glo)
    && ((List.range 7).all fun i => (sect i).2 = 0 || ((sect i).1 % 64 = 0 && 64 ≤ (sect i).1))
    && (sect 0).2 % 4 = 0 && (sect 1).2 % 8 = 0 && (sect 2).2 % 32 = 0 && (sect 3).2 % 64 = 0 && (sect 4).2 % 32 = 0
    && (sect 6).2 % 16 = 0

/-- The knot table lists a head at an offset of the text of the form that the flight starts in (R52, R94, R123). -/
def listsHead (knots : List Byte) (f : Flight) (off : Nat) : Bool :=
  off % wordBytes f.glomer = 0 && off + wordBytes f.glomer ≤ (f.text f.glomer).2
    && (List.range (knots.length / 32)).any fun k => (knotOf 0 f f.glomer k (fieldAt knots (32 * k) 32)).any fun n => n.off = off

/-- The kernel table entry that contains an offset. R124 does not say which one counts where two contain it: the first does (DESIGN
CHOICE, log 105). -/
def kernelOf (kernels : List Byte) (glomer : Bool) (off : Nat) : Option Nat :=
  (List.range (kernels.length / 64)).find? fun k =>
    let o := 64 * k + (if glomer then 8 else 0)
    fieldAt kernels o 4 ≤ off && off < fieldAt kernels (o + 4) 4

/-- The templates that a TEMPLMASK names, by slot, from the section's entry `first` on. -/
def templatesOf (mask first : Nat) (sect : List Byte) : AMap (List Word) :=
  ((List.range 32).filter (bitOf mask)).zipIdx.map fun p => (p.1, wordsOf 8 (fieldAt sect (32 * (first + p.2)) 32))

/-- The text of a code object contains TXBEGIN (R320), as its homes hold it now. -/
def opensTx (s : State) (die vas base size : Nat) (glomer : Bool) : Bool :=
  let n := wordBytes glomer
  (List.range (size / n)).any fun i =>
    let va := base + n * i
    match s.leafAt die vas va with
    | .inr (l, page) => (match bodyInstr glomer (s.ram (homeOf l va) (paOf l va page) n) with | some (.txbegin _ _) => true | _ => false)
    | .inl _ => false

/-- What the checks of a header come to: it waits for an answer, or for the die kernel; it is refused with a code; it launches. -/
inductive Checked
  | hold
  | miss (who : Nat)
  | refuse (code : Nat)
  | ok (f : Flight)
  deriving DecidableEq, Repr

/-- The fields of kernel table entry k that must be 0 are 0 (R7, R124). -/
def kernelZeros (kernels : List Byte) (k : Nat) : Bool :=
  let w (o n : Nat) : Nat := fieldAt kernels (64 * k + o) n
  bits (w 0x10 4) 31 17 = 0 && w 0x26 2 = 0 && w 0x34 12 = 0 && (w 0x2C 4 ≠ 0 || w 0x30 4 = 0)

/-- The last checks, in the order of R40, on what has been read. Templates that TEMPLMASK names and that reach beyond the template
section, a case that R124 does not name, are refused with CODE (DESIGN CHOICE, log 106). -/
def checkSections (h : Header) (ob knots kernels tmpl : List Byte) (f : Flight) : Nat ⊕ AMap (List Word) :=
  match listsHead knots f h.entry, kernelOf kernels f.glomer h.entry with
  | true, some k =>
    let mask := fieldAt kernels (64 * k + 0x2C) 4
    let first := fieldAt kernels (64 * k + 0x30) 4
    let ts := templatesOf mask first tmpl
    let whole : Bool := decide (mask = 0) || decide (32 * (first + ts.length) ≤ tmpl.length)
    if bitOf (fieldAt kernels (64 * k + 0x10) 4) 16 ≠ h.narrow || !kernelZeros kernels k || !whole || !(ts.all fun p => tethValid p.2) then
      .inl 2
    else if ts.any fun p => h.nteth ≤ p.1 then .inl 1
    else if fieldAt ob 6 1 = 0 && h.overFloor then .inl 4
    else if h.tooBig then .inl 5
    else .inr ts
  | _, _ => .inl 3

/-- A header checked in the order of R40; `cap` lowers PRIO (R306). -/
def checkHeader (s : State) (die vas : Nat) (ws : List Nat) (cap : Nat) (fail : Bool) : Checked × State :=
  let h := headerOf ws
  if !headerOk ws then (.refuse 1, s)
  else
    match dispRead s die vas h.code 64 fail with
    | (.hold, s) => (.hold, s)
    | (.miss w, s) => (.miss w, s)
    | (.bad, s) => (.refuse 7, s)
    | (.bytes ob, s) =>
      let sect (i : Nat) : Nat × Nat := (h.code + fieldAt ob (8 + 8 * i) 4, fieldAt ob (12 + 8 * i) 4)
      let glomer := !bitOf (fieldAt ob 7 1) 0
      if !objectOk ob then (.refuse 2, s)
      else
        match dispRead s die vas (sect 2).1 (sect 2).2 fail with
        | (.hold, s) => (.hold, s)
        | (.miss w, s) => (.miss w, s)
        | (.bad, s) => (.refuse 7, s)
        | (.bytes knots, s) =>
          match dispRead s die vas (sect 3).1 (sect 3).2 fail with
          | (.hold, s) => (.hold, s)
          | (.miss w, s) => (.miss w, s)
          | (.bad, s) => (.refuse 7, s)
          | (.bytes kernels, s) =>
            let named : Bool := match kernelOf kernels glomer h.entry with | some k => decide (fieldAt kernels (64 * k + 0x2C) 4 ≠ 0) | none => false
            match if named then dispRead s die vas (sect 4).1 (sect 4).2 fail else (.bytes [], s) with
            | (.hold, s) => (.hold, s)
            | (.miss w, s) => (.miss w, s)
            | (.bad, s) => (.refuse 7, s)
            | (.bytes tmpl, s) =>
              let f : Flight :=
                { hdr := { h with prio := min h.prio cap }, vas := vas, die := die, glomer := glomer
                  natBase := (sect 0).1, natSize := (sect 0).2, gloBase := (sect 1).1, gloSize := (sect 1).2
                  knotBase := (sect 2).1, knotCount := (sect 2).2 / 32, floor := fieldAt ob 6 1 = 0, left := h.trains
                  txs := opensTx s die vas (sect 0).1 (sect 0).2 false || opensTx s die vas (sect 1).1 (sect 1).2 true }
              match checkSections h ob knots kernels tmpl f with
              | .inl c => (.refuse c, s)
              | .inr ts => (.ok { f with templates := ts }, s)

/-! ### Completion and refusal adds (R40, R41) -/

/-- The adds of a die that wait for nothing are made in order; a MISS waits for the die kernel, any other fault drops its add. -/
def makeAdds (s : State) (die : Nat) : State :=
  (s.die die).adds.foldl (fun s a =>
    if a.seq ≠ 0 then s
    else
      let drop (s : State) : State := s.modDie die fun d => { d with adds := d.adds.erase a }
      match agentCtrAdd s die a.vas a.addr a.addend with
      | (.done (.performed _), s) => drop s
      | (.done (.fault k det), s) =>
        let id := s.nextId
        let s := ({ s with nextId := id + 1 }).addFault die { va := a.addr, vas := a.vas, kind := k, src := .dispatcher, wr := true, det := det, who := id }
        if s.faultWaits die k then s.modDie die fun d => { d with adds := d.adds.map fun b => if b = a then { b with seq := id } else b } else drop s
      | (.done (.data _ _), s) => drop s
      | _ => s) s

/-- An add to a counter, made at once if that can be. -/
def addDone (s : State) (die : Nat) (a : DoneAdd) : State :=
  makeAdds (s.modDie die fun d => { d with adds := d.adds ++ [a] }) die

/-! ### The pending list (R305) and placement (R42, R43) -/

/-- The trains of a die's pending list. -/
def State.pendingOn (s : State) (die : Nat) : List Nat := (s.trains.filter fun p => p.2.die = die && p.2.stat = .pending).map (·.1)

/-- A train arrives at its die's pending list, if there is room (R305). -/
def arriveTrain (s : State) (k : Nat) : State :=
  let t := s.train k
  if t.stat ≠ .travelling || 256 ≤ (s.pendingOn t.die).length then s
  else
    let age := (s.die t.die).ages
    (s.modDie t.die fun d => { d with ages := age + 1 }).modTrain k fun t => { t with stat := .pending, age := age }

/-- A train placed on its die: a hung die or one in warm reset makes it wait at its dispatcher. -/
def placeTrain (s : State) (k : Nat) : State :=
  let t := s.train k
  let f := s.flight t.flight
  if t.stat ≠ .sending then s
  else if f.faulted then trainGone s k
  else
    match placeOf s t.from_ f t.t with
    | none => s
    | some (die, fall) =>
      if (s.die die).life ≠ .up then s
      else
        let s := s.modTrain k fun t => { t with stat := .travelling, die := die, placed := die, placedLocal := fall }
        if die = t.from_ then arriveTrain s k else s

/-! ### Launching -/

/-- The session that a flight attaches to as it is launched (R432), and in MODE 1 its pass: a launch beyond NPASS runs unattached
(R446). -/
def attachFlight (s : State) (f : Flight) : Flight × State :=
  let h := f.hdr
  let key := f.vas * 8 + h.tsess
  if !h.tfilt || h.tsess = 15 then (f, s)
  else
    match mget s.sessions key with
    | none => ({ f with session := h.tsess }, s)
    | some e =>
      if e.mode ≠ 1 || e.stat ≠ 1 then ({ f with session := h.tsess }, s)
      else if bits (e.word 8) 11 8 ≤ e.launches then (f, s)
      else
        ({ f with session := h.tsess, pass := e.launches + 1, reg := e.reg }
         , { s with sessions := mput s.sessions key { e with launches := e.launches + 1 } })

/-- A flight starts: its number, its trains, and their placement (R42). -/
def launch (s : State) (die : Nat) (f : Flight) : State :=
  let seq := (s.die die).flightSeq
  let fk := die * 2 ^ 21 + seq % 2 ^ 21
  let (f, s) := attachFlight s { f with seq := seq }
  let s := s.modDie die fun d => { d with flightSeq := seq + 1 }
  let s := { s with flights := mput s.flights fk f }
  (List.range f.hdr.trains).foldl (fun s t =>
    let k := fk * 2 ^ 32 + t
    placeTrain { s with trains := mput s.trains k { flight := fk, t := t, die := die, from_ := die, prio := f.hdr.prio } } k) s

/-- The counter add of a refused header (R40). -/
def refusalAdd (s : State) (die vas : Nat) (ws : List Nat) : State :=
  let h := headerOf ws
  if ws = [] || h.done = 0 || !h.doneOk then s else addDone s die { vas := vas, addr := h.done, addend := 2 ^ 63 }

/-! ### Queues (R36, R37, R382) -/

def State.queue? (s : State) (die i : Nat) : Option Queue := mget (s.die die).queues i
def setQueue (s : State) (die i : Nat) (q : Queue) : State := s.modDie die fun d => { d with queues := mput d.queues i q }

/-- The HW fields of the descriptor. -/
def writeDesc (s : State) (die : Nat) (q : Queue) : State :=
  ((s.setRam die (q.desc + 0x18) 8 q.taken).setRam die (q.desc + 0x20) 8 (q.stat + 256 * q.lastref)).setRam die (q.desc + 0x28) 8 q.refused

/-- A queue's fields changed, in its descriptor too. -/
def noteQueue (s : State) (die i : Nat) (q : Queue) : State := writeDesc (setQueue s die i q) die q

/-- A queue holds an untaken header that may be taken. -/
def hasHeader (s : State) (die : Nat) (q : Queue) : Bool :=
  q.stat = 0 && q.wait = 0 &&
    (match agentRead s die q.vas q.bell 8 .ctrRead with
     | (.done (.performed bs), _) => q.taken < leValue bs
     | _ => false)

/-- The queue is the next in the round robin of registration (R307). -/
def isTurn (s : State) (die i : Nat) (q : Queue) : Bool :=
  let next := (s.die die).turnQ
  let rank (o : Nat) : Nat := if next ≤ o then o - next else o + 2 ^ 32
  (s.die die).queues.all fun p => p.1 = i || !hasHeader s die p.2 || rank q.order < rank p.2.order

/-- Bytes of the doorbell or of a header read for a queue: they go on, or the queue waits, or nothing happens now. -/
def queueRead (s : State) (die i : Nat) (q : Queue) (va n : Nat) (acc : Acc) (go : State → Option (List Byte) → State) : State :=
  match agentRead s die q.vas va n acc with
  | (.done (.performed bs), t) => go t (some bs)
  | (.done (.fault k det), t) =>
    if q.fail then go t none
    else
      let id := t.nextId
      let t := ({ t with nextId := id + 1 }).addFault die { va := va % 2 ^ 57, vas := q.vas, kind := k, src := .dispatcher, det := det, who := id }
      if t.faultWaits die k then setQueue t die i { q with wait := id } else go t none
  | (.done (.data _ _), t) => go t none
  | _ => s

/-- Header k of a queue is taken: TAKEN advances with release order, then it launches or is refused (R37, R40). -/
def takeHeader (s : State) (die i k : Nat) (q : Queue) (ws : Option (List Nat)) : State :=
  let chk : Checked × State := match ws with | none => (.refuse 7, s) | some ws => checkHeader s die q.vas ws q.pceil q.fail
  match chk with
  | (.hold, _) => s
  | (.miss w, s) => setQueue s die i { q with wait := w }
  | (r, t) =>
    match releaseWide t die with
    | (_, false) => s
    | (t, true) =>
      let q := { q with taken := k + 1, fail := false }
      let t := t.modDie die fun d => { d with turnQ := q.order + 1 }
      match r with
      | .ok f => launch (noteQueue t die i q) die f
      | .refuse c =>
        let t := noteQueue t die i { q with refused := (q.refused + 1) % 2 ^ 64, lastref := c }
        notify (refusalAdd t die q.vas (ws.getD [])) die 3 (q.desc / 64 * 2 ^ 16 + c * 256) k 0
      | _ => s

/-- Before an agent's DOMAIN-scope acquire of a counter is answered, each die that holds the line under a release whose scope shuts the agent's die
out publishes (R255); none while one of them cannot. -/
def publishFor (s : State) (die vas va : Nat) : Option State :=
  match agentCheck s die vas va .ctrRead with
  | (.ok _ _, h, _) =>
    let r : Req := { die := die, home := h, vas := vas, va := va, scope := .domain }
    (widenCheck s r).1.foldl (fun o d =>
      o.bind fun s =>
        if !s.up d then none
        else
          match publishDie s d with
          | (s, true) => some (notePublished s d r)
          | (_, false) => none) (some s)
  | _ => some s

/-- HEADER_TAKE: the doorbell is read with acquire order at DOMAIN scope (R37), which a release of any scope meets (R38); an overrun halts the
queue. -/
def execHeaderTake (die queue : Nat) (s : State) : Host.Outcome State Fault Refusal :=
  match s.queue? die queue with
  | none => .next s
  | some q =>
    if !s.up die || q.stat ≠ 0 || q.wait ≠ 0 || 256 ≤ (s.pendingOn die).length || !isTurn s die queue q then .next s
    else
      match (publishFor s die q.vas q.bell).map fun t => dropNonHome t die with
      | none => .next s
      | some (_, false) => .next s
      | some (t, true) =>
        .next (queueRead t die queue q q.bell 8 .ctrRead fun t bell =>
          match bell with
          | none => setQueue t die queue { q with fail := false }
          | some bs =>
            let d := leValue bs
            if d ≤ q.taken then t
            else if 2 ^ q.lslots < d - q.taken then
              notify (noteQueue t die queue { q with stat := 1, lastref := 6 }) die 2 q.desc 0 0
            else
              queueRead t die queue q (q.hbase + 128 * (q.taken % 2 ^ q.lslots)) 128 .read fun t hd =>
                takeHeader t die queue q.taken q (hd.map fun bs => (List.range 16).map fun i => fieldAt bs (8 * i) 8))

/-- LAUNCH_INTAKE: the first header of the intake is checked and launched, or refused (R39, R40). -/
def execLaunchIntake (die : Nat) (s : State) : Host.Outcome State Fault Refusal :=
  match (s.die die).intake with
  | [] => .next s
  | x :: rest =>
    if !s.up die || x.wait ≠ 0 then .next s
    else
      let chk : Checked × State := if x.words = [] then (.refuse 7, s) else checkHeader s die x.vas x.words x.prio x.fail
      match chk with
      | (.hold, _) => .next s
      | (.miss w, t) => .next (t.modDie die fun d => { d with intake := { x with wait := w } :: rest })
      | (.ok f, t) => .next (launch (t.modDie die fun d => { d with intake := rest }) die f)
      | (.refuse c, t) =>
        .next (notify (refusalAdd (t.modDie die fun d => { d with intake := rest }) die x.vas x.words) die 3 (c * 256 + 1) x.addr x.flight)

/-- TRAIN_ARRIVAL: trains that wait at this dispatcher to be placed are placed; the next train on its way to this die enters its list. -/
def execTrainArrival (die : Nat) (s : State) : Host.Outcome State Fault Refusal :=
  if !s.up die then .next s
  else
    let s := ((s.trains.filter fun p => p.2.from_ = die && p.2.stat = .sending).map (·.1)).foldl placeTrain s
    match s.trains.find? fun p => p.2.die = die && p.2.stat = .travelling with
    | some (k, _) => .next (arriveTrain s k)
    | none => .next s

end Sys2Proof.Machine
end

