-- ==== Sys2Proof/Machine/Selector.lean ====
section
/-! DEFINITION. Between blocks: how a thread parks on a trap (R405, R410, R412), becomes waiting (R55) or stops (R310), the
marionette comparison (R83, R84), and the selection of bundles (R58 to R61, R76, R82). -/

namespace Sys2Proof.Machine

set_option Elab.async false

/-! ### Leaders and twins (R81) -/

/-- The thread's current block has been compared, or needs no comparison (R83). -/
def State.blockCompared (s : State) (tk : Nat) : Bool :=
  let t := s.thread tk
  if t.twin then
    match s.leaderOf tk with
    | some l => (mget s.threads l).isNone || (s.thread l).stat = .exited || t.blockNo ≤ (s.thread l).compared
    | none => true
  else !(s.hdrOf tk).marionette || t.blockNo ≤ t.compared

/-! ### Parking (R405, R412, R417) -/

/-- A thread that stands at the head where RESUME continues parks, and its record waits for the trap ring: it gives up the solitary
token (R330). Deferred traps that are not the one reported are reported after RESUME, at that head (R410). An uncorrectable error of a replayable flight relaunches its train instead (R417, R418). -/
def parkThread (s : State) (tk : Nat) (ti : TrapInfo) (words : List Nat) : State :=
  if (s.hdrOf tk).replay && ti.kind.uncorrectable then
    uncorrectable (queueTrap s (dieOfThread tk) { words := words, who := ti.who }) (s.groupKey tk)
  else
    let s := (dropToken s tk).modThread tk fun t =>
      { t with
        stat := .parked, was := none, park := some ti, wantToken := false, parkSeq := none, parkId := s.nextId, parkKey := tk, resumeAt := t.next
        cands := [], deferred := (t.defers.drop ti.defer.toNat).head?, owed := (t.defers.drop ti.defer.toNat).drop 1 }
    queueTrap { s with nextId := s.nextId + 1 } (dieOfThread tk) { thread := some s.nextId, words := words, who := ti.who }

/-- The twin of a thread that parks at its block's head goes there too, and parks. -/
def parkTwin (s : State) (tk : Nat) : State :=
  match s.twinOf tk with
  | none => s
  | some w =>
    let s := undoArrival (unplace s w) w
    let no := (s.thread tk).blockNo
    s.modThread w fun t =>
      { (if no < t.blockNo then t.rewind s.nextId else t) with
        stat := .parked, was := none, cands := [], deferred := none, owed := [], lvq := t.lvq.filter fun e => e.1 ≤ no }

/-- A trap reported at the head of the thread's block (R66), or, inside a transaction that validates, at the outermost TXBEGIN
head (R335). The stores of the block that wait in the ballast are discarded (R260). -/
def reportTrap (s : State) (tk : Nat) (ti : TrapInfo) : State :=
  let s := undoArrival s tk
  match (s.thread tk).tx.getLast? with
  | some l =>
    match validate s tk with
    | none => s
    | some false => conflictAbort s tk whyConflict
    | some true =>
      let words := trapWords s tk ti l.ord
      parkThread (closeAll s tk whyTrap) tk ti words
  | none =>
    let rord := if ti.defer then (s.thread tk).ord else ti.ord
    let words := trapWords s tk ti rord
    let s := (discardBallast s tk).modThread tk fun t => t.rewind s.nextId
    parkThread (parkTwin s tk) tk ti words

/-- A trap reported at the head that the thread has reached (R228, R346, R411, R440); its ordinal is given. -/
def reportAtHead (s : State) (tk : Nat) (ti : TrapInfo) (ord : Nat) : State :=
  match (s.thread tk).tx.getLast? with
  | some l =>
    match validate s tk with
    | none => s
    | some false => conflictAbort s tk whyConflict
    | some true =>
      let words := trapWords s tk ti l.ord
      parkThread (closeAll s tk whyTrap) tk ti words
  | none =>
    let words := trapWords s tk ti ord
    parkThread (parkTwin s tk) tk ti words

/-! ### Marionette comparison (R83, R84) -/

/-- The block of a marionette leader as it ends (R83), and what stood at its head (R84). -/
def Thread.record (t : Thread) : BlockRec :=
  { no := t.blockNo, glomer := t.here.glomer, queue := t.queue, stores := t.stores, sends := t.sends, next := t.next
    late := t.defers.filter TrapInfo.own, regs := t.headRegs, rnd := t.headRnd, ftz := t.headFtz, sig := t.headSig, viaRet := t.headRet
    knot := t.here, wgen := t.wgen }

/-- The leader's part of block n: an earlier block's record, or its current block, whose streaming has ended. -/
def leaderBlock (t : Thread) (n : Nat) : Option (BlockRec × BlockEnd) :=
  match t.done.find? fun b => b.no = n with
  | some b => some (b, .go)
  | none => if t.blockNo = n && t.stat = .ret && t.cands = [] then some (t.record, t.bend) else none

/-- The kind of difference between a leader's block and its twin's (R407 MARIONETTE), 0 for none. -/
def blockDiff (b : BlockRec) (bend : BlockEnd) (tw : Thread) : Nat :=
  let teth (l : List Effect) : List Effect := l.filter fun e => e.op = tethSend
  let sent (l : List Effect) : List Effect := l.filter fun e => e.op ≠ tethSend
  let sameEnd : Bool := match bend with | .exit | .retry | .abort _ => decide (tw.bend = bend) | _ => true
  if tw.cands ≠ [] || b.late ≠ tw.defers.filter TrapInfo.own then 5
  else if b.stores ≠ tw.stores then 1
  else if sent b.sends ≠ sent tw.sends then 2
  else if teth b.sends ≠ teth tw.sends then 4
  else if b.next ≠ tw.next || !sameEnd then 3
  else 0

/-- How a leader's trap stands against its twin (R83, R412): not known yet; 0, the same; or the kind of their difference. A trap that a
request of the leader's block brought is the twin's too once it has streamed past the word (R81: a twin makes no request), and a trap met
at the next head is, if the whole block agrees. -/
def twinTraps (s : State) (l : Nat) (ti : TrapInfo) : Option Nat :=
  match s.twinOf l with
  | none => some 0
  | some w =>
    let t := s.thread l
    let tw := s.thread w
    if tw.stat ≠ .ret || tw.blockNo ≠ t.blockNo then none
    else
      match leastBy (fun (c : TrapInfo) => c.off) tw.cands.reverse with
      | some c =>
        if c.kind = ti.kind && c.sub = ti.sub && c.off = ti.off && c.va = ti.va then some 0
        else if ti.asked && ti.off < c.off then some 0
        else some 5
      | none =>
        if ti.asked then some 0
        else if ti.off + 1 = t.off && (ti.sub = 5 && ti.kind = .illegal || ti.kind = .page) then some (blockDiff t.record t.bend tw)
        else some 5

/-- The leader put back to the head of a block that it has streamed, with its own registers and modes as they stood there (R54, R66, R84). -/
def Thread.toBlock (t : Thread) (b : BlockRec) (first : Nat) : Thread :=
  { t.rewind first with
    regs := b.regs, rnd := b.rnd, ftz := b.ftz, relSig := b.sig, next := b.knot.off, ahead := b.knot, viaRet := b.viaRet, glomer := b.glomer
    bend := (match b.wgen with | some p => .join p.1 | none => .go), jgen := b.wgen.map (·.2), blockNo := b.no - 1, done := [] }

/-- A marionette mismatch (R84): leader and twin park at the head of the twin's block, and what the leader held from that block on
is discarded. Inside a transaction the trap is validated first (R328). -/
def mismatch (s : State) (l w sub : Nat) : State :=
  let tw := s.thread w
  let n := tw.blockNo
  let b := ((s.thread l).done.find? fun b => b.no = n).getD (s.thread l).record
  let ti : TrapInfo := { kind := .marionette, sub := sub, ord := tw.ord }
  let park (s : State) (words : List Nat) : State :=
    let s := s.modThread w fun t => { (t.rewind s.nextId) with stat := .parked, lvq := t.lvq.filter fun e => e.1 < n }
    parkThread (s.modThread l fun t => t.toBlock b s.nextId) l ti words
  let drop (s : State) : State :=
    let s := dropReqs s l fun r => r.late || r.waitTwin.contains (slotOf l) || (match r.kind with | .join _ => true | _ => false)
    let s := s.modGroup (s.groupKey l) fun g => { g with ballast := g.ballast.filter fun b => !(b.thread = l && (b.held || b.rel) && n ≤ b.block) }
    undoArrival (unplace s l) l
  match (s.thread l).tx.getLast? with
  | some lv =>
    match validate s l with
    | none => s
    | some false => conflictAbort (drop s) l whyConflict
    | some true =>
      let s := drop s
      let words := trapWords s l ti (if lv.no ≤ n then lv.ord else tw.ord)
      let s := closeAll s l whyTrap
      if lv.no ≤ n then parkThread s l ti words else park s words
  | none =>
    let s := drop s
    let words := trapWords s l ti tw.ord
    let s := (undoArrival s w).modThread w fun t => { t with tx := [] }
    park s words

/-- A request put among the others at the place that its number gives it. -/
def insertReq (r : Req) : List Req → List Req
  | [] => [r]
  | q :: rest => if q.id ≤ r.id then q :: insertReq r rest else r :: q :: rest

/-- One held store of a leader released under the ordinary rules (R83): a scratch store is made, a replayable group's store stays in
the ballast until a commit point, another becomes a request in its place in program order. -/
def releaseStore (s : State) (l : Nat) (b : BStore) : State :=
  let gk := s.groupKey l
  let gone (s : State) : State := s.modGroup gk fun g => { g with ballast := g.ballast.filter fun x => x.id ≠ b.id }
  if 2 ^ 60 ≤ b.addr then { gone s with mem := Memory.write s.mem b.addr b.data }
  else if (s.hdrOf l).replay then
    s.modGroup gk fun g => { g with ballast := g.ballast.map fun x => if x.id = b.id then { x with held := false } else x }
  else
    let s := gone s
    let id := s.nextId
    let r := { Req.of s l with kind := .store, va := b.addr, tx := false, sig := b.sig, size := sizeOf b.data.length, pol := b.pol
                               lanes := [{ slot := slotOf l, data := wordsOf 2 (leValue b.data) }] }
    let s := pushReq s r
    match s.req? id with
    | some r => { s with reqs := insertReq { r with id := b.id } (s.reqs.filter fun q => q.id ≠ id) }
    | none => s

/-- A scratch store among the held ones stands behind an acquire of its thread that is still to be performed (R244). -/
def scratchWaits (s : State) (l n : Nat) : Bool :=
  (s.groupOf l).ballast.any fun b => b.thread = l && b.held && b.block ≤ n && 2 ^ 60 ≤ b.addr
    && s.reqs.any fun q => q.ofThread l && q.id < b.id && q.acquires && !q.performed

/-- The comparison of a block has succeeded: its stores are released, its requests may be sent. -/
def releaseBlock (s : State) (l n : Nat) : State :=
  let bs := (s.groupOf l).ballast.filter fun b => b.thread = l && b.held && b.block ≤ n
  let s := bs.foldl (fun s b => releaseStore s l b) s
  let s :=
    if (s.thread l).blockNo ≠ n then s
    else { s with reqs := s.reqs.map fun r => if r.core = coreOfThread l then { r with waitTwin := r.waitTwin.filter (· ≠ slotOf l) } else r }
  s.modThread l fun t => { t with compared := n, done := t.done.filter fun b => n < b.no }

/-- MARIONETTE_COMPARE of the thread in a slot, leader or twin. -/
def execMarionetteCompare (die core slot : Nat) (s : State) : Host.Outcome State Fault Refusal :=
  let tk := threadKey (coreKey die core) slot
  let pair : Option (Nat × Nat) :=
    match s.leaderOf tk with
    | some l => some (l, tk)
    | none => (s.twinOf tk).map fun w => (tk, w)
  match pair with
  | none => .next s
  | some (l, w) =>
    let tl := s.thread l
    let tw := s.thread w
    if !s.up die || tw.stat ≠ .ret || tw.blockNo ≤ tl.compared then .next s
    else
      match leaderBlock tl tw.blockNo with
      | none => .next s
      | some (b, bend) =>
        let d := blockDiff b bend tw
        .next (if d ≠ 0 then mismatch s l w d else if scratchWaits s l tw.blockNo then s else releaseBlock s l tw.blockNo)

/-! ### Becoming waiting (R55) -/

/-- A matrix entry that the thread waits for (R207, R228). -/
def matrixWaits (s : State) (tk : Nat) : Bool :=
  let t := s.thread tk
  (s.quad (quadOfCore (coreOfThread tk))).table.any fun e =>
    e.core = coreOfThread tk && e.lanes.contains (slotOf tk) && t.first ≤ e.reqId && (e.op.waits || t.sEnd || t.cands ≠ [])

/-- The results of the block land (R68): a register that an ALU-class word of a later place wrote keeps that value. -/
def Thread.land (t : Thread) : Thread :=
  let ordered := (List.range 65).flatMap fun o => t.pend.filter fun p => p.off = o
  let put (t : Thread) (p : Pend) : Thread :=
    match p.dst with
    | .trans => t
    | .reg n =>
      p.vals.zipIdx.foldl (fun t v =>
        match mget t.wrote (n + v.2) with
        | some o => if p.off < o then t else t.setReg (n + v.2) v.1
        | none => t.setReg (n + v.2) v.1) t
  { ordered.foldl put t with pend := [] }

/-- The registers in which results of the block land. -/
def Thread.landed (t : Thread) : List Nat :=
  t.pend.flatMap fun p =>
    match p.dst with
    | .trans => []
    | .reg n => (List.range p.vals.length).filterMap fun i =>
        match mget t.wrote (n + i) with
        | some o => if p.off < o then none else some (n + i)
        | none => some (n + i)

/-- The block has ended without a trap: results land and the store hash folds its stores (R451). The block of a marionette leader
(`lead`) waits for its comparison under its number. -/
def endBlock (lead : Bool) (t : Thread) : Thread :=
  let t := t.land
  let t :=
    if !lead || t.twin || t.blockNo ≤ t.compared || t.done.any (fun b => b.no = t.blockNo) then t
    else { t with done := t.done ++ [t.record] }
  t.foldStores

/-- The trap that a block reports (R410): a deferred trap of an earlier block first; else the one whose word stands first. -/
def blockTrap (t : Thread) : Option TrapInfo :=
  match t.deferred with
  | some d => if d.own then leastBy (fun (c : TrapInfo) => c.off) t.cands.reverse else some d
  | none => leastBy (fun (c : TrapInfo) => c.off) t.cands.reverse

/-- A thread that has trapped in its block: requests that its trap keeps from being sent are discarded; once every access is
answered, the trap is reported, for a marionette leader once its twin has trapped the same way (R412). -/
def settleTrap (s : State) (tk : Nat) : State :=
  let t := s.thread tk
  let s := dropReqs s tk fun r => (r.late || r.flush) && t.first ≤ r.id && (match r.phase with | .answered _ _ => false | .back _ _ => false | _ => true)
  if s.held tk || matrixWaits s tk || s.refusalWaits tk || t.twin then s
  else
    match blockTrap t with
    | none => s
    | some ti =>
      if !(s.hdrOf tk).marionette then reportTrap s tk ti
      else if t.compared + 1 < t.blockNo then s
      else
        match twinTraps s tk ti, s.twinOf tk with
        | none, _ => s
        | some (d + 1), some w => mismatch s tk w (d + 1)
        | _, _ => reportTrap s tk ti

/-- A thread at the end of the block that holds its EXIT (R345): its ballast is committed with the group's last thread (R416), every
access is accepted, then it leaves; with the last thread the group has passed a commit point, whatever its ballast held. -/
def settleExit (s : State) (tk : Nat) : State :=
  let gk := s.groupKey tk
  let t := s.thread tk
  if t.deferred.isSome then
    if t.twin || s.refusalWaits tk || !s.blockCompared tk then s
    else reportTrap (s.modThread tk fun t => { t with bend := .go }) tk (t.deferred.getD { kind := .trap })
  else if !s.quiet tk || !s.blockCompared tk || t.done ≠ [] then s
  else if (s.threadsOf gk).all (fun x => x = tk) && (s.group gk).ballast.any fun b => !b.held then commitBallast s tk
  else if (s.threadsOf gk).all (fun x => x = tk) then
    leaveThread ((s.modGroup gk fun g => { g with opened := false }).modThread tk Thread.land) tk
  else leaveThread (s.modThread tk Thread.land) tk

/-- A breakpoint ordinal of the session that the thread's flight is attached to (R440). -/
def isBreak (s : State) (tk ord : Nat) : Bool :=
  match s.attached (s.flightKey (s.groupKey tk)) with
  | none => false
  | some (_, e) =>
    ord ≠ 0xFFFFFFFF && (List.range 4).any fun b => bits (e.word (0x70 + 8 * (b / 2))) (31 + 32 * (b % 2)) (32 * (b % 2)) = ord

/-- A thread of a group that is being stopped stands at its next head (R310): an open transaction is aborted, and the solitary token
given up (R330). A marionette leader
stops once its twin has reached the same head, a twin once its leader has stopped (R311). -/
def stopThread (s : State) (tk : Nat) : State :=
  let t := s.thread tk
  if !s.blockCompared tk || t.done ≠ [] then s
  else
    let gone : Bool := match s.leaderOf tk with
      | some l => (mget s.threads l).isNone || (s.thread l).stat = .stopped || (s.thread l).stat = .parked || (s.thread l).stat = .asleep || (s.thread l).stat = .exited
      | none => true
    if !gone then s
    else
      let s := if t.tx = [] || t.twin then s else closeAll (undoArrival s tk) tk whyPreempt
      (if t.twin then s else dropToken s tk).modThread tk fun t => { t with stat := .stopped, wantToken := false }

/-- The thread stands at its next head, whose knot is known, with its block complete: in native form from here on, where it may (R126). -/
def reachHead (s : State) (tk : Nat) : State :=
  let k := (s.thread tk).ahead
  let s := (noteLoaded s tk (s.thread tk).landed).modThread tk fun t => (endBlock (s.hdrOf tk).marionette t).foldPath k.ord
  let t := s.thread tk
  match t.deferred with
  | some ti =>
    if s.blockCompared tk && t.done = [] && !s.refusalWaits tk then (if t.twin then s else reportAtHead s tk ti k.ord) else s
  | none =>
    let behind : Bool := match s.leaderOf tk with
      | some l => decide (t.blockNo < (s.thread l).blockNo)
      | none => false
    if (s.groupOf tk).stopping && !behind then stopThread s tk
    else if !t.skipBrk && !t.twin && isBreak s tk k.ord then
      if s.blockCompared tk && t.done = [] then reportAtHead s tk { kind := .brk, ord := k.ord } k.ord else s
    else drainFifo (placeThread (swapAt s tk) tk) (coreOfThread tk) 64

/-- A page fault met by a fetch for a thread, with its entry in the fault queue (R370). -/
def fetchFault (s : State) (tk off : Nat) (k : PageFault) (va det : Nat) : State :=
  let id := s.nextId
  let s := ({ s with nextId := id + 1 }).addFault (dieOfThread tk)
    { va := va, vas := s.vasOf tk, kind := k, core := coreOfThread tk % 128, slot := slotOf tk, det := det, who := id }
  faultThread s tk { kind := .page, sub := k.code, off := off, ord := (s.thread tk).ord, va := va, detail := 2 * det, who := id }

/-- A thread of a block that has ended without a trap goes to its next head; a head that the knot table does not list traps at the
knot of the block it left (R52). -/
def toHead (s : State) (tk : Nat) : State :=
  let t := s.thread tk
  if t.twin && !s.blockCompared tk then s
  else
    match fetchKnot s (coreOfThread tk) (s.flightKey (s.groupKey tk)) t.glomer t.next with
    | (.hold, _) => s
    | (.bad k va det, s) => fetchFault s tk (t.off - 1) k va det
    | (.got none, s) => faultThread s tk { kind := .illegal, sub := 5, off := t.off - 1, ord := t.ord }
    | (.got (some k), s) => reachHead (s.modThread tk fun t => { t with ahead := k }) tk

/-- A thread in RETURN moves on, if what its block waits for is there (R312); a new group waits for the zeroing of its scratch (R34). -/
def settleThread (s : State) (tk : Nat) : State :=
  let t := s.thread tk
  if (s.groupOf tk).zeroing ≠ 0 then s
  else if t.cands ≠ [] then settleTrap s tk
  else if s.held tk || s.ballastOwed tk || matrixWaits s tk || twinOwed s tk || (t.wantToken && !(s.groupOf tk).stopping) then s
  else if t.doomed then conflictAbort (undoArrival (s.modThread tk (endBlock (s.hdrOf tk).marionette)) tk) tk t.doomWhy
  else
    match t.bend with
    | .exit => settleExit s tk
    | .retry =>
      if t.twin || !s.blockCompared tk then s
      else if t.deferred.isSome then (if s.refusalWaits tk then s else reportTrap s tk (t.deferred.getD { kind := .trap }))
      else retryTx (s.modThread tk (endBlock (s.hdrOf tk).marionette)) tk
    | .abort code =>
      if t.twin || !s.blockCompared tk then s
      else if t.deferred.isSome then (if s.refusalWaits tk then s else reportTrap s tk (t.deferred.getD { kind := .trap }))
      else abortTx (s.modThread tk (endBlock (s.hdrOf tk).marionette)) tk code
    | _ => toHead s tk

/-- THREAD_WAITING: a thread in RETURN moves on; one whose attempt was doomed while it waited restarts (R327). -/
def execThreadWaiting (die core slot : Nat) (s : State) : Host.Outcome State Fault Refusal :=
  let tk := threadKey (coreKey die core) slot
  if !s.up die || (mget s.threads tk).isNone then .next s
  else
    match (s.thread tk).stat with
    | .ret => .next (settleThread s tk)
    | .wait | .overflow | .joinWait =>
      if (s.thread tk).doomed then .next ((unplace s tk).modThread tk fun t => { t with was := some t.stat, stat := .ret }) else .next s
    | _ => .next s

/-! ### Selection (R58 to R61) -/

/-- The waiting threads of an entry. -/
def entryThreadKeys (ck : Nat) (e : BEntry) : List Nat := ((List.range 512).filter fun i => bitOf e.vec i).map (threadKey ck)

/-- A lane's next head is that of an entry: the same place; or, while the lane is in Glomer form and on its way, the Glomer offset of the
entry's native head, at which the lane will move to native form (R126). A head whose knot the core has not read yet may be it. -/
def headsFor (s : State) (ck : Nat) (e : BEntry) (t : Thread) : Bool :=
  if t.glomer = e.glomer then t.next = e.head
  else
    let f := s.flight e.flight
    t.glomer && f.swap &&
      (match (s.core ck).knot? e.flight true t.next with
       | some k => (!k.noswap || t.swapped) && f.heads[k.ord]? = some e.head
       | none => true)

/-- The lanes of a join entry's release are all there (R76); one that is parked or stopped there is waited for (log 33). -/
def waveWhole' (s : State) (ck : Nat) (e : BEntry) : Bool :=
  match e.gen, e.join with
  | some g, some (w, n) =>
    !((waveThreads (ck * 8 + w)).any fun tk =>
      let t := s.thread tk
      (mget s.threads tk).isSome && t.jgen = some g && t.bend = .join n && headsFor s ck e t
        && (t.stat = .ret || t.stat = .overflow || t.stat = .parked || t.stat = .stopped))
  | _, _ => true

/-- The threads of an entry that a selection may take: twins, or others. -/
def takeable (s : State) (ck : Nat) (queues : Nat) (e : BEntry) (twins : Bool) : List Nat :=
  if e.stat = .held || !waveWhole' s ck e then []
  else
    (entryThreadKeys ck e).filter fun tk =>
      let t := s.thread tk
      t.twin = twins && !t.doomed &&
        (if twins then twinReady s tk else !((s.hdrOf tk).marionette && 16 ≤ queues))

/-- A candidate of a selection: its entry, what it takes, and its rank (R59, R81). -/
structure Choice where
  entry : BEntry
  threads : List Nat
  complete : Bool
  prio : Nat
  deriving DecidableEq, Repr

/-- The candidate that an entry offers: twins whose queues are complete, else its other threads, else twins; the lanes of a released join
entry together or not at all (R76). Of an entry that holds leaders and twins only the threads that this selection could take count for its priority and for
the most waiting threads of R59 (DESIGN CHOICE, log 134). -/
def choiceOf (s : State) (ck queues : Nat) (e : BEntry) : Option Choice :=
  let ts := takeable s ck queues e true
  let own := takeable s ck queues e false
  let all := entryThreadKeys ck e
  let full := if e.gen.isSome then (if ts = all && all.all (queueComplete s) then all else []) else ts.filter (queueComplete s)
  let pick :=
    if e.gen.isSome then (if ts = all || own = all then all else [])
    else if full ≠ [] then full else if own ≠ [] then own else ts
  if pick = [] then none
  else
    some
      { entry := e, threads := pick, complete := full ≠ []
        prio := (pick.map fun tk => (s.hdrOf tk).prio + (s.thread tk).boost).foldl max 0 }

/-- a ranks above b: complete twins, priority, number of waiting threads, order of allocation (R59, R81). -/
def Choice.above (a b : Choice) : Bool :=
  if a.complete ≠ b.complete then a.complete
  else if a.prio ≠ b.prio then b.prio < a.prio
  else if a.threads.length ≠ b.threads.length then b.threads.length < a.threads.length
  else a.entry.born < b.entry.born

/-- The best of a list. -/
def bestChoice : List Choice → Option Choice
  | [] => none
  | c :: r => match bestChoice r with | none => some c | some d => if d.above c then some d else some c

/-- The selection of R59: the first aged entry that offers threads, else the best of the others. -/
def selectEntry (s : State) (ck : Nat) : Option Choice :=
  let queues := s.queuesUsed ck
  let es := (s.core ck).table
  let aged := (es.filter fun e => e.stat = .aged).filterMap (choiceOf s ck queues)
  match leastBy (fun (c : Choice) => c.entry.agedAt) aged with
  | some c => some c
  | none => bestChoice ((es.filter fun e => e.stat = .live).filterMap (choiceOf s ck queues))

/-- The threads taken (R61): up to 64 in ascending slot order from the cursor on, wrapping; a wave bundle whole. -/
def takeFrom (c : Choice) : List Nat :=
  let after := c.threads.filter fun tk => c.entry.cursor ≤ slotOf tk
  let before := c.threads.filter fun tk => slotOf tk < c.entry.cursor
  (after ++ before).take 64

/-- The table after a selection (R60, R61): the taken threads' bits cleared, the cursor moved, passes counted. R60 does not order the
entries that join the tail of the aged list in one selection: they stand there in the order of the table (DESIGN CHOICE, log 108). -/
def passTable (c : Core) (e : BEntry) (taken : List Nat) : Core :=
  let step (x : BEntry) : BEntry :=
    if x.key = e.key then
      let vec := taken.foldl (fun v tk => clrBit v (slotOf tk)) x.vec
      let x := { x with vec := vec, cursor := (slotOf (taken.getLast?.getD 0) + 1) % 512 }
      if x.stat = .aged then
        if vec ≠ 0 then { x with agedAt := c.clock, passes := 32 } else { x with passes := 0, stat := .live }
      else { x with passes := 0 }
    else if x.stat = .live && x.vec ≠ 0 then
      if x.passes + 1 < 32 then { x with passes := x.passes + 1 } else { x with passes := 32, stat := .aged, agedAt := c.clock }
    else x
  { c with table := c.table.map step, clock := c.clock + 1 }

/-- A thread enters a block at its head: what R66 may restore is kept, and the block's own state starts anew. -/
def Thread.enter (t : Thread) (head ord first queue : Nat) : Thread :=
  { t with
    stat := .stream, was := none, wgen := (match t.bend, t.jgen with | .join n, some g => some (n, g) | _, _ => none)
    head := head, ord := ord, off := 0, next := head, here := t.ahead, headRegs := t.regs, headRnd := t.rnd, headFtz := t.ftz
    headSig := t.relSig, headRet := t.viaRet, viaRet := false, bend := .go, jgen := none, sEnd := false, sMust := false, win := []
    wrote := [], pend := [], hImm := none, hOff := none, hRnd := none, hFtz := none, hSat := false, hPol := none, hPrio := none
    gLeft := 0, gPat := 0, gCond := false, first := first, folded := false, stores := [], sends := [], skipBrk := false
    blockNo := t.blockNo + 1, queue := queue }

/-- A selection (R61): the taken threads enter the block of their entry, and their bundle waits in the slot for the block's words. -/
def takeBundle (s : State) (k : Nat) (c : Choice) : State :=
  let ck := k / 2
  let e := c.entry
  let taken := takeFrom c
  let s := freeEntries (s.modCore ck fun x => passTable x e taken) ck
  let id := s.nextId
  let s := taken.foldl (fun s tk => s.modThread tk fun t => t.enter e.head e.ord (id + 1) id) { s with nextId := id + 1 }
  s.setBundle k
    { flight := e.flight, glomer := e.glomer, head := e.head, ord := e.ord, waveBundle := e.gen.isSome, live := e.live, fetching := true
      lanes := ((List.range 512).filter fun i => taken.any fun tk => slotOf tk = i) }

/-- A bundle whose threads have all trapped before its first word leaves its slot. -/
def dropBundle (s : State) (k : Nat) (f : State → Nat → State) : State :=
  let s' := (s.lanes k).foldl (fun s tk => (f s tk).modThread tk fun t => { t with stat := .ret }) s
  { s' with bundles := mdel s'.bundles k }

/-- The block of a bundle is fetched and checked (R111): a fetch fault or an illegal word traps every thread taken; else it streams. -/
def fetchBundle (s : State) (k : Nat) : State :=
  let ck := k / 2
  let b := s.bundle k
  match fetchBlock s ck b.flight b.glomer b.head 64 0 with
  | (.hold, _, _) => s
  | (.bad kind va det, place, s) => dropBundle s k fun s tk => fetchFault s tk place kind va det
  | (.got code, _, s) =>
    let h := (s.flight b.flight).hdr
    let lim : Limits := { glomer := b.glomer, nregs := h.nregs, njoin := h.njoin, nteth := h.nteth }
    match blockFault lim [] 0 (code.map (·.1)) with
    | some (n, sub) => dropBundle s k fun s tk => faultThread s tk { kind := .illegal, sub := sub, off := n, ord := b.ord }
    | none =>
      let fall := (b.head + wordBytes b.glomer * code.length) % 2 ^ 32
      let wave := code.any fun p => match bodyInstr b.glomer p.1 with | some i => decide ((info i).tx = .bundle) | none => false
      let s := s.countEvent ck (s.bundleGroups k) 2 1
      let s := s.mapLanes k fun _ t => { t with next := fall, wgen := if wave then t.wgen else none }
      s.setBundle k { b with code := code, fetching := false }

/-- BUNDLE_SELECT (R58): a free slot selects, slot 0 first when both are free, and fetches its block; a slot whose bundle still waits for
its block's words fetches them. -/
def execBundleSelect (die core bslot : Nat) (s : State) : Host.Outcome State Fault Refusal :=
  let ck := coreKey die core
  let k := 2 * ck + bslot
  if !s.up die || 2 ≤ bslot then .next s
  else if (mget s.bundles k).isSome then .next (if (s.bundle k).fetching then fetchBundle s k else s)
  else if bslot = 1 && (mget s.bundles (2 * ck)).isNone then .next s
  else
    match selectEntry s ck with
    | none => .next s
    | some c => .next (fetchBundle (takeBundle s k c) k)

end Sys2Proof.Machine
end

