-- ==== Sys2Proof/Machine/Admit.lean ====
section
/-! DEFINITION. Trains on their die: admission (R34, R44 to R46, R308), scratch zeroing, pre-emption (R309, R310), saving and restoring
contexts (R310, R311, R414), and the ends of trains and flights (R41, R47). -/

namespace Sys2Proof.Machine

set_option Elab.async false

/-! ### Resources (R45 to R47) -/

/-- What a core has left: wave slots, half-granules, scratch pages, tether slots; and its quad's banks. -/
structure Room where
  slots : List Nat := []
  granules : List Nat := []
  pages : List Nat := []
  teth : Nat := 0
  deriving DecidableEq, Repr

/-- The groups of a core that hold something: the ended ones of unended trains hold their pages. -/
def heldBy (s : State) (ck : Nat) (gone : List Nat) : List Group :=
  (s.groups.filter fun p => coreOfGroup p.1 = ck && !gone.contains p.2.train).map (·.2)

/-- Free resources of a core, the groups of some trains counted as gone. -/
def roomOf (s : State) (ck : Nat) (gone : List Nat) : Room :=
  let gs := heldBy s ck gone
  let waves := gs.flatMap (·.wslots)
  let pages := gs.flatMap (·.pages)
  let gran := waves.flatMap fun w => (s.wave (ck * 8 + w)).granules
  { slots := (List.range 8).filter fun w => !waves.contains w
    granules := (List.range 256).filter fun g => !gran.contains g
    pages := (List.range 48).filter fun p => !pages.contains p
    teth := 128 - sumBy (fun (g : Group) => if g.ended then 0 else (s.flight (s.train g.train).flight).hdr.nteth) gs }

/-- Free banks of a quad. -/
def banksOf (s : State) (qk : Nat) (gone : List Nat) : List Nat :=
  let used := ((List.range 4).flatMap fun i => heldBy s (qk * 4 + i) gone).flatMap (·.banks)
  (List.range 4).filter fun b => !used.contains b

/-- What one group asks for: an ended group of a saved train asks only for its pages. -/
structure Need where
  slots : Nat := 0
  perWave : Nat := 0
  pages : Nat := 0
  teth : Nat := 0
  banks : Nat := 0
  deriving DecidableEq, Repr

def needOf (h : Header) (ended : Bool) : Need :=
  if ended then { pages := h.pages }
  else { slots := h.slots, perWave := h.waveGranules, pages := h.pages, teth := h.nteth, banks := h.nacc }

/-- The needs of a train's groups, by f2. -/
def trainNeeds (s : State) (k : Nat) : List Need :=
  let h := (s.flight (s.train k).flight).hdr
  match mget s.saved k with
  | some gs => gs.map fun g => needOf h g.group.ended
  | none => (List.range h.gpt).map fun _ => needOf h false

/-- The core can hold a group with this need, `taken` banks of its quad being spoken for. -/
def fits (s : State) (ck : Nat) (gone : List Nat) (n : Need) (taken : Nat) : Bool :=
  let r := roomOf s ck gone
  n.slots ≤ r.slots.length && n.slots * n.perWave ≤ r.granules.length && n.pages ≤ r.pages.length && n.teth ≤ r.teth
    && n.banks + taken ≤ (banksOf s (quadOfCore ck) gone).length

/-- Distinct cores of a die for a list of needs, each the lowest that fits it (log 19); none when one is left without. `quads` counts the
banks spoken for. -/
def chooseCores (s : State) (die : Nat) (gone : List Nat) : List Need → List Nat → AMap Nat → Option (List Nat)
  | [], _, _ => some []
  | n :: rest, used, quads =>
    match (List.range 128).find? fun c =>
        !used.contains c && fits s (coreKey die c) gone n (mgetD quads (c / 4) 0) with
    | none => none
    | some c => (chooseCores s die gone rest (c :: used) (mput quads (c / 4) (mgetD quads (c / 4) 0 + n.banks))).map (c :: ·)

/-- The cores for a train's groups, by f2 (R44). The groups that still run are served before the ended ones of a saved train, which need
only their pages: a core that could hold a running group can hold an ended one too, so cores are found whenever there are any. -/
def coresFor (s : State) (die k : Nat) (gone : List Nat) : Option (List Nat) :=
  let ns := (trainNeeds s k).zipIdx
  let order := (ns.filter fun p => p.1.slots ≠ 0) ++ ns.filter fun p => p.1.slots = 0
  (chooseCores s die gone (order.map (·.1)) [] []).map fun cs =>
    ns.map fun p => ((order.zip cs).find? fun q => q.1.2 = p.2).elim 0 (·.2)

/-! ### Placing groups on cores -/

/-- A free group slot key of a core. -/
def freeGroup (s : State) (ck : Nat) : Nat :=
  groupKeyOf ck (((List.range 512).find? fun i => (mget s.groups (groupKeyOf ck i)).isNone).getD 511)

/-- The map entries of a bank, or outside every bank of a list, by the number of entries of a bank. -/
def dropBanks {α : Type} (m : AMap α) (n : Nat) (banks : List Nat) : AMap α := m.filter fun p => !banks.contains (p.1 / n)

/-- Accumulator banks zeroed and their counts and latches cleared (R34, R200). -/
def clearBanks (q : Quad) (banks : List Nat) : Quad :=
  { q with
    acc := dropBanks q.acc 16384 banks, count := dropBanks q.count 256 banks, rscale := dropBanks q.rscale 256 banks
    cscale := dropBanks q.cscale 64 banks, rcodes := dropBanks q.rcodes 256 banks, ccodes := dropBanks q.ccodes 64 banks }

/-- A group of an attached flight claims its core's free event counters, or is not counted (R444). -/
def claimEvents (s : State) (gk : Nat) : State :=
  match s.attached (s.flightKey gk) with
  | none => s
  | some (key, _) =>
    let ck := coreOfGroup gk
    let c := s.core ck
    if c.claim = 0 then s.setCore ck { c with claim := key + 1, events := [] }
    else if c.claim = key + 1 then s
    else s.modGroup gk fun g => { g with evskip := true }

/-- One group of a train made resident on a core: its slots, granules, pages and banks (R45, R46). -/
def seatGroup (s : State) (ck : Nat) (n : Need) (g : Group) : Nat × Group × State :=
  let r := roomOf s ck []
  let banks := (banksOf s (quadOfCore ck) []).take n.banks
  let gk := freeGroup s ck
  let g := { g with wslots := r.slots.take n.slots, pages := r.pages.take n.pages, banks := banks }
  let s := s.modQuad (quadOfCore ck) fun q => clearBanks q banks
  (gk, g, s.setGroup gk g)

/-- The waves of a seated group: each with its granules; `f` gives the rest by place. -/
def seatWaves (s : State) (ck gk : Nat) (n : Need) (g : Group) (f : Nat → Wave) : State :=
  let gran := (roomOf s ck []).granules
  g.wslots.zipIdx.foldl (fun s p =>
    let w := { f p.2 with gslot := gk % 65536, granules := (gran.drop (p.2 * n.perWave)).take n.perWave }
    s.setWave (ck * 8 + p.1) w) s

/-- The pages of a core hold zeros. -/
def zeroPages (s : State) (ck : Nat) (pages : List Nat) : State :=
  { s with
    bad := s.bad.filter fun b => !(cellBad (scrKey ck 0) ≤ b.1 && b.1 < cellBad (scrKey ck 196608) && pages.contains ((b.1 - cellBad (scrKey ck 0)) / 512))
    mem := s.mem.filter fun c => !(scrKey ck 0 ≤ c.1 && c.1 < scrKey ck 0 + 196608 && pages.contains ((c.1 - scrKey ck 0) / 4096)) }

/-- A fresh group (R34): its threads stand before the head at ENTRY. Its pages hold zeros from the moment that they are mapped, so that no
peer reads an earlier group's values; the time that the zeroing takes passes until SCRATCH_ZEROING_DONE. -/
def freshGroup (s : State) (k f2 ck : Nat) : State :=
  let fl := s.flight (s.train k).flight
  let h := fl.hdr
  let n := needOf h false
  let (gk, g, s) := seatGroup s ck n { train := k, f2 := f2, tethers := fl.templates, zeroing := h.pages }
  let s := seatWaves (zeroPages s ck g.pages) ck gk n g fun i => { f1 := i % h.nwaves, twin := h.nwaves ≤ i }
  let lanes := if h.narrow then 32 else 64
  let s := g.wslots.zipIdx.foldl (fun s p =>
    (List.range lanes).foldl (fun s l =>
      (dropReplay s (threadKey ck (p.1 * 64 + l))).setThread (threadKey ck (p.1 * 64 + l))
        { glomer := fl.glomer, next := h.entry, first := s.nextId, twin := h.nwaves ≤ p.2 }) s) s
  let s := s.modTrain k fun t => { t with groups := t.groups ++ [gk] }
  claimEvents s gk

/-! ### Saving and restoring (R310, R311, R414) -/

/-- The group key under which a saved group's owed counter adds stand meanwhile. -/
def savedKey (k f2 : Nat) : Nat := 2 ^ 80 + k * 128 + f2

/-- The counter adds owed to a group, its exit record that is still to be written, and its records that the trace unit holds follow it under another
key. -/
def moveAdds (s : State) (die gk gk' : Nat) : State :=
  s.modDie die fun d =>
    { d with
      combAdds := d.combAdds.map fun (a : CombAdd) => if a.group = gk then { a with group := gk' } else a
      exits := d.exits.map fun (x : ExitRec) => if x.group = gk then { x with group := gk' } else x
      traceHold := d.traceHold.map fun p => if p.2.group = gk then (p.1, { p.2 with group := gk' }) else p }

/-- Registers kept by a save: those that the live map of the thread's head marks, and the spill area whole (R53, R414). A thread that has
been put back to a checkpoint holds no others (R320). -/
def saveThread (nregs : Nat) (t : Thread) : Thread :=
  if t.ahead.off = t.next && t.ahead.glomer = t.glomer then
    { t with regs := t.regs.filter fun p => bitOf t.ahead.live p.1 || (t.glomer && nregs ≤ p.1), headRegs := [] }
  else t

/-- Entries of one bank moved to another number. -/
def bankEntries {α : Type} (m : AMap α) (n bank dest : Nat) : AMap α :=
  (m.filter fun p => p.1 / n = bank).map fun p => (dest * n + p.1 % n, p.2)
def banksOut {α : Type} (m : AMap α) (n : Nat) (banks : List Nat) : AMap α :=
  banks.zipIdx.flatMap fun p => bankEntries m n p.1 p.2
def banksIn {α : Type} (m saved : AMap α) (n : Nat) (banks : List Nat) : AMap α :=
  banks.zipIdx.foldl (fun m p => (bankEntries saved n p.2 p.1).foldl (fun m e => mput m e.1 e.2) m) m

/-- The context of one group. -/
def contextOf (s : State) (gk : Nat) : SavedGroup :=
  let g := s.group gk
  let ck := coreOfGroup gk
  let q := s.quad (quadOfCore ck)
  { core := ck, group := { g with stopping := false }
    waves := g.wslots.map fun w => s.wave (ck * 8 + w)
    threads := g.wslots.zipIdx.flatMap fun p =>
      (List.range 64).filterMap fun l =>
        (mget s.threads (threadKey ck (p.1 * 64 + l))).map fun t => (p.2 * 64 + l, saveThread (s.flight (s.flightKey gk)).hdr.nregs t)
    scratch := g.pages.flatMap fun p => Memory.read s.mem (scrKey ck (p * 4096)) 4096
    acc := banksOut q.acc 16384 g.banks, count := banksOut q.count 256 g.banks, rscale := banksOut q.rscale 256 g.banks
    cscale := banksOut q.cscale 64 g.banks, rcodes := banksOut q.rcodes 256 g.banks, ccodes := banksOut q.ccodes 64 g.banks
    queue := (q.queue.filter fun e => e.group = gk).map fun e => if e.stat = .moving then { e with stat := .queued } else e }

/-- A group leaves its core with everything it holds. -/
def unseatGroup (s : State) (gk : Nat) : State :=
  let g := s.group gk
  let ck := coreOfGroup gk
  let s := s.modQuad (quadOfCore ck) fun q => { q with queue := q.queue.filter fun e => e.group ≠ gk }
  let s := { s with
    groups := mdel s.groups gk
    waves := s.waves.filter fun p => !(p.1 / 8 = ck && g.wslots.contains (p.1 % 8))
    threads := s.threads.filter fun p => !(coreOfThread p.1 = ck && g.wslots.contains (slotOf p.1 / 64)) }
  releaseClaim s ck

/-- A saved thread stands ready on its new core: one that slept is woken once (R311). -/
def wakeSaved (first : Nat) (t : Thread) : Thread :=
  match t.stat with
  | .asleep => { t with stat := .ret, txReason := whyWake, first := first }
  | .stopped => { t with stat := .ret, first := first }
  | _ => { t with first := first }

/-- A group restored on a core (R311). Its saved streamer entries follow those of the new quad's queue, all of them, even beyond the 16 that the queue
holds otherwise (DESIGN CHOICE, log 136). -/
def restoreGroup (s : State) (k ck : Nat) (c : SavedGroup) : State :=
  let h := (s.flight (s.train k).flight).hdr
  let n := needOf h c.group.ended
  let was := c.group.wslots
  let (gk, g, s) := seatGroup s ck n { c.group with stopping := false, evskip := false }
  let move (tk : Nat) : Nat := threadKey ck (((g.wslots[was.idxOf (slotOf tk / 64)]?).getD 0) * 64 + laneOf tk)
  let s := seatWaves s ck gk n g fun i => (c.waves[i]?).getD {}
  let s := c.threads.foldl (fun s p =>
    let tk := threadKey ck (((g.wslots[p.1 / 64]?).getD 0) * 64 + p.1 % 64)
    let s := (dropReplay s tk).setThread tk (wakeSaved s.nextId p.2)
    if p.2.stat = .parked then s else queueToken s tk) s
  let s := g.pages.zipIdx.foldl (fun s p =>
    { s with mem := Memory.write s.mem (scrKey ck (p.1 * 4096)) ((c.scratch.drop (p.2 * 4096)).take 4096) }) (zeroPages s ck g.pages)
  let s := s.modGroup gk fun g => { g with
    ballast := g.ballast.map fun b => { b with thread := move b.thread }
    trace := g.trace.map fun r => { r with group := gk, by' := none } }
  let s := s.modQuad (quadOfCore ck) fun q =>
    { q with
      acc := banksIn q.acc c.acc 16384 g.banks, count := banksIn q.count c.count 256 g.banks
      rscale := banksIn q.rscale c.rscale 256 g.banks, cscale := banksIn q.cscale c.cscale 64 g.banks
      rcodes := banksIn q.rcodes c.rcodes 256 g.banks, ccodes := banksIn q.ccodes c.ccodes 64 g.banks
      queue := q.queue ++ c.queue.map fun e =>
        { e with group := gk, core := ck, thread := move e.thread } }
  let s := moveAdds s (dieOfCore ck) (savedKey k c.group.f2) gk
  let s := s.modTrain k fun t => { t with groups := t.groups ++ [gk] }
  claimEvents s gk

/-- The threads of a restored group that stood stopped wait at their heads again (R312). -/
def settleSaved (s : State) (c : SavedGroup) (gk : Nat) : State :=
  c.threads.foldl (fun s p =>
    let tk := threadKey (coreOfGroup gk) ((((s.group gk).wslots[p.1 / 64]?).getD 0) * 64 + p.1 % 64)
    if p.2.stat = .stopped && (s.thread tk).stat = .ret then settleThread s tk else s) s

/-! ### TRAIN_ADMIT (R44, R308) -/

/-- A pending train that may be considered: the trains of pass p wait until pass p - 1 is done (R446). -/
def mayConsider (s : State) (k : Nat) : Bool :=
  match s.attached (s.train k).flight with
  | some (_, e) => e.mode ≠ 1 || (s.flight (s.train k).flight).pass ≤ e.pass
  | none => true

/-- a stands before b in the admission order. -/
def Train.before (a b : Train) : Bool :=
  let old (t : Train) : Bool := 32 ≤ t.passes
  if old a ≠ old b then old a
  else if old a then a.age < b.age
  else if a.prio ≠ b.prio then b.prio < a.prio
  else a.age < b.age

/-- The head of a die's pending list. -/
def headTrain (s : State) (die : Nat) : Option Nat :=
  ((s.pendingOn die).filter (mayConsider s)).foldl (fun (o : Option Nat) k =>
    match o with
    | none => some k
    | some h => if (s.train k).before (s.train h) then some k else some h) none

/-- The head admitted on its cores, every group in one step; elder trains that it passes count the pass. An admitted train's own count starts anew,
so that no victim comes back aged before the head that it was stopped for (R317; DEDUCED, log 133). -/
def admitTrain (s : State) (die k : Nat) (cores : List Nat) : State :=
  let age := (s.train k).age
  let n := (s.die die).admissions
  let s := { s with
    trains := s.trains.map fun (p : Nat × Train) =>
      if decide (p.2.die = die ∧ p.2.stat = TrainStat.pending ∧ p.2.age < age ∧ p.1 ≠ k) then (p.1, { p.2 with passes := min 32 (p.2.passes + 1) }) else p }
  let s := s.modDie die fun d => { d with admissions := n + 1 }
  let saved := mget s.saved k
  let s := s.modTrain k fun t => { t with stat := .resident, admitted := n, passes := 0, groups := [], saved := false, ctxBytes := 0 }
  let s := { s with saved := mdel s.saved k }
  match saved with
  | some gs =>
    let s := (gs.zip cores).foldl (fun s (p : SavedGroup × Nat) => restoreGroup s k (coreKey die p.2) p.1) s
    (gs.zip (s.train k).groups).foldl (fun s (p : SavedGroup × Nat) => settleSaved s p.1 p.2) s
  | none => cores.zipIdx.foldl (fun s (p : Nat × Nat) => freshGroup s k p.2 (coreKey die p.1)) s

/-- TRAIN_ADMIT. -/
def execTrainAdmit (die : Nat) (s : State) : Host.Outcome State Fault Refusal :=
  if !s.up die then .next s
  else
    match headTrain s die with
    | none => .next s
    | some k =>
      match coresFor s die k [] with
      | none => .next s
      | some cores => .next (admitTrain s die k cores)

/-- SCRATCH_ZEROING_DONE: the time of the zeroing has passed, and the group's first instruction may go (R34). -/
def execScratchZeroingDone (die core gslot : Nat) (s : State) : Host.Outcome State Fault Refusal :=
  let ck := coreKey die core
  let gk := groupKeyOf ck gslot
  let g := s.group gk
  if (mget s.groups gk).isNone || g.zeroing = 0 then .next s
  else
    .next (s.modGroup gk fun g => { g with zeroing := 0 })

/-! ### Pre-emption (R309, R310) -/

/-- A field of a die's save pool header (R408). -/
def State.pool (s : State) (die off n : Nat) : Nat := s.ram die ((s.die die).poolBase.toNat + off) n

/-- Bytes of the context area in which no context stands yet (R309, R408). While TRLOG names no trap ring, the area begins where the ring would
(DESIGN CHOICE, log 138); a header that breaks R408 gives none. -/
def poolRoom (s : State) (die : Nat) : Nat :=
  let log := s.pool die 0 1 % 16
  let ring := if 6 ≤ log && log ≤ 14 then 64 * 2 ^ log else 0
  if !s.poolGood die then 0
  else (s.die die).poolSize.toNat - 0x1000 - ring - sumBy (fun (p : Nat × Train) => if p.2.die = die then p.2.ctxBytes else 0) s.trains

/-- The bytes that a train's context takes (R310, R414), by the sizes that log 20 gives its parts: of each thread its registers, its transaction save
area where the code object contains TXBEGIN (R320) and, in a flight started in Glomer form, its spill area; of each group its scratch, accumulator
banks and matrix state. -/
def contextBytes (f : Flight) : Nat :=
  let h := f.hdr
  let thread := h.nregs * 4 + (if !f.txs then 0 else if f.glomer then 18432 else 2048) + (if f.glomer then 4096 else 0)
  let matrix := if h.nacc = 0 then 0 else h.nacc * 65536 + 0x4200
  h.gpt * (h.slots * (if h.narrow then 32 else 64) * thread + h.pages * 4096 + matrix)

/-- A train stops (R310): waiting threads leave their places and stand stopped at their heads (R312), a marionette flight's once leader and
twin are at the same head; entries that are not performed are withdrawn (R226). -/
def stopGroup (s : State) (gk : Nat) : State :=
  let s := s.modGroup gk fun g => { g with stopping := true }
  let qk := quadOfCore (coreOfGroup gk)
  let out := (s.quad qk).table.filter fun e =>
    e.group = gk && e.stat ≠ .stream && (match e.op with | .mdrain => false | .mzero => false | _ => true)
  let s := out.foldl (fun s e => withdrawEntry s qk e) s
  (s.threadsOf gk).foldl (fun s tk =>
    let behind : Bool := match s.leaderOf tk with | some l => decide ((s.thread tk).blockNo < (s.thread l).blockNo) | none => false
    match (s.thread tk).stat with
    | .wait | .overflow | .joinWait =>
      if behind then s
      else
        let s := (unplace s tk).modThread tk fun t => { t with was := some t.stat, stat := .ret }
        if (s.hdrOf tk).marionette then s else stopThread s tk
    | .asleep => dropWatches (dropWakes s tk) tk
    | _ => s) s
def startStop (s : State) (k : Nat) (forPrio : Bool) : State :=
  let s := s.modTrain k fun t => { t with stat := .stopping, forPrio := forPrio, noSave := false }
  ((s.train k).groups.filter fun gk => !(s.group gk).ended).foldl stopGroup s

/-- Candidates taken in order until the head would fit: none when even all are not enough. -/
def pickStops (s : State) (die head : Nat) : List Nat → Nat → List Nat → Option (List Nat)
  | [], _, _ => none
  | k :: rest, room, taken =>
    let b := contextBytes (s.flight (s.train k).flight)
    if room < b then pickStops s die head rest room taken
    else
      let taken := taken ++ [k]
      if (coresFor s die head taken).isSome then some taken else pickStops s die head rest (room - b) taken

/-- The trains that may be pre-empted for a head, lowest priority first, most recently admitted first. -/
def stopCandidates (s : State) (die head : Nat) : List Nat :=
  let ok (t : Train) : Bool :=
    t.die = die && t.stat = .resident && (s.flight t.flight).hdr.preempt && t.prio < (s.train head).prio && t.preempts < 2
  let cs := s.trains.filter fun p => ok p.2
  let key (t : Train) : Nat := t.prio * 2 ^ 64 + (2 ^ 64 - 1 - t.admitted)
  (cs.mergeSort fun a b => key a.2 ≤ key b.2).map (·.1)

/-- PREEMPT_START: pre-emption for the head of the list, one stop at a time (R311). -/
def execPreemptStart (die : Nat) (s : State) : Host.Outcome State Fault Refusal :=
  if !s.up die || (s.die die).poolBase = 0 || s.trains.any fun p => p.2.die = die && (p.2.stat = .stopping || p.2.stat = .saving) then .next s
  else
    match headTrain s die with
    | none => .next s
    | some h =>
      if (coresFor s die h []).isSome then .next s
      else
        match pickStops s die h (stopCandidates s die h) (poolRoom s die) [] with
        | none => .next s
        | some ks => .next (ks.foldl (fun s k => startStop s k true) s)

/-- DIE_KERNEL_PREEMPT: the die kernel stops any train (R310). -/
def execDieKernelPreempt (die train : Nat) (s : State) : Host.Outcome State Fault Refusal :=
  if s.up die && (mget s.trains train).isSome && (s.train train).die = die && (s.train train).stat = .resident then
    .next (startStop s train false)
  else .next s

/-- Every thread of a group stands still. -/
def groupStill (s : State) (gk : Nat) : Bool :=
  (s.threadsOf gk).all fun tk =>
    match (s.thread tk).stat with
    | .stopped | .parked | .asleep | .exited => true
    | _ => false

/-- A contribution of the group is on its way through the fabric. -/
def State.sending (s : State) (gk : Nat) : Bool := s.onWay fun b => match b with | .contrib c => c.entry.group = gk | _ => false

/-- Nothing of a group is on its way: requests, engine entries, contributions. -/
def groupQuiet (s : State) (gk : Nat) : Bool :=
  (s.threadsOf gk).all s.quiet && !((s.quad (quadOfCore (coreOfGroup gk))).table.any fun e => e.group = gk)
    && !s.sending gk && !(s.dies.any fun p => p.2.contribs.any fun c => c.entry.group = gk)

/-- PREEMPT_STOP_COMPLETE: once every thread stands at a head, the train is saved, or ends with its flight (R310, R413); a train that
has ended meanwhile is left as it is (R311). -/
def execPreemptStopComplete (die train : Nat) (s : State) : Host.Outcome State Fault Refusal :=
  let t := s.train train
  if (mget s.trains train).isNone || t.die ≠ die || t.stat ≠ .stopping || !s.up die then .next s
  else
    let live := t.groups.filter fun gk => !(s.group gk).ended
    let s := live.foldl stopGroup s
    if live = [] then .next (s.modTrain train fun t => { t with stat := .resident })
    else if !(live.all (groupStill s)) then .next s
    else if t.noSave then
      .next ((live.foldl (fun s gk => killGroup s gk 2 false) s).modTrain train fun t => { t with stat := .resident })
    else if !(t.groups.all (groupQuiet s)) then .next s
    else .next (s.modTrain train fun t => { t with stat := .saving })

/-- CONTEXT_SAVE_COMPLETE: the contexts stand in the pool, the resources are free, and the train is pending with its age (R310). The spec lays out no
bytes of a context: State.saved keeps it, and the pool's context area keeps the bytes that it held (DESIGN CHOICE, log 137). -/
def execContextSaveComplete (die train : Nat) (s : State) : Host.Outcome State Fault Refusal :=
  let t := s.train train
  if (mget s.trains train).isNone || t.die ≠ die || t.stat ≠ .saving || !s.up die then .next s
  else if t.noSave then
    .next (((t.groups.filter fun gk => !(s.group gk).ended).foldl (fun s gk => killGroup s gk 2 false) s).modTrain train fun t =>
      { t with stat := .resident })
  else
    let ctx := t.groups.map (contextOf s)
    let s := t.groups.foldl (fun s gk => unseatGroup (moveAdds s die gk (savedKey train (s.group gk).f2)) gk) s
    .next ({ s with saved := mput s.saved train ctx }.modTrain train fun t =>
      { t with
        stat := .pending, saved := true, groups := [], preempts := t.preempts + t.forPrio.toNat, forPrio := false
        ctxBytes := contextBytes (s.flight t.flight) })

/-! ### Ends (R41, R47) -/

/-- Nothing of a group is left to be done: its exit record is written, its engine entries and owed adds are gone. -/
def groupDone (s : State) (gk : Nat) : Bool :=
  let g := s.group gk
  let qk := quadOfCore (coreOfGroup gk)
  g.ended && g.trace = [] && !((s.quad qk).queue.any fun e => e.group = gk) && !((s.quad qk).table.any fun e => e.group = gk)
    && !s.sending gk && !(s.dies.any fun p =>
      (p.2.exits.any fun x => x.group = gk) || (p.2.combAdds.any fun c => c.group = gk) || (p.2.contribs.any fun c => c.entry.group = gk))

/-- TRAIN_END: the die writes back every dirty non-home line on the train's behalf, frees what the train still holds, and reports. -/
def execTrainEnd (die train : Nat) (s : State) : Host.Outcome State Fault Refusal :=
  let t := s.train train
  if (mget s.trains train).isNone || t.die ≠ die || (t.stat ≠ .resident && t.stat ≠ .stopping) || !s.up die || !(t.groups.all (groupDone s))
      || ((s.die die).exits.any fun x => x.train = train) then
    .next s
  else
    match releaseWide s die with
    | (_, false) => .next s
    | (s, true) => .next (trainGone { s with groups := t.groups.foldl mdel s.groups } train)

/-- Groups of abandoned launches leave once their records are written (R417). -/
def reapGroups (s : State) : State :=
  let listed := s.trains.flatMap fun p => p.2.groups
  { s with groups := s.groups.filter fun p => listed.contains p.1 || !groupDone s p.1 }

/-- A flight is done: its pins end (R241), and its fetched words leave the cores; its completion add is made (R41). -/
def finishFlight (s : State) (die fk : Nat) : State :=
  let f := s.flight fk
  let s := s.modFlight fk fun f => { f with done := true }
  let s := { s with
    dies := s.dies.map fun p =>
      (p.1, { p.2 with pins := (p.2.pins.map fun q => (q.1, q.2.filter (· ≠ fk))).filter fun q => q.2 ≠ [] })
    cores := s.cores.map fun p =>
      (p.1, { p.2 with words := p.2.words.filter fun w => w.1 ≠ fk, knots := p.2.knots.filter fun k => k.flight ≠ fk }) }
  if f.hdr.done = 0 then s else addDone s die { flight := fk, vas := f.vas, addr := f.hdr.done, addend := f.hdr.trains }

/-- TRAIN_END_REPORT: the next report of a train's end is taken; after a flight's last one its completion add is made. Adds that could
not be made yet are tried again. -/
def execTrainEndReport (die : Nat) (s : State) : Host.Outcome State Fault Refusal :=
  if !s.up die then .next s
  else
    let s := reapGroups s
    match (s.die die).ends with
    | [] => .next (makeAdds s die)
    | fk :: rest =>
      let s := s.modDie die fun d => { d with ends := rest }
      let s := s.modFlight fk fun f => { f with left := f.left - 1 }
      .next (if (s.flight fk).left = 0 then finishFlight s die fk else makeAdds s die)

end Sys2Proof.Machine
end

