-- ==== Sys2Proof/Machine/Records.lean ====
section
/-! DEFINITION. The rings of a die kernel: fault-queue entries (R370, R371), trap records (R406, R408), exit records (R443, R444, R450),
and the commands that answer them (R409, R413, R424). -/

namespace Sys2Proof.Machine

set_option Elab.async false

/-- The die's kernel runs: the die is up, and its supervisor cores are not halted by a checkpoint (R424). -/
def kernelUp (s : State) (die : Nat) : Bool := s.up die && (s.die die).ckpt.isNone

/-- Change every thread, saved ones included. -/
def mapThreads (s : State) (f : Thread → Thread) : State :=
  { s with
    threads := s.threads.map fun (p : Nat × Thread) => (p.1, f p.2)
    saved := s.saved.map fun (p : Nat × List SavedGroup) =>
      (p.1, p.2.map fun (g : SavedGroup) => { g with threads := g.threads.map fun (q : Nat × Thread) => (q.1, f q.2) }) }

/-- A cause bit raised (R381). -/
def raise (s : State) (die k : Nat) : State := s.modDie die fun d => { d with cause := d.cause ||| BitVec.ofNat 5 (2 ^ k) }

/-! ### FAULT_QUEUE_ENTRY (R370, R371) -/

/-- The low 4 KiB page of an address. -/
def pageOf (va : Nat) : Nat := va / 4096

/-- Code of SRC. -/
def FaultSrc.code : FaultSrc → Nat
  | .thread => 0 | .streamer => 1 | .matrix => 2 | .dispatcher => 3 | .dma => 4

/-- Word 1 of an entry. -/
def faultWord (f : FaultWait) : Nat :=
  f.vas % 4096 + 2 ^ 12 * f.kind.code + 2 ^ 16 * f.src.code + 2 ^ 19 * f.wr.toNat + 2 ^ 20 * (f.core % 128) + 2 ^ 27 * f.slot + 2 ^ 36 * f.det

/-- DETAIL of the trap that reports the fault gets the entry's SEQ (R407). -/
def TrapInfo.seen (who seq : Nat) (t : TrapInfo) : TrapInfo :=
  if t.who = who then { t with detail := t.detail % 2 ^ 32 + 2 ^ 32 * (seq % 2 ^ 32), who := 0 } else t
def TrapRec.seen (who seq : Nat) (r : TrapRec) : TrapRec :=
  if r.who = who then { r with words := setNth r.words 4 ((r.words[4]?).getD 0 % 2 ^ 32 + 2 ^ 32 * (seq % 2 ^ 32)), who := 0 } else r
def noteSeq (s : State) (who seq : Nat) : State :=
  let s := mapThreads s fun t =>
    { t with cands := t.cands.map (·.seen who seq), deferred := t.deferred.map (·.seen who seq), owed := t.owed.map (·.seen who seq), park := t.park.map (·.seen who seq) }
  { s with dies := s.dies.map fun p => (p.1, { p.2 with traps := p.2.traps.map (·.seen who seq) }) }

/-- The code with which a failed fault ends a copy or descriptor: INVALID for MISS and ADDR. -/
def failCode (k : PageFault) : Nat := k.copyCode

/-- A flight faults for each contributor of a combine whose write fails. -/
def failCombine (s : State) (ids : List Nat) (code : Nat) : State :=
  let owed := s.dies.flatMap fun (p : Nat × Die) => p.2.combAdds.filter fun (a : CombAdd) => ids.contains a.id
  let s := { s with dies := s.dies.map fun (p : Nat × Die) => (p.1, { p.2 with combAdds := p.2.combAdds.filter fun (a : CombAdd) => !ids.contains a.id }) }
  owed.foldl (fun s a => faultFlight s (s.flightKey a.group) 1 code (s.train (s.group a.group).train).t) s

/-- A copy of a group that stands saved stops for good (R288). -/
def failSaved (code who : Nat) (s : State) (k : Nat) : State :=
  let t := s.train k
  let hits := (mgetD s.saved k []).flatMap fun g => g.queue.filter fun e => e.id = who && e.stat = .faulted
  let drop (g : SavedGroup) : SavedGroup :=
    let mine := g.queue.filter fun e => e.id = who && e.stat = .faulted
    let fill (rs : List Reel) (e : SEntry) : List Reel := if e.byCtr then rs else rs.map fun r => if r.hdr = e.sync % 2 ^ 18 then { r.fail e.slot code with ver := r.ver + 1 } else r
    { g with queue := g.queue.filter fun e => !mine.contains e, group := { g.group with reels := mine.foldl fill g.group.reels } }
  let s := if hits = [] then s else { s with saved := mmod s.saved k [] fun gs => gs.map drop }
  if hits.any (·.byCtr) then faultFlight s t.flight 1 code t.t else s

/-- Copies, matrix entries, launches, reads of the dispatcher and rings with a fault's number treat it as fatal; `seq` is its entry's. -/
def failAgents (s : State) (die seq : Nat) (w : FaultWait) : State :=
  let who := w.who
  let code := failCode w.kind
  let s := s.quads.foldl (fun s (p : Nat × Quad) =>
    let s := (p.2.queue.filter fun (e : SEntry) => e.id = who && e.stat = .faulted).foldl (fun s e => failCopy s p.1 e code) s
    (p.2.table.filter fun (e : MEntry) => e.id = who && e.stat = .waiting).foldl (fun s e =>
      stopEntry s p.1 e
        { kind := .page, sub := w.kind.code, va := w.va, detail := w.wr.toNat + 2 * w.det + 2 ^ 32 * (seq % 2 ^ 32), detail2 := e.arow + e.done }) s) s
  let s := (s.saved.map (·.1)).foldl (failSaved code who) s
  let s := s.reqs.foldl (fun s (r : Req) =>
    if r.id = who && r.phase = .held && r.kind = .launch then
      let f := s.flightOf r.tk
      (s.dropReq r.id).modDie r.die fun d =>
        { d with intake := d.intake ++ [{ vas := r.vas, addr := r.va, flight := f.number, prio := f.hdr.prio }] }
    else s) s
  let s := failCombine s ((s.dies.flatMap fun (p : Nat × Die) => p.2.combAdds.filter fun (a : CombAdd) => a.id = who && a.fault.isSome).map (·.id)) code
  s.modDie die fun d =>
    { d with
      queues := d.queues.map fun (q : Nat × Queue) => (q.1, if q.2.wait = who then { q.2 with wait := 0, fail := true } else q.2)
      intake := d.intake.map fun (x : Intake) => if x.wait = who then { x with wait := 0, fail := true } else x
      adds := d.adds.filter fun (a : DoneAdd) => a.seq ≠ who
      rings := d.rings.map fun (r : Nat × Ring) => (r.1, if r.2.wait = who then { r.2 with wait := 0, state := 1, code := code } else r.2) }

/-- Every requester with the number treats its fault as fatal (R409): a destination's write by a combining switch too. -/
def failWaiter (s : State) (die seq : Nat) (w : FaultWait) : State :=
  let s := failAgents s die seq w
  ((s.die die).combines.filter fun (e : Combine) => e.fault = w.who).foldl (fun s e =>
    failCombine (s.modDie die fun d => { d with combines := d.combines.filter fun x => x.fault ≠ w.who }) e.who (failCode w.kind)) s

/-- A fault stands in the queue: a requester other than a thread that waited only for its entry ends as R288 and R401 give for a fatal
kind. -/
def noteEntered (s : State) (die seq : Nat) (f : FaultWait) : State :=
  let s := noteSeq s f.who seq
  if f.src = .thread || f.kind = .miss || (f.kind = .addr && f.src = .streamer) then s else failAgents s die seq f

/-- Address of an entry by its running count. -/
def Die.fqAddr (d : Die) (count : Nat) : Nat := d.fqBase.toNat + 32 * (count % 2 ^ d.fqLog)

/-- The entry between head and tail that a fault merges into. -/
def Die.mergeEnt (d : Die) (f : FaultWait) : Option FaultEnt :=
  d.fents.find? fun e =>
    e.vas = f.vas && e.page = pageOf f.va && e.kind = f.kind && count32 e.count d.fqHead.toNat < count32 d.fqTail.toNat d.fqHead.toNat

/-- A fault is merged into an entry. -/
def mergeFault (s : State) (die : Nat) (f : FaultWait) (e : FaultEnt) : State :=
  let m := satAdd e.merge 1 16
  let s := s.modDie die fun d =>
    { d with fents := d.fents.map fun x => if x.seq = e.seq then { x with merge := m, waiters := x.waiters ++ [f] } else x }
  noteEntered (s.setRam die ((s.die die).fqAddr e.count + 0x10) 8 m) die e.seq f

/-- A fault gets a new entry. -/
def enterFault (s : State) (die : Nat) (f : FaultWait) : State :=
  let d := s.die die
  let seq := d.fseq + 1
  let a := d.fqAddr d.fqTail.toNat
  let s := s.modDie die fun d =>
    { d with
      fseq := seq, fqTail := d.fqTail + 1
      fents := d.fents ++ [{ seq := seq, count := d.fqTail.toNat, vas := f.vas, page := pageOf f.va, kind := f.kind, waiters := [f] }] }
  let s := (((s.setRam die a 8 (f.va % 2 ^ 57)).setRam die (a + 8) 8 (faultWord f)).setRam die (a + 0x10) 8 0).setRam die (a + 0x18) 8 seq
  noteEntered (raise s die 0) die seq f

/-- FAULT_QUEUE_ENTRY: the die's next fault is entered or merged; with FQLOG out of range or the queue full it waits. -/
def execFaultQueueEntry (die : Nat) (s : State) : Host.Outcome State Fault Refusal :=
  let d := s.die die
  match d.faults with
  | [] => .next s
  | f :: rest =>
    if !s.up die || d.fqLog < 4 || 16 < d.fqLog || 2 ^ d.fqLog ≤ count32 d.fqTail.toNat d.fqHead.toNat then .next s
    else
      let t := s.modDie die fun d => { d with faults := rest }
      match d.mergeEnt f with
      | some e => .next (mergeFault t die f e)
      | none => .next (enterFault t die f)

/-! ### TRAP_RECORD_WRITE (R408) -/

/-- TRLOG, when it is valid and the word's reserved bits are 0 (R7). -/
def trapLog (s : State) (die : Nat) : Option Nat :=
  let n := s.pool die 0 8
  if (s.die die).poolBase = 0 || n < 6 || 14 < n || !s.poolGood die then none else some n

/-- TRAP_RECORD_WRITE: the first record whose fault, if any, stands in the fault queue is written once a slot is free. -/
def execTrapRecordWrite (die : Nat) (s : State) : Host.Outcome State Fault Refusal :=
  let d := s.die die
  match trapLog s die, d.traps.find? fun r => r.who = 0 with
  | some n, some r =>
    let head := s.pool die 8 4
    let tail := s.pool die 0x10 4
    if !s.up die || 2 ^ n ≤ count32 tail head then .next s
    else
      let base := d.poolBase.toNat
      let a := base + 0x1000 + 64 * (tail % 2 ^ n)
      let seq := d.tseq + 1
      let s := s.modDie die fun d => { d with traps := d.traps.erase r, tseq := seq }
      let s := (r.words ++ [seq]).zipIdx.foldl (fun s p => s.setRam die (a + 8 * p.2) 8 p.1) s
      let s := s.setRam die (base + 0x10) 4 ((tail + 1) % 2 ^ 32)
      .next (match r.thread with
        | some id => mapThreads s fun t => if t.parkId = id && t.stat = .parked then { t with parkSeq := some seq } else t
        | none => s)
  | _, _ => .next s

/-! ### EXIT_RECORD_WRITE (R443, R444, R450) -/

/-- An access of the observation unit that is held, or refused as moved or resetting, is made later (R374, R375). -/
def Served.later : Served → Bool
  | .hold => true
  | .done .moved => true
  | .done .resetting => true
  | _ => false

/-- The hash-table entry of a group: written, or compared; the bits PATHMIS and STOREMIS (R450), none while the table's home makes it wait. -/
def checkHashes (s : State) (die key : Nat) (e : Session) (x : ExitRec) : Option Nat × State :=
  let a := bits (e.word 0xA0) 56 0 + 16 * x.g
  let path := (x.words[2]?).getD 0
  let store := (x.words[3]?).getD 0
  let bad (s : State) : Option Nat × State := (some 0, noteSession s key fun e => { e with stat := 2 })
  let writes : Bool := e.mode = 2 || (e.mode = 1 && x.pass = 1)
  if e.mode = 0 then (some 0, s)
  else if obsHolds s key none then (none, s)
  else if writes then
    match agentWriteHome s die e.vas a (leBytes 8 path ++ leBytes 8 store) none with
    | (.done (.performed _), s) => (some 0, s)
    | (r, t) => if r.later then (none, s) else bad t
  else
    match agentRead s die e.vas a 16 .read with
    | (.done (.performed bs), s) =>
      let pm : Bool := decide (fieldAt bs 0 8 ≠ path)
      let sm : Bool := decide (fieldAt bs 8 8 ≠ store)
      let s := if pm then noteSession s key (flagBit 1) else s
      let s := if sm then noteSession s key (flagBit 2) else s
      (some (pm.toNat + 2 * sm.toNat), s)
    | (r, t) => if r.later then (none, s) else bad t

/-- What an attached flight's exit adds: hashes, while the session runs; event totals, which are owed until the descriptor can take them
(R444). The bits for the record, none while the exit must wait. -/
def exitSession (s : State) (die : Nat) (x : ExitRec) : Option Nat × State :=
  match x.session with
  | none => (some 0, s)
  | some key =>
    match mget s.sessions key with
    | none => (some 0, s)
    | some e =>
      if !e.takes x.reg then (some 0, s)
      else
        match (if e.stat ≠ 1 then (some 0, s) else checkHashes s die key e x) with
        | (none, _) => (none, s)
        | (some b, s) =>
          (some b, { s with sessions := mmod s.sessions key {} fun e =>
            { e with events := (x.events.zipIdx.filter fun p => p.1 ≠ 0).foldl (fun m p => mmod m p.2 0 fun v => satAdd v p.1 64) e.events } })

/-- STALL15 of an exit record counts the cycles for which it has waited for the exit ring (R442). -/
def ExitRec.waited (x : ExitRec) (s : State) : List Nat :=
  let v := (x.words[15]?).getD 0
  setNth x.words 15 (v % 2 ^ 16 + 2 ^ 16 * satAdd (v / 2 ^ 16) ((s.core x.core).cycles - x.since) 48)

/-- EXIT_RECORD_WRITE: the next exit record is written, VALID last; an attached group's EXIT record is queued (R438). -/
def execExitRecordWrite (die : Nat) (s : State) : Host.Outcome State Fault Refusal :=
  let d := s.die die
  match d.exits with
  | [] => .next s
  | x :: rest =>
    let a := d.poolBase.toNat + 0x800 + 128 * (d.exitNext % 16)
    if !s.up die || d.poolBase = 0 || bitOf (s.ram die (a + 8) 8) 32 then .next s
    else
      match exitSession s die x with
      | (none, _) => .next s
      | (some mis, s) =>
        let w1 := (x.words[1]?).getD 0 + 2 ^ 36 * mis + 2 ^ 32
        let ws := setNth (x.waited s) 1 w1
        let s := s.modDie die fun d => { d with exits := rest, exitNext := d.exitNext + 1 }
        let s := ws.zipIdx.foldl (fun s p => s.setRam die (a + 8 * p.2) 8 p.1) s
        let m : Mark := { kind := 6, value := w1 / 2 ^ 32 }
        match x.session with
        | none => .next s
        | some key =>
          let e := mgetD s.sessions key {}
          if e.stat ≠ 1 || !e.takes x.reg then .next s
          else if (mget s.groups x.group).isSome then .next (pushTrace s x.group key {} m)
          else .next (holdTrace s die x.core key ((x.words[0]?).getD 0) m)

/-! ### The command ring (R409) -/

/-- A command: its OP, core, slot and SEQ. -/
structure Command where
  op : Nat := 0
  core : Nat := 0
  slot : Nat := 0
  seq : Nat := 0
  deriving DecidableEq, Repr

/-- The next command of a die, and its running count; one that breaks the layout has OP 0. -/
def nextCommand (s : State) (die : Nat) : Option Command :=
  let chead := s.pool die 0x14 4
  if !s.up die || (s.die die).poolBase = 0 || s.pool die 0x18 4 = chead || !s.poolGood die then none
  else
    let w0 := s.pool die (0x400 + 16 * (chead % 64)) 8
    let op := w0 % 256
    let bad : Bool := bits w0 15 8 ≠ 0 || w0 / 2 ^ 32 ≠ 0 || 7 < op || (6 ≤ op && bits w0 31 16 ≠ 0)
    some { op := if bad then 0 else op, core := bits w0 22 16, slot := bits w0 31 23, seq := s.pool die (0x408 + 16 * (chead % 64)) 8 }

/-- The command leaves the ring. -/
def dropCommand (s : State) (die : Nat) : State :=
  s.setRam die ((s.die die).poolBase.toNat + 0x14) 4 ((s.pool die 0x14 4 + 1) % 2 ^ 32)

/-- A command event: the next command, if it is of this OP, is taken and acts; one that is none is taken and does nothing. -/
def onCommand (die op : Nat) (f : Command → State → State) (s : State) : Host.Outcome State Fault Refusal :=
  match nextCommand s die with
  | none => .next s
  | some c => .next (if c.op = 0 then dropCommand s die else if c.op = op then f c (dropCommand s die) else s)

/-- The place of a saved leader's twin: the twins' waves stand behind the leaders' (R81). -/
def SavedGroup.twinPlace (g : SavedGroup) (i : Nat) : Nat := i + g.group.wslots.length / 2 * 64

/-- The saved thread of a group that a test finds, with its place. -/
def SavedGroup.find? (g : SavedGroup) (p : Thread → Bool) : Option (Nat × Thread) := g.threads.find? fun q => p q.2

/-- The saved groups of the trains of a die changed, each under its train. -/
def mapSaved (s : State) (die : Nat) (f : Nat → SavedGroup → SavedGroup) : State :=
  { s with saved := s.saved.map fun (p : Nat × List SavedGroup) => if (s.train p.1).die ≠ die then p else (p.1, p.2.map (f p.1)) }

/-- The parked thread that a record's SEQ, core and slot name. -/
def Thread.answers (t : Thread) (die : Nat) (c : Command) : Bool :=
  t.stat = .parked && t.parkSeq = some c.seq && t.parkKey = threadKey (coreKey die c.core) c.slot

/-- RESUME: the thread waits at the head RORD, its twin with it; a breakpoint by ordinal is not checked again there (R440). -/
def Thread.resume (t : Thread) : Thread :=
  { t with
    stat := .ret, was := some .wait, park := none, parkSeq := none, parkId := 0, next := t.resumeAt
    bend := (match t.bend with | .join n => .join n | _ => .go)
    skipBrk := t.park.any fun p => p.kind = .brk && !p.defer }

/-- A twin that parked with its leader goes on with it. -/
def resumeTwin (s : State) (tk : Nat) : State :=
  match s.twinOf tk with
  | some w => s.modThread w fun t => if t.stat = .parked then { t with stat := .ret, was := some .wait } else t
  | none => s

def execResume (die : Nat) (s : State) : Host.Outcome State Fault Refusal :=
  onCommand die 1 (fun c s =>
    match s.threads.find? fun p => dieOfThread p.1 = die && p.2.answers die c with
    -- After 8 conflict aborts its next attempt waits for the token (R330).
    | some (tk, _) => resumeTwin (queueToken (s.modThread tk fun t => { t.resume with first := s.nextId }) tk) tk
    | none =>
      -- A thread that is saved parked goes on once its train is admitted again (R311).
      mapSaved s die fun _ g =>
        match g.find? (·.answers die c) with
        | none => g
        | some (i, _) =>
          { g with threads := g.threads.map fun (q : Nat × Thread) =>
              (q.1, if q.1 = i then q.2.resume
                else if q.2.twin && q.1 = g.twinPlace i && q.2.stat = .parked then { q.2 with stat := .ret, was := some .wait } else q.2) }) s

/-- The thread goes to its EXIT (R345): what its block left is dropped. -/
def Thread.toExit (t : Thread) : Thread :=
  { t with
    stat := .ret, was := some .parked, park := none, parkSeq := none, parkId := 0, bend := .exit, jgen := none, cands := [], deferred := none, owed := []
    pend := []
    tx := [], doomed := false, wantToken := false, compared := t.blockNo, done := [] }

/-- KILL thread: it ends as though by EXIT, and its group's exit record marks it killed. -/
def execKillThread (die : Nat) (s : State) : Host.Outcome State Fault Refusal :=
  onCommand die 2 (fun c s =>
    match s.threads.find? fun p => dieOfThread p.1 = die && p.2.answers die c with
    | some (tk, _) =>
      let s := s.modGroup (s.groupKey tk) fun g =>
        { g with killed := true, ballast := g.ballast.filter fun b => !(b.thread = tk && b.held) }
      let s := s.modThread tk Thread.toExit
      match s.twinOf tk with
      | some w => (unplace s w).modThread w Thread.toExit
      | none => s
    | none =>
      mapSaved s die fun _ g =>
        match g.find? (·.answers die c) with
        | none => g
        | some (i, t) =>
          { g with
            group := { g.group with killed := true, ballast := g.group.ballast.filter fun b => !(b.held && b.thread = threadKey g.core ((g.group.wslots[i / 64]?).getD 0 * 64 + i % 64)) }
            threads := g.threads.map fun (q : Nat × Thread) =>
              (q.1, if q.1 = i || (!t.twin && q.2.twin && q.1 = g.twinPlace i) then q.2.toExit else q.2) }) s

/-- The group slot key of a thread slot of a core. -/
def groupAt (s : State) (ck slot : Nat) : Option Nat := (mget s.waves (ck * 8 + slot / 64)).map fun w => groupKeyOf ck w.gslot

/-- What a command names by its record's SEQ or by a slot: a group that is resident, or the train and the place of one that stands saved. -/
inductive Named
  | live (gk : Nat)
  | saved (train place : Nat)
  | none
  deriving DecidableEq, Repr

/-- The thread parked on the record with a SEQ, which a die wrote for a core. -/
def Thread.reported (t : Thread) (ck seq : Nat) : Bool := t.stat = .parked && t.parkSeq = some seq && coreOfThread t.parkKey = ck

/-- The group that a KILL group or FAULT flight names: that of the thread whose record it answers, wherever it stands now; else the one that
is resident at the slot. -/
def namedGroup (s : State) (die : Nat) (c : Command) : Named :=
  let ck := coreKey die c.core
  match s.threads.find? fun p => p.2.reported ck c.seq with
  | some (tk, _) => .live (s.groupKey tk)
  | Option.none =>
    match s.saved.findSome? fun p =>
        (p.2.findIdx? fun g => (g.find? (·.reported ck c.seq)).isSome).map fun i => (p.1, i) with
    | some (k, i) => .saved k i
    | Option.none =>
      match groupAt s ck c.slot with
      | some gk => .live gk
      | Option.none => .none

/-- A saved group is killed: its ballast is committed, as at the exit of its last thread (R416), its exit record waits, and of it there
stay only its pages, until its train ends (R47). -/
def killSaved (s : State) (k i : Nat) : State :=
  match (mgetD s.saved k [])[i]? with
  | none => s
  | some sg =>
    if sg.group.ended then s
    else
      let gk := groupKeyOf sg.core 65535
      let s := { flushBallast (s.setGroup gk sg.group) gk with groups := mdel (flushBallast (s.setGroup gk sg.group) gk).groups gk }
      let s := savedExit s k 1 1 { sg with group := { sg.group with killed := true } }
      let s := s.modDie (s.train k).die fun d => { d with combAdds := d.combAdds.filter fun a => a.group ≠ savedKey k sg.group.f2 }
      let rest : SavedGroup :=
        { core := sg.core, group := { train := k, f2 := sg.group.f2, pages := sg.group.pages, killed := true, opened := false, ended := true }, scratch := sg.scratch }
      { s with saved := mmod s.saved k [] fun gs => setNth gs i rest }

/-- KILL group. -/
def execKillGroup (die : Nat) (s : State) : Host.Outcome State Fault Refusal :=
  onCommand die 3 (fun c s =>
    match namedGroup s die c with
    | .live gk => killGroup s gk 1 true
    | .saved k i => killSaved s k i
    | .none => s) s

/-- FAULT flight (R413). -/
def execFaultFlight (die : Nat) (s : State) : Host.Outcome State Fault Refusal :=
  onCommand die 4 (fun c s =>
    match namedGroup s die c with
    | .live gk => faultFlight s (s.flightKey gk) 5 0 0
    | .saved k _ => faultFlight s (s.train k).flight 5 0 0
    | .none => s) s

/-! ### CHECKPOINT (R424) -/

/-- The peer area of a die at its partner: base, and the size B of one buffer; 0 where the partner has given none. -/
def peerBase (s : State) (die : Nat) : Nat :=
  let q := partnerOf die
  if (s.die q).poolBase = 0 || !s.poolGood q then 0 else s.pool q 0x30 8
def bufSize (d : Die) : Nat := ceilDiv d.sailSize 4096 * 4096

/-- STAMP and DONE of a buffer. -/
def bufMark (s : State) (die b : Nat) : Nat × Bool :=
  let w := s.ram (partnerOf die) (peerBase s die + 8 + 8 * b) 8
  (w % 2 ^ 32, bitOf w 32)
def setBufMark (s : State) (die b stamp : Nat) (done : Bool) : State :=
  s.setRam (partnerOf die) (peerBase s die + 8 + 8 * b) 8 (stamp % 2 ^ 32 + 2 ^ 32 * done.toNat)

/-- The buffer that a checkpoint overwrites: one whose DONE is 0, or the one with the smaller stamp. -/
def pickBuf (s : State) (die : Nat) : Nat :=
  let (s0, d0) := bufMark s die 0
  let (s1, d1) := bufMark s die 1
  if !d0 then 0 else if !d1 then 1 else if s0 ≤ s1 then 0 else 1

/-- CHECKPOINT: the supervisor cores halt, and the DONE bit of the buffer to be written is cleared. -/
def execCheckpoint (die : Nat) (s : State) : Host.Outcome State Fault Refusal :=
  if !kernelUp s die then .next s
  else
    onCommand die 5 (fun c s =>
      if c.seq ≠ 0 || peerBase s die = 0 then s
      else
        let b := pickBuf s die
        let s := setBufMark s die b (bufMark s die b).1 false
        s.modDie die fun d => { d with ckpt := some b }) s

/-- The values of the control registers that a checkpoint holds, and their restoration (R381, R401). -/
def ctrlImage (d : Die) : List Nat :=
  [d.fqBase.toNat, d.fqLog, d.fqHead.toNat, d.fqTail.toNat, d.bsBase.toNat, d.bsTail.toNat, d.bsHead.toNat, d.brBase.toNat, d.brHead.toNat,
   d.brTail.toNat, d.cause.toNat, d.kmbox.toNat, d.poolBase.toNat, d.poolSize.toNat, d.qdesc.toNat, d.qstat.toNat]

/-- CHECKPOINT_BUFFER_COMPLETE: the copy has ended; STAMP is the BRHEAD count, DONE is set last, and the cores resume. -/
def execCheckpointBufferComplete (die : Nat) (s : State) : Host.Outcome State Fault Refusal :=
  let d := s.die die
  match d.ckpt with
  | none => .next s
  | some b =>
    if !s.up die then .next s
    else
      let q := partnerOf die
      let dst := peerBase s die + 0x1000 + b * bufSize d
      let s := s.setRamBytes q dst (s.ramBytes die d.sailBase d.sailSize)
      let s := setBufMark s die b d.brHead.toNat true
      .next (s.modDie die fun d => { d with ckpt := none, images := mput d.images b (ctrlImage d), ringImages := mput d.ringImages b d.rings })

/-! ### RETRYFAULT and FAILFAULT (R409, R371) -/

/-- A streamer entry of the number goes on from its granule. -/
def SEntry.retry (who : Nat) (e : SEntry) : SEntry :=
  if e.id = who && e.stat = .faulted then
    { e with stat := if e.kind ≠ .combine && e.full then .written else .queued, fault := none }
  else e

/-- Every requester with the number tries its access again. -/
def retryWaiter (s : State) (who : Nat) : State :=
  { s with
    quads := s.quads.map fun (p : Nat × Quad) =>
      (p.1, { p.2 with
        queue := p.2.queue.map (SEntry.retry who)
        table := p.2.table.map fun (e : MEntry) => if e.id = who && e.stat = .waiting then { e with stat := .perform } else e })
    saved := s.saved.map fun (p : Nat × List SavedGroup) => (p.1, p.2.map fun (g : SavedGroup) => { g with queue := g.queue.map (SEntry.retry who) })
    reqs := s.reqs.map fun (r : Req) => if r.id = who && r.phase = .held && r.kind = .launch then { r with phase := .act } else r
    dies := s.dies.map fun (p : Nat × Die) =>
      (p.1, { p.2 with
        queues := p.2.queues.map fun (q : Nat × Queue) => (q.1, if q.2.wait = who then { q.2 with wait := 0 } else q.2)
        intake := p.2.intake.map fun (x : Intake) => if x.wait = who then { x with wait := 0 } else x
        adds := p.2.adds.map fun (a : DoneAdd) => if a.seq = who then { a with seq := 0 } else a
        combines := p.2.combines.map fun (e : Combine) => if e.fault = who then { e with fault := 0 } else e
        combAdds := p.2.combAdds.map fun (a : CombAdd) => if a.id = who then { a with fault := none } else a
        rings := p.2.rings.map fun (r : Nat × Ring) => (r.1, if r.2.wait = who then { r.2 with wait := 0, state := 0 } else r.2) }) }

/-- The entry that a command names, with its requesters other than threads; they leave its list. -/
def takeWaiters (s : State) (die seq : Nat) : List FaultWait × State :=
  match (s.die die).fents.find? fun e => e.seq = seq with
  | none => ([], s)
  | some e =>
    let own := e.waiters.filter fun w => w.src ≠ .thread
    (own, s.modDie die fun d =>
      { d with fents := d.fents.map fun x => if x.seq = seq then { x with waiters := x.waiters.filter fun w => w.src = .thread } else x })

/-- RETRYFAULT: afterwards completion adds that waited are tried again (R41). -/
def execRetryfault (die : Nat) (s : State) : Host.Outcome State Fault Refusal :=
  onCommand die 6 (fun c s =>
    let (ws, s) := takeWaiters s die c.seq
    makeAdds (ws.foldl (fun s w => retryWaiter s w.who) s) die) s

/-- FAILFAULT. -/
def execFailfault (die : Nat) (s : State) : Host.Outcome State Fault Refusal :=
  onCommand die 7 (fun c s =>
    let (ws, s) := takeWaiters s die c.seq
    ws.foldl (fun s w => failWaiter s die c.seq w) s) s

end Sys2Proof.Machine
end

