-- ==== Sys2Proof/Machine/Ports.lean ====
section
/-! DEFINITION. The ports of an I/O die: writes that arrive over PCI Express and Spar and the hold buffer (R302, R304, R378, R400,
R401), FetchAdds and reads of the host (R303, R304), Function Level Reset (R398), CXL (R402). -/

namespace Sys2Proof.Machine

set_option Elab.async false

/-! ### Writes at their homes -/

/-- What a write of a port comes to: performed; it must wait; refused as moved; refused with a fault; the home is lost to it in
another way. -/
inductive Put
  | done | wait | fault (k : PageFault) (det : Nat)
  deriving DecidableEq, Repr

/-- One piece within a line, made at the line's home (R302). -/
def putPiece (s : State) (die vas va : Nat) (data : List Byte) : Put × State :=
  match agentWriteHome s die vas va data none with
  | (.done (.performed _), s) => (.done, s)
  | (.done (.fault k det), s) => (.fault k det, s)
  | (.done (.data _ _), s) => (.done, s)
  | (_, s) => (.wait, s)

/-- Bytes from an address on, line by line; the first piece that is not performed ends it. -/
def putBytes (s : State) (die vas va : Nat) (data : List Byte) : Nat → Put × State
  | 0 => (.done, s)
  | fuel + 1 =>
    if data = [] then (.done, s)
    else
      let m := 128 - va % 128
      match putPiece s die vas va (data.take m) with
      | (.done, s) => putBytes s die vas (va + m) (data.drop m) fuel
      | r => r
def putAll (s : State) (die vas va : Nat) (data : List Byte) : Put × State := putBytes s die vas va data (data.length / 128 + 2)

/-- A check of a read at its home, of counters in a counter page (R278). -/
def readCheck (s : State) (die vas va : Nat) : Gate × Nat × State :=
  match agentCheck s die vas va .read with
  | (.no (.fault .ctrPage _), _, _) => agentCheck s die vas va .ctrRead
  | r => r

/-- Bytes read at their homes, line by line, past no cache; none while one must wait; or the address that meets a fault, or an
uncorrectable word. -/
def getBytes (s : State) (die vas : Nat) : Nat → Nat → Nat → (Option (List Byte) ⊕ (Option (PageFault × Nat) × Nat)) × State
  | 0, _, _ => (.inl (some []), s)
  | fuel + 1, va, n =>
    if n = 0 then (.inl (some []), s)
    else
      let m := min n (128 - va % 128)
      match readCheck s die vas va with
      | (.ok _ pa, h, s) =>
        match homeBytes s h pa m with
        | .performed bs =>
          match getBytes ((demandRead s h pa).setAD h vas va false) die vas fuel (va + m) (n - m) with
          | (.inl (some cs), s) => (.inl (some (bs ++ cs)), s)
          | r => r
        | _ => (.inr (none, va), demandRead s h pa)
      | (.no (.fault k det), _, s) => (.inr (some (k, det), va), s)
      | (_, _, s) => (.inl none, s)
def getAll (s : State) (die vas va n : Nat) : (Option (List Byte) ⊕ (Option (PageFault × Nat) × Nat)) × State := getBytes s die vas (n / 128 + 2) va n

/-! ### Discards (R304, R384) -/

/-- A posted write is discarded: the host is told of an Unsupported Request, and the I/O die's kernel gets a notice of cause 8. -/
def discardPosted (s : State) (die rid fn off reason : Nat) : State :=
  notify { s with host := s.host ++ [.aer rid] } die 8 (rid % 2 ^ 37 + 2 ^ 37 * (fn % 256)) off reason

/-! ### The answer of a Spar write (R401) -/

/-- The ring that sent a Spar write goes on with its descriptor: n more bytes moved, the stream's counter add made, or its code. -/
def sparAnswer (s : State) (p : SparPkt) (code : Option Nat) : State :=
  match p.src with
  | none => s
  | some (die, e) =>
    s.modDie die fun d =>
      { d with rings := mmod d.rings e {} fun r =>
          if r.state ≠ 3 then r
          else
            match code with
            | none => { r with state := if p.ctr.isSome then 1 else 0, done := r.done + p.data.length }
            | some c => { r with state := 1, code := c } }

/-- A fault of a Spar write, or of its stream's counter add, at its home: a MISS waits in the fault queue of the die that sent it; another ends
the descriptor, once the queue has an entry for it (R371). -/
def sparFault (s : State) (p : SparPkt) (k : PageFault) (det : Nat) : State :=
  match p.src with
  | none => s
  | some (die, e) =>
    let id := s.nextId
    let s := ({ s with nextId := id + 1 }).addFault die { va := p.va % 2 ^ 57, vas := p.svas, kind := k, src := .dma, wr := true, det := det, who := id }
    if s.faultWaits die k then s.modDie die fun d => { d with rings := mmod d.rings e {} fun r => { r with state := 2, wait := id } }
    else sparAnswer s p (some k.copyCode)

/-- A Spar write has been accepted: the stream's counter add, if it ends here, which releases the stream's writes at DOMAIN scope, and the answer;
none while the add must wait or be resent (R265, R400). -/
def sparDone (s : State) (die : Nat) (p : SparPkt) : Option State :=
  match p.ctr with
  | none => some (sparAnswer s p none)
  | some a =>
    match releaseWide s die with
    | (_, false) => none
    | (s, true) =>
      match agentCtrAdd s die p.vas a 1 with
      | (.done (.performed _), s) => some (sparAnswer s p none)
      | (.done (.fault k det), s) => some (sparFault s { p with va := a } k det)
      | (.done .moved, _) => none
      | (.done .resetting, _) => none
      | (.hold, _) => none
      | (.done _, s) => some (sparAnswer s p (some 6))

/-! ### The hold buffer (R378) -/

/-- A range that a shootdown of MODE 1 or 2 has opened on the die covers one of the bytes. -/
def migrating (s : State) (die vas va n : Nat) : Bool :=
  (s.die die).ranges.any fun r => r.vas = vas && r.mode ≠ 0 && r.start < va + n && va < r.start + r.npages * 4096

/-- A write must go behind the held ones of its partition. -/
def mustHold (s : State) (die vas va n : Nat) : Bool := migrating s die vas va n || (s.die die).hold.any fun h => h.vas = vas

/-- Bytes in the hold buffer, of 64 KiB. -/
def heldBytes (s : State) (die : Nat) : Nat := sumBy (fun h => h.data.length) (s.die die).hold
def holdRoom (s : State) (die n : Nat) : Bool := heldBytes s die + n ≤ 65536
def holdWrite (s : State) (die : Nat) (w : HeldWrite) : State := s.modDie die fun d => { d with hold := d.hold ++ [w] }

/-- A write at its home, and what a refusal does; what of it must wait: all of it, or a Spar stream's closing counter add. -/
def portWrite (s : State) (die : Nat) (w : HeldWrite) : Option HeldWrite × State :=
  match putAll s die w.vas w.va w.data with
  | (.wait, _) => (some w, s)
  | (.fault k det, s) => (none, match w.spar with | some p => sparFault s p k det | none => discardPosted s die w.rid w.fn w.off 2)
  | (.done, s) =>
    match w.spar with
    | none => (none, s)
    | some p =>
      match sparDone s die p with
      | some s => (none, s)
      | none => (some { w with data := [] }, s)

/-- The held writes go to the new home in arrival order, as far as they can; a partition's later ones wait behind its first that
cannot. -/
def drainHold (s : State) (die : Nat) : State :=
  if (s.die die).hold = [] then s else
  let (kept, s) := (s.die die).hold.foldl (fun (r : List HeldWrite × State) w =>
    let (kept, s) := r
    if kept.any (fun h => h.vas = w.vas) || migrating s die w.vas w.va w.data.length then (kept ++ [w], s)
    else
      let (left, s) := portWrite s die w
      (kept ++ left.toList, s)) ([], s)
  s.modDie die fun d => { d with hold := kept }

/-- A write that arrives: made at once, or held; none while the buffer has no room for it. -/
def arriveWrite (s : State) (die : Nat) (w : HeldWrite) : Option State :=
  let n := w.data.length
  if mustHold s die w.vas w.va n then (if holdRoom s die n then some (holdWrite s die w) else none)
  else
    match portWrite s die w with
    | (none, s) => some s
    | (some w, s) => if holdRoom s die w.data.length then some (holdWrite s die w) else none

/-! ### PCI Express (R301 to R304, R398) -/

/-- The landing window of a function that holds an access of n bytes at a BAR2 offset. -/
def windowAt (s : State) (die fn off n : Nat) : Option Window :=
  (s.die die).windows.find? fun w => w.fn = fn && w.bar ≤ off && off + n ≤ w.bar + w.len

/-- The I/O die's own replica says that a page is a counter page. -/
def isCounter (s : State) (die vas va : Nat) : Bool :=
  match s.leafAt die vas va with
  | .inr (l, _) => leafC l
  | .inl _ => false

/-- Completion of a request of the host with Unsupported Request. -/
def unsupported (s : State) (rid : Nat) : State := { s with host := s.host ++ [.unsupported rid] }

/-- A posted write of the requester waits in the hold buffer. -/
def heldFor (s : State) (die rid : Nat) : Bool := (s.die die).hold.any fun h => h.rid = rid && h.spar.isNone

/-- A fault of a FetchAdd or a read of the host at its home goes to the I/O die's fault queue (R370), and the host gets Unsupported Request. -/
def hostFault (s : State) (die rid vas va : Nat) (wr : Bool) (k : PageFault) (det : Nat) : State :=
  unsupported (s.addFault die { va := va % 2 ^ 57, vas := vas, kind := k, src := .dma, wr := wr, det := det }) rid

/-- A FetchAdd of 64 bits, behind the requester's held writes: it writes back under R253, adds at the counter's home and completes with the
old value; none while the I/O die holds it (R303). One that reaches outside every window, is not 8-aligned, or meets a fault or an uncorrectable
word at the counter's home completes with Unsupported Request (DESIGN CHOICE, log 124). -/
def hostAdd (s : State) (die rid fn off addend : Nat) : Option State :=
  match windowAt s die fn off 8 with
  | none => some (unsupported s rid)
  | some w =>
    let va := w.va + (off - w.bar)
    if !isCounter s die w.vas va || va % 8 ≠ 0 then some (unsupported s rid)
    else if heldFor s die rid then none
    else
      match releaseWide s die with
      | (_, false) => none
      | (s, true) =>
        match agentCtrAdd s die w.vas va (addend % 2 ^ 64) with
        | (.done (.performed old), s) => some { s with host := s.host ++ [.atomic rid (leValue old)] }
        | (.done .moved, _) => none
        | (.done .resetting, _) => none
        | (.hold, _) => none
        | (.done (.fault k det), s) => some (hostFault s die rid w.vas va true k det)
        | (.done _, s) => some (unsupported s rid)

/-- A read of a window, behind the requester's held writes; none while it must wait (R304). One that reaches outside every window, or meets a
fault or an uncorrectable word at the home, completes with Unsupported Request (DESIGN CHOICE, log 125). -/
def hostRead (s : State) (die rid fn off len : Nat) : Option State :=
  match windowAt s die fn off len with
  | none => some (unsupported s rid)
  | some w =>
    if heldFor s die rid then none
    else
      match getAll s die w.vas (w.va + (off - w.bar)) len with
      | (.inl (some bs), s) => some { s with host := s.host ++ [.data rid bs] }
      | (.inl none, _) => none
      | (.inr (some (k, det), va), s) => some (hostFault s die rid w.vas va false k det)
      | (.inr (none, _), s) => some (unsupported s rid)

/-- A posted write: into a window, in order; outside every window, or to a counter page, discarded (R302, R304). -/
def hostWrite (s : State) (die rid fn off : Nat) (data : List Byte) : Option State :=
  match windowAt s die fn off data.length with
  | none => some (discardPosted s die rid fn off 0)
  | some w =>
    let va := w.va + (off - w.bar)
    if isCounter s die w.vas va then some (discardPosted s die rid fn off 1)
    else arriveWrite s die { vas := w.vas, va := va, data := data, rid := rid, fn := fn, off := off }

/-- A request at the port is done; none while it must wait. -/
def portTry (s : State) (die : Nat) : HostReq → Option State
  | .posted rid fn off data => hostWrite s die rid fn off data
  | .add rid fn off addend => hostAdd s die rid fn off addend
  | .read rid fn off len => hostRead s die rid fn off len

/-- The request waits behind others at the port: a posted write has no credits while one waits (R378); a FetchAdd or a read goes behind what
its own requester sent earlier (R303, R304). -/
def HostReq.behind (q : HostReq) (kept : List HostReq) : Bool :=
  let rid (x : HostReq) : Nat := match x with | .posted r _ _ _ => r | .add r _ _ _ => r | .read r _ _ _ => r
  match q with
  | .posted _ _ _ _ => kept.any fun x => match x with | .posted _ _ _ _ => true | _ => false
  | q => kept.any fun x => rid x = rid q

/-- What waits at the port is tried again, oldest first. -/
def drainPort (s : State) (die : Nat) : State :=
  if (s.die die).port = [] then s
  else
    let (kept, s) := (s.die die).port.foldl (fun (r : List HostReq × State) q =>
      match (if q.behind r.1 then none else portTry r.2 die q) with
      | some s => (r.1, s)
      | none => (r.1 ++ [q], r.2)) ([], s)
    s.modDie die fun d => { d with port := kept }

/-- The hold buffer and the port go on as far as they can (R378). -/
def settlePort (s : State) (die : Nat) : State := drainPort (drainHold s die) die

/-- A request comes to the port: done at once, or kept there. -/
def enterPort (s : State) (die : Nat) (q : HostReq) : State :=
  match (if q.behind (s.die die).port then none else portTry s die q) with
  | some s => s
  | none => s.modDie die fun d => { d with port := d.port ++ [q] }

/-- PCIE_POSTED_WRITE: into a window, in order; outside every window, or to a counter page, discarded. While
the hold buffer has no room for it the port withholds its credits. Over a port in CXL mode these events are those of CXL.io (R17, R402). A request
of the host to a die that is hung or in warm reset vanishes (DESIGN CHOICE, log 126). -/
def execPciePostedWrite (die rid fn offset : Nat) (data : List Byte) (s : State) : Host.Outcome State Fault Refusal :=
  if !s.up die || !isIo die then .next s else .next (enterPort (settlePort s die) die (.posted rid fn offset data))

/-- PCIE_FETCHADD: done at once, or held by the I/O die until it can be. -/
def execPcieFetchadd (die rid fn offset addend : Nat) (s : State) : Host.Outcome State Fault Refusal :=
  if !s.up die || !isIo die then .next s else .next (enterPort (settlePort s die) die (.add rid fn offset addend))

/-- PCIE_UNSUPPORTED_ATOMICOP: a 32-bit FetchAdd, a Swap or a CAS performs nothing. Outside every window it gets no completion (DESIGN CHOICE, log
125). -/
def execPcieUnsupportedAtomicop (die rid fn offset : Nat) (s : State) : Host.Outcome State Fault Refusal :=
  if !s.up die || !isIo die || (windowAt s die fn offset 1).isNone then .next s else .next (unsupported s rid)

/-- PCIE_MEMORY_READ: data of a window, behind the same requester's earlier posted writes. -/
def execPcieMemoryRead (die rid fn offset len : Nat) (s : State) : Host.Outcome State Fault Refusal :=
  if !s.up die || !isIo die then .next s else .next (enterPort (settlePort s die) die (.read rid fn offset len))

/-- The VAS of a virtual function: function f stands for partition slot f - 1 of the I/O die (R398). -/
def functionVas (s : State) (die fn : Nat) : Option Nat :=
  if fn = 0 then none
  else
    match mget (s.die die).slots (fn - 1) with
    | some p => if p.en then some p.vas else none
    | none => none

/-- A descriptor under way between the host and memory is aborted; the spec gives no code for it (log 23). -/
def abortRing (s : State) (die e : Nat) : State :=
  let (n, s) := s.fresh
  s.modDie die fun d => { d with rings := mmod d.rings e {} fun r => { r with state := 1, wait := 0, code := (Config.freeByte n).toNat % 8 } }

/-- The KIND of the descriptor that a ring is at (R401); 0 for an idle ring. -/
def ringKind (s : State) (die e : Nat) : Nat :=
  match mget (s.die die).rings e with
  | none => 0
  | some r =>
    if r.head = r.tail || r.log < 4 || 12 < r.log then 0
    else s.ram die (r.base.toNat + 64 * (r.head.toNat % 2 ^ r.log)) 1 % 8

/-- The rings whose descriptor moves host data are aborted, for the partitions that pass a test. -/
def abortHost (s : State) (die : Nat) (p : Nat → Bool) : State :=
  ((s.die die).rings.filter fun r => p r.2.vas && (ringKind s die r.1 = 2 || ringKind s die r.1 = 3)).foldl (fun s r => abortRing s die r.1) s

/-- FUNCTION_LEVEL_RESET of function f: its windows are unregistered and its DMA aborted. -/
def execFunctionLevelReset (die fn : Nat) (s : State) : Host.Outcome State Fault Refusal :=
  if !s.up die || !isIo die then .next s
  else
    let s := abortHost s die fun v => functionVas s die fn = some v
    .next (s.modDie die fun d => { d with windows := d.windows.filter fun w => w.fn ≠ fn })

/-! ### Spar (R400, R401) -/

/-- A transfer from another domain needs an entry of the admit table; modules of a domain are numbered div 64 (log 24). -/
def sparAdmitted (s : State) (die : Nat) (p : SparPkt) : Bool :=
  if p.smod < 64 then p.svas = p.vas
  else
    (s.die die).admits.any fun a =>
      let v := a.2.toNat
      bitOf v 63 && bits v 11 0 = p.vas && bits v 21 12 = p.smod && bits v 33 22 = p.svas

/-- A Spar write that has arrived: refused with PERM, or made or held; none while the hold buffer has no room for it. -/
def takeSpar (s : State) (die : Nat) (p : SparPkt) : Option State :=
  let pop (s : State) : State := s.modDie die fun d => { d with spar := d.spar.erase p }
  if !sparAdmitted s die p then some (sparAnswer (pop s) p (some PageFault.perm.copyCode))
  else (arriveWrite (settlePort s die) die { vas := p.vas, va := p.va, data := p.data, spar := some p }).map pop

/-- SPAR_WRITE: the next Spar write at its destination I/O die; one that must wait stops only its own partition's (R378). A lost die answers
LOST. -/
def execSparWrite (die : Nat) (s : State) : Host.Outcome State Fault Refusal :=
  if (s.die die).life = .lost then
    match (s.die die).spar with
    | [] => .next s
    | p :: rest => .next (sparAnswer (s.modDie die fun d => { d with spar := rest }) p (some PageFault.lost.copyCode))
  else if !s.up die || !isIo die then .next s
  else .next (((oldestEach (·.vas) (s.die die).spar).findSome? (takeSpar s die)).getD s)

/-! ### CXL (R402) -/

/-- CXL_MEM_REQUEST: 64 bytes of the frames that the keel has given to the host, read or written. -/
def execCxlMemRequest (die addr : Nat) (write : Option (List Byte)) (s : State) : Host.Outcome State Fault Refusal :=
  let d := s.die die
  if !s.up die || !isIo die || !d.cxl then .next s
  else if addr % 64 ≠ 0 || d.hdmSize < addr + 64 then .next (unsupported s 0)
  else
    let pa := d.hdmBase + addr
    match write with
    | some bs => .next (s.setRamBytes die pa (bs.take 64))
    | none =>
      match homeBytes s die pa 64 with
      | .performed bs => .next { s with host := s.host ++ [.data 0 bs] }
      | _ => .next { s with host := s.host ++ [.aer 0] }

/-- PORT_MODE_CHANGE: a change resets the port, aborts its DMA and unregisters its windows; requests that wait at the port are gone. -/
def execPortModeChange (die : Nat) (cxl : Bool) (s : State) : Host.Outcome State Fault Refusal :=
  if !isIo die || (s.die die).cxl = cxl then .next s
  else .next ((abortHost s die fun _ => true).modDie die fun d => { d with cxl := cxl, windows := [], port := [] })

end Sys2Proof.Machine
end

