-- ==== Sys2Proof/Machine/Bridle.lean ====
section
/-! DEFINITION. Links (R23) and the bridle: sending and receiving (R383 to R387, R423), the sequencer (R386), MAP (R372), shootdowns
(R373 to R377), notices (R384). -/

namespace Sys2Proof.Machine

set_option Elab.async false

/-! ### Links (R21, R23) -/

/-- LINK_CRC_ERROR: the receiver asks for a resend. The spec names the link log and gives it no content: the model keeps one count, of CRC
errors and of replays that fail (DESIGN CHOICE, log 122). -/
def execLinkCrcError (link : Nat) (s : State) : Host.Outcome State Fault Refusal :=
  let l := s.link link
  if !linked (linkSrc link) (linkDst link) || l.retired || l.crc then .next s
  else .next (setLink s link { l with crc := true, log := l.log + 1 })

/-- A link is retired in both directions: neither carries flits any more. -/
def retireLink (s : State) (link : Nat) : State :=
  [link, linkNo (linkDst link) (linkSrc link)].foldl (fun s n => setLink s n { s.link n with crc := false, retired := true }) s

/-- LINK_REPLAY: the sender replays the flit; after 16 replays in a row that fail, the link is retired and the die kernels of both
ends are told (cause 1), by the number of the direction that failed (log 113). -/
def execLinkReplay (link : Nat) (good : Bool) (s : State) : Host.Outcome State Fault Refusal :=
  let l := s.link link
  if l.retired || !l.crc then .next s
  else if good then .next (setLink s link { l with crc := false, replays := 0, seq := l.seq + 1 })
  else if l.replays < 15 then .next (setLink s link { l with replays := l.replays + 1, log := l.log + 1 })
  else
    let s := retireLink (setLink s link { l with replays := 16, log := l.log + 1 }) link
    .next (notify (notify s (linkSrc link) 1 link 0 0) (linkDst link) 1 link 0 0)

/-! ### Messages (R373, R383) -/

def Msg.type (m : Msg) : Nat := bits m.w0 7 0
def Msg.mode (m : Msg) : Nat := bits m.w0 9 8
def Msg.vas (m : Msg) : Nat := bits m.w0 27 16
def Msg.src (m : Msg) : Nat := bits m.w0 38 28
def Msg.dst (m : Msg) : Nat := bits m.w0 49 39
def Msg.mc (m : Msg) : Bool := bitOf m.w0 50
def Msg.start (m : Msg) : Nat := bits m.w1 56 0
def Msg.npages (m : Msg) : Nat := bits m.w2 31 0
def Msg.sdid (m : Msg) : Nat := m.w3
def Msg.initiator (m : Msg) : Nat := bits m.w3 63 53
def Msg.level (m : Msg) : Nat := bits m.w6 1 0
def Msg.pfnInc (m : Msg) : Bool := bitOf m.w6 2
def Msg.bytes (m : Msg) : List Byte := [m.w0, m.w1, m.w2, m.w3, m.w4, m.w5, m.w6, m.w7].flatMap (leBytes 8)
def Msg.ofBytes (bs : List Byte) : Msg :=
  let w (i : Nat) : Nat := leValue ((bs.drop (8 * i)).take 8)
  { w0 := w 0, w1 := w 1, w2 := w 2, w3 := w 3, w4 := w 4, w5 := w 5, w6 := w 6, w7 := w 7 }

/-- The layout that R383 and R373 ask of a message that a die kernel sends. -/
def Msg.wellFormed (m : Msg) : Bool :=
  let t := m.type
  bits m.w0 15 10 = 0 && bits m.w0 63 51 = 0 &&
    (if t < 16 then m.mode = 0 && (!m.mc || m.dst = 0)
     else if t < 20 then
       !m.mc && (if t = 0x11 || t = 0x13 then m.mode ≤ 2 else m.mode = 0) && (if t = 0x12 then m.dst = m.initiator else m.dst = 0)
         && m.w1 % 4096 = 0 && m.w1 < 2 ^ 57 && 0 < m.w2 && m.w2 < 2 ^ 32 && (t = 0x10 || t = 0x13 || m.w5 = 0)
         && m.level ≤ 2 && m.w6 < 8 && m.w7 = 0
     else false)

/-- MAP, REVOKE, COMMIT and KMSG with MC go through the sequencer. -/
def Msg.ordered (m : Msg) : Bool := m.mc || m.type = 0x10 || m.type = 0x11 || m.type = 0x13

/-- A message on its way from a die to a die's receive ring, in the BRIDLE class (R385). -/
def post (s : State) (src die : Nat) (m : Msg) : State := sendPacket s src die m.vas .bridle (.msg m)

/-- The message of a die kernel enters its send ring (R385); none when the ring is full. -/
def placeMsg (s : State) (die : Nat) (m : Msg) : Option State :=
  let d := s.die die
  if count32 d.bsTail.toNat d.bsHead.toNat = 256 then none
  else
    some ((s.setRamBytes die (d.bsBase.toNat + 64 * (d.bsTail.toNat % 256)) m.bytes).modDie die fun d =>
      { d with bsTail := d.bsTail + 1 })

/-- The initiator's record of a shootdown whose REVOKE is sent: every member has still to acknowledge (R374). -/
def openShoot (s : State) (die : Nat) (m : Msg) : State :=
  let ms := s.members m.vas
  s.modDie die fun d =>
    if d.shoots.any fun x => x.sdid = m.sdid then
      { d with shoots := d.shoots.map fun x => if x.sdid = m.sdid then { x with waiting := ms } else x }
    else
      { d with shoots := d.shoots ++ [{ sdid := m.sdid, vas := m.vas, start := m.start, npages := m.npages, mode := m.mode, waiting := ms }] }

/-- The initiator notes what it sends: a REVOKE opens its record, a COMMIT ends it. -/
def noteSent (s : State) (die : Nat) (m : Msg) : State :=
  if m.type = 0x11 then openShoot s die m
  else if m.type = 0x13 then
    s.modDie die fun d => { d with shoots := d.shoots.map fun x => if x.sdid = m.sdid then { x with committed := true } else x }
  else s

/-- A message that the device takes from a send ring goes to its destination or its sequencer, or is discarded with a notice of
cause 7, whose word 2 holds word 0 of the message with SRCDIE already replaced (DESIGN CHOICE, log 123). A KMSG of VAS 0 for a die number that names no die leaves the send ring and reaches no one (DESIGN CHOICE, log 104). -/
def routeMsg (s : State) (die : Nat) (m : Msg) : State :=
  let m := { m with w0 := m.w0 / 2 ^ 39 * 2 ^ 39 + 2 ^ 28 * die + m.w0 % 2 ^ 28 }
  let bad : State := notify s die 7 m.w0 0 0
  if !m.wellFormed then bad
  else
    match (s.die die).slotOf m.vas with
    | none => if m.vas = 0 && !m.ordered && m.type < 16 then post s die m.dst m else bad
    | some (_, p) =>
      if m.ordered then sendPacket (noteSent s die m) die p.seq m.vas .bridle (.toSeq m)
      else if (s.members m.vas).contains m.dst then post s die m.dst m
      else bad

/-- BRIDLE_SEND: the next message of the send ring. -/
def execBridleSend (die : Nat) (s : State) : Host.Outcome State Fault Refusal :=
  let d := s.die die
  if !s.up die || d.bsHead = d.bsTail then .next s
  else
    let m := Msg.ofBytes (s.ramBytes die (d.bsBase.toNat + 64 * (d.bsHead.toNat % 256)) 64)
    .next (routeMsg (raise (s.modDie die fun d => { d with bsHead := d.bsHead + 1 }) die 2) die m)

/-! ### Receiving (R385, R423) -/

/-- The partner's log takes in a message of arrival count n (R423): the partner's memory stands while its logic hangs or resets (R425). -/
def logMsg (s : State) (die n : Nat) (m : Msg) : State :=
  let q := partnerOf die
  let base := peerBase s die
  if base = 0 || (s.die q).life = .lost || (s.die q).life = .out then s
  else
    let s := s.setRamBytes q (base + 0x1000 + 2 * bufSize (s.die die) + 64 * (n % 65536)) m.bytes
    s.setRam q base 4 ((n + 1) % 2 ^ 32)

/-- The ACK of the sequencer on a die on behalf of a member (R374). -/
def proxyAck (s : State) (die : Nat) (m : Msg) (member : Nat) : State :=
  post s die m.initiator
    { w0 := 0x12 + 2 ^ 16 * m.vas + 2 ^ 28 * member + 2 ^ 39 * m.initiator, w1 := m.w1, w2 := m.w2, w3 := m.w3, w4 := m.w4, w6 := 8 }

/-- A partition that the die serves, or served when it was lost. -/
def Die.names (d : Die) (vas : Nat) : Bool := d.slots.any fun p => p.2.vas = vas && (p.2.en || d.life = .lost)

/-- What the device takes note of in a notice that it writes: a lost die (R470), or one that has joined again. -/
def seeNotice (s : State) (die : Nat) (m : Msg) : State :=
  let cause := m.w1 % 256
  let s := if cause = 6 then s.modDie die fun d => { d with gone := d.gone ++ [m.w2] } else s
  if cause = 4 then s.modDie die fun d => { d with gone := d.gone.filter fun x => x ≠ m.w2 } else s

/-- The sequencer on a die, which lives in the router domain (R425), answers for a member that a notice tells it to be in warm reset or lost
(R374). -/
def seqNotice (s : State) (die : Nat) (m : Msg) : State :=
  let cause := m.w1 % 256
  if m.type ≠ 0x20 || (cause ≠ 5 && cause ≠ 6) then s
  else ((s.die die).seqOpen.filter fun r => (s.die m.w2).names r.vas).foldl (fun s r => proxyAck s die r m.w2) s

/-- A message is written into the receive ring; a REVOKE goes to the device, the others to the die kernel. -/
def receiveMsg (s : State) (die : Nat) (m : Msg) : State :=
  let d := s.die die
  let n := d.brTail.toNat
  let s := s.setRamBytes die (d.brBase.toNat + 64 * (n % 1024)) m.bytes
  let s := logMsg s die n m
  let s := raise (s.modDie die fun d => { d with brTail := d.brTail + 1 }) die 1
  if m.type = 0x20 then seqNotice (seeNotice s die m) die m
  else if m.type = 0x11 then s.modDie die fun d => { d with revokes := d.revokes ++ [m] }
  else s.modDie die fun d => { d with todo := d.todo ++ [m] }

/-- A message reaches a die: into its ring if it has room; of a die in warm reset, into the log alone; of a lost die, into the log, and
an ACK to the partner's die kernel, which carries its shootdowns on (R376). None while it must wait. -/
def arriveMsg (s : State) (die : Nat) (m : Msg) : Option State :=
  let d := s.die die
  match d.life with
  | .up => if count32 d.brTail.toNat d.brHead.toNat = 1024 then none else some (receiveMsg s die m)
  | .resetting => some (seqNotice (logMsg s die (s.ram (partnerOf die) (peerBase s die) 4) m) die m)
  | .lost =>
    let s := seqNotice (logMsg s die (s.ram (partnerOf die) (peerBase s die) 4) m) die m
    some (if m.type = 0x12 then s.modDie (partnerOf die) fun d => { d with todo := d.todo ++ [m] } else s)
  | _ => none

/-- BRIDLE_RECEIVE. -/
def execBridleReceive (die : Nat) (s : State) : Host.Outcome State Fault Refusal :=
  match (s.die die).inbox with
  | [] => .next s
  | m :: rest => .next ((arriveMsg (s.modDie die fun d => { d with inbox := rest }) die m).getD s)

/-- NOTICE: the device's next notice to the die's own kernel. -/
def execNotice (die : Nat) (s : State) : Host.Outcome State Fault Refusal :=
  match (s.die die).notes with
  | [] => .next s
  | m :: rest => .next ((arriveMsg (s.modDie die fun d => { d with notes := rest }) die m).getD s)

/-- SEQUENCER_MULTICAST: the sequencer, which lives in the router domain (R425), stamps ORDER and delivers to every member; for a REVOKE
it answers for members in warm reset or lost (R374). -/
def execSequencerMulticast (die : Nat) (s : State) : Host.Outcome State Fault Refusal :=
  match (s.die die).seqIn with
  | [] => .next s
  | m :: rest =>
    if (s.die die).life = .out then .next s
    else
      let order := mgetD (s.die die).seqNo m.vas 0 + 1
      let m := if m.type < 16 then m else { m with w4 := order % 2 ^ 64 }
      let s := s.modDie die fun d =>
        { d with
          seqIn := rest
          seqNo := mput d.seqNo m.vas order
          seqOpen :=
            if m.type = 0x11 then d.seqOpen ++ [m] else if m.type = 0x13 then d.seqOpen.filter fun x => x.sdid ≠ m.sdid else d.seqOpen }
      let s := (s.members m.vas).foldl (fun s d => post s die d m) s
      if m.type ≠ 0x11 then .next s
      else
        .next ((s.dies.filter fun p => p.2.names m.vas && (p.2.life = .resetting || p.2.life = .lost)).foldl (fun s p => proxyAck s die m p.1) s)

/-! ### Leaves that the die kernel writes (R357, R358, R372, R374) -/

/-- A new table of the replica, in the sail region, of 512 entries (log 25). -/
def newTable (s : State) (die : Nat) (entries : Nat → Nat) : Nat × State :=
  let (n, s) := s.fresh
  let d := s.die die
  let frame := d.sailBase / 4096 + Config.tableFrame n % max 1 (d.sailSize / 4096)
  (frame, s.setRamBytes die (frame * 4096) ((List.range 512).flatMap fun i => leBytes 8 (entries i)))

/-- A piece of a leaf that is split keeps F where another range is still open over it (R374). -/
def pieceOf (frozen : Nat → Nat → Bool) (e va size : Nat) : Nat := if frozen va size then e else clrBit e 7

/-- A leaf at a level is written from the table at `frame` of level `l` down. A table that is missing is made; a larger leaf is split
into leaves of the next level, which have F clear unless `frozen` says otherwise of their address and size. -/
def setLeafFrom (frozen : Nat → Nat → Bool) (die va level leaf : Nat) : Nat → Nat → State → State
  | 0, frame, s => s.setRam die (frame * 4096 + 8 * (va / 4096 % 512)) 8 leaf
  | l + 1, frame, s =>
    let entry := frame * 4096 + 8 * (va / 2 ^ (12 + 9 * (l + 1)) % 512)
    let e := s.ram die entry 8
    if l + 1 ≤ level then s.setRam die entry 8 leaf
    else if leafV e && isPointer (l + 1) e then setLeafFrom frozen die va level leaf l (bits e 51 12) s
    else if !leafV e && !leafV leaf then s
    else
      let step := 2 ^ (28 + 9 * l)
      let size := levelSize l
      let base := va / (512 * size) * (512 * size)
      let (f, s) := newTable s die fun i => if leafV e then pieceOf frozen (e + i * step) (base + i * size) size else 0
      setLeafFrom frozen die va level leaf l f (s.setRam die entry 8 (1 + f * 4096))

/-- A range other than that of a shootdown is open on the die over some of the bytes. -/
def State.openElse (s : State) (die vas sdid va n : Nat) : Bool :=
  (s.die die).ranges.any fun r => r.sdid ≠ sdid && r.vas = vas && r.start < va + n && va < r.start + r.npages * 4096

/-- A leaf of the replica of a partition, written for a message with an SDID. -/
def setLeaf (s : State) (die vas sdid va level leaf : Nat) : State :=
  match (s.die die).slotOf vas with
  | none => s
  | some (_, p) => setLeafFrom (s.openElse die vas sdid) die va level leaf 4 p.root s

/-- NEWLEAF, with F clear, and its followers over the message's range. -/
def applyLeaves (s : State) (die : Nat) (m : Msg) : State :=
  let size := levelSize m.level
  let leaf := clrBit m.w5 7
  let step := if m.pfnInc && leafV leaf then 2 ^ 28 * (size / 4096) else 0
  (List.range (ceilDiv (m.npages * 4096) size)).foldl (fun s i => setLeaf s die m.vas m.sdid (m.start + i * size) m.level (leaf + i * step)) s

/-- F is set in the replica's leaves of a range (R374). -/
def freezeLeaves (s : State) (die vas start npages : Nat) : State :=
  (List.range npages).foldl (fun s i =>
    match s.walkRoot die vas (start + 4096 * i) with
    | some (.leaf _ l entry _) => s.setRam die entry 8 (setBit l 7)
    | _ => s) s

/-! ### Answers to SYSCALL (R347, R388) -/

/-- A waiting SYSCALL gets its value. -/
def answerSyscall (s : State) (req value : Nat) : State :=
  match s.req? req with
  | some r => deliver s r (leBytes 4 value)
  | none => s

/-- A record of the initiator for a service leaves; after the last for its SYSCALL the service returns 0 (R388). -/
def endService (s : State) (die sdid : Nat) : State :=
  match (s.die die).shoots.find? fun x => x.sdid = sdid with
  | none => s
  | some x =>
    let s := s.modDie die fun d => { d with shoots := d.shoots.filter fun y => y.sdid ≠ sdid }
    if x.req = 0 || (s.die die).shoots.any fun y => y.req = x.req then s else answerSyscall s x.req 0

/-! ### What the die kernel does with messages -/

/-- The next message for the die kernel of a given type, if its supervisor cores run; what it does with it. -/
def onMsg (die : Nat) (p : Nat → Bool) (f : Msg → State → State) (s : State) : Host.Outcome State Fault Refusal :=
  match (s.die die).todo with
  | [] => .next s
  | m :: rest => if kernelUp s die && p m.type then .next (f m (s.modDie die fun d => { d with todo := rest })) else .next s

/-- KMSG: its payload is the die kernels' own (R384). -/
def execKmsg (die : Nat) (s : State) : Host.Outcome State Fault Refusal := onMsg die (· < 16) (fun _ s => s) s

/-- MAP: the leaves become valid in this die's replica (R372); on the die whose SYSCALL asked for it the service may return. -/
def execMap (die : Nat) (s : State) : Host.Outcome State Fault Refusal :=
  onMsg die (· = 0x10) (fun m s =>
    let s := applyLeaves s die m
    if m.initiator = die then endService s die m.sdid else s) s

/-! ### REVOKE (R374) -/

/-- The pages of a cached range overlap the range of a message. -/
def Msg.meets (m : Msg) (a n : Nat) : Bool := m.start < a + n && a < m.start + m.npages * 4096
def Msg.has (m : Msg) (vas va : Nat) : Bool := m.vas = vas && m.start ≤ va && va < m.start + m.npages * 4096

/-- Cached translations, pins and L1 copies of the range go. -/
def invalidate (s : State) (die : Nat) (m : Msg) : State :=
  let keep (t : Tlb) : Bool := !(t.vas = m.vas && m.meets t.page t.size)
  let s := { s with cores := s.cores.map fun (c : Nat × Core) => if dieOfCore c.1 = die then (c.1, { c.2 with hlb := c.2.hlb.filter keep }) else c }
  let s := s.modDie die fun d =>
    { d with
      tlb := d.tlb.filter keep
      walks := d.walks.filter fun w => !(w.1 = m.vas && m.meets (w.2.2.1 * 2 ^ (12 + 9 * (w.2.1 + 1))) (2 ^ (12 + 9 * (w.2.1 + 1))))
      pins := d.pins.filter fun p => !m.has (p.1 / 2 ^ 57) (p.1 % 2 ^ 57) }
  dropL1 s die fun k => m.has (k / 2 ^ 57) (k % 2 ^ 57)

/-- A request that has not been sent because an earlier access of its thread comes first is walked again (R374). -/
def rewalk (s : State) (die : Nat) (m : Msg) : State :=
  { s with reqs := s.reqs.map fun (r : Req) =>
      if r.die = die && m.has r.vas r.va && r.phase = .sent && (!mayGo s r || s.sendBlocked r r.home) then { r with phase := .walk } else r }

/-- The watched lines of the range that are homed here wake their watchers (R327, R334). -/
def wakeRange (s : State) (die : Nat) (m : Msg) : State :=
  ((s.die die).dir.filter fun p => m.has (p.1 / 2 ^ 57) (p.1 % 2 ^ 57) && !p.2.watches.isEmpty).foldl
    (fun s p => lineChanged s die m.vas (p.1 % 2 ^ 57)) s

/-- An attempt of a thread of the die whose read or write set has a line of the range is doomed, and one that sleeps on such a line wakes, whatever
has become of the line's home (R327, R332, R376). -/
def doomTx (s : State) (die : Nat) (m : Msg) : State :=
  let hit (tk : Nat) (l : Level) : Bool :=
    (l.writes.any fun w => m.has (s.vasOf tk) w.1) || l.reads.any fun e => (match e with | .line a _ => m.has (s.vasOf tk) a | _ => false)
  (s.threads.filter fun p => dieOfThread p.1 = die && !p.2.twin && p.2.tx.any (hit p.1)).foldl
    (fun s p => if p.2.stat = .asleep then wakeThread s p.1 else doom s p.1 2) s

/-- The device opens a range. -/
def openRange (s : State) (die : Nat) (m : Msg) : State :=
  let s := rewalk (invalidate s die m) die m
  let s := doomTx (wakeRange s die m) die m
  let s := if kernelUp s die then freezeLeaves s die m.vas m.start m.npages else s
  s.modDie die fun d =>
    { d with ranges := d.ranges ++
        [{ vas := m.vas, start := m.start, npages := m.npages, mode := m.mode, sdid := m.sdid, order := m.w4, upTo := s.nextId }] }

/-- Requests of the die that used an entry of the range, those on their walk among them (R376), and are neither accepted, refused nor confirmed
held. -/
def inFlight (s : State) (die : Nat) (r : Range) : Bool :=
  s.reqs.any fun q =>
    q.die = die && q.id < r.upTo && r.covers q.vas q.va && mayGo s q && !s.sendBlocked q q.home
      && (match q.phase with | .walk => q.kind.isGlobal | .sent => true | .widening _ => true | .back _ _ => true | _ => false)

/-- The ACK of an open range: once its non-home copies are written back and dropped, and nothing is in flight. Dirty bytes whose home is lost
wait in the L2 for the new home (R470, R484). -/
def ackRange (s : State) (die : Nat) (r : Range) : State :=
  let stays (p : Nat × L2Line) : Bool := p.2.dirty ≠ 0 && (s.die (homeOf p.2.leaf (p.1 % 2 ^ 57))).life = .lost
  let keys := ((s.die die).l2.filter fun p => r.covers (p.1 / 2 ^ 57) (p.1 % 2 ^ 57) && !stays p).map (·.1)
  match dropLines s die keys with
  | (s, false) => s
  | (s, true) =>
    if inFlight s die r then s
    else
      let i := r.sdid / 2 ^ 53
      let s := post s die i
        { w0 := 0x12 + 2 ^ 16 * r.vas + 2 ^ 28 * die + 2 ^ 39 * i, w1 := r.start, w2 := r.npages, w3 := r.sdid, w4 := r.order }
      s.modDie die fun d => { d with ranges := d.ranges.map fun x => if x.sdid = r.sdid then { x with acked := true } else x }

/-- REVOKE: the device handles the next REVOKE in ORDER, unless 16 ranges are open; each open range is acknowledged when its conditions
hold. -/
def execRevoke (die : Nat) (s : State) : Host.Outcome State Fault Refusal :=
  if !s.up die then .next s
  else
    let s :=
      match (s.die die).revokes with
      | [] => s
      | m :: rest =>
        if 16 ≤ (s.die die).ranges.length then s else openRange (s.modDie die fun d => { d with revokes := rest }) die m
    .next (((s.die die).ranges.filter fun r => !r.acked).foldl (fun s r => ackRange s die r) s)

/-! ### ACK and COMMIT (R374 to R378) -/

/-- ACK: the initiator records it; after the last, the die kernel of a service sends its COMMIT. A second ACK and one for a committed
shootdown are ignored. -/
def execAck (die : Nat) (s : State) : Host.Outcome State Fault Refusal :=
  let go (s : State) (m : Msg) : Option State :=
    match (s.die die).shoots.find? fun x => x.sdid = m.sdid && !x.committed with
    | none => some s
    | some x =>
      let left := x.waiting.filter fun d => d ≠ m.src
      let put (s : State) (done : Bool) : State :=
        s.modDie die fun d =>
          { d with shoots := d.shoots.map fun y => if y.sdid = x.sdid then { y with waiting := left, committed := done } else y }
      if left ≠ [] || x.req = 0 then some (put s false)
      else
        (placeMsg s die
          { w0 := 0x13 + 2 ^ 8 * x.mode + 2 ^ 16 * x.vas, w1 := x.start, w2 := x.npages, w3 := x.sdid }).map fun s => put s true
  match (s.die die).todo with
  | [] => .next s
  | m :: rest =>
    if kernelUp s die && m.type = 0x12 then .next ((go (s.modDie die fun d => { d with todo := rest }) m).getD s) else .next s

/-- The held requests of a closed range are checked against the new leaf: refused as moved where this die is no longer their home,
else they go on (R374). -/
def recheckHeld (s : State) (die : Nat) (m : Msg) : State :=
  (s.reqs.filter fun r =>
    r.phase = .held && r.kind.isGlobal && r.home = die && m.has r.vas r.va && (s.openAt die r.vas r.va).isNone).foldl (fun s r =>
      match s.walkRoot die r.vas r.va with
      | some (.leaf _ l _ _) => if homeOf l r.va = die then s.setReq { r with phase := .sent } else answerTo s { r with mvd := m.sdid } .moved false
      | _ => s.setReq { r with phase := .sent }) s

/-- Requests of the die in a closed range that have not been sent are walked again (R470). -/
def rewalkClosed (s : State) (die : Nat) (m : Msg) : State :=
  { s with reqs := s.reqs.map fun (r : Req) =>
      if r.die = die && m.has r.vas r.va && r.phase = .sent && (s.openAt die r.vas r.va).isNone && !mayGo s r then { r with phase := .walk } else r }

/-- Lines of a closed range that the die still holds, since their home was lost, get the home of the new leaf and are written back there; where
there is no leaf their bytes are lost (R470, R484). -/
def rehomeLines (s : State) (die : Nat) (m : Msg) : State :=
  ((s.die die).l2.filter fun p => m.has (p.1 / 2 ^ 57) (p.1 % 2 ^ 57)).foldl (fun s p =>
    match s.walkRoot die m.vas (p.1 % 2 ^ 57) with
    | some (.leaf level l _ _) =>
      (dropLine (s.modDie die fun d => { d with l2 := mput d.l2 p.1 { p.2 with leaf := l, size := levelSize level, right := false } }) die p.1).1
    | _ => dropL1 (s.modDie die fun d => { d with l2 := mdel d.l2 p.1 }) die fun k => k = p.1) s

/-- COMMIT: the die kernel writes the new leaves; the device closes the range, checks held requests again, and an I/O die writes its held
writes. On the initiator the service may return. -/
def execCommit (die : Nat) (s : State) : Host.Outcome State Fault Refusal :=
  onMsg die (· = 0x13) (fun m s =>
    let s := applyLeaves s die m
    let s := s.modDie die fun d =>
      { d with
        ranges := d.ranges.filter fun r => r.sdid ≠ m.sdid
        l2home := d.l2home.filter fun k => !m.has (k / 2 ^ 57) (k % 2 ^ 57)
        revokes := d.revokes.filter fun x => x.sdid ≠ m.sdid
        applied := m.sdid :: d.applied }
    let s := rehomeLines (dropL1 s die fun k => m.has (k / 2 ^ 57) (k % 2 ^ 57)) die m
    let s := rewalkClosed (recheckHeld s die m) die m
    let s := if isIo die then settlePort s die else s
    if (s.die die).shoots.any fun x => x.sdid = m.sdid then endService s die m.sdid else s) s

end Sys2Proof.Machine
end

