-- ==== Sys2Proof/Machine/Flags.lean ====
section
/-! DEFINITION. Condition results: the machine has no flags register; a comparison writes 1 or 0 to its destination
(R167, R178), FCLASS a class mask (R179). -/

namespace Sys2Proof.Machine

set_option Elab.async false

/-- 1 when the relation holds, else 0 (R167). -/
def flag (p : Bool) : Word := if p then 1 else 0

/-- R167. -/
def fIset (r : Int → Int → Bool) (a b : Word) : Word := flag (r a.toInt b.toInt)
def fUset (r : Nat → Nat → Bool) (a b : Word) : Word := flag (r a.toNat b.toNat)

/-- The relations of R178 on values; +0 and -0 are equal. -/
def fsetLt (x y : FVal) : Bool := x.lt false y
def fsetEq (x y : FVal) : Bool := !x.isNan && !y.isNan && !x.lt false y && !y.lt false x
def fFset (r : FVal → FVal → Bool) (ftz : Bool) (a b : Word) : Word :=
  flag (r (fp32.val ftz a.toNat) (fp32.val ftz b.toNat))
def fsetNe (x y : FVal) : Bool := !fsetEq x y
def fsetLe (x y : FVal) : Bool := fsetLt x y || fsetEq x y
def fsetGt (x y : FVal) : Bool := fsetLt y x
def fsetGe (x y : FVal) : Bool := fsetLe y x
def fsetUn (x y : FVal) : Bool := x.isNan || y.isNan

/-- R179. -/
def fFclass (a : Word) : Word :=
  let neg := a.getLsbD 31
  let ex := bits a.toNat 30 23
  let fr := bits a.toNat 22 0
  let k := if ex = 255 then (if fr = 0 then (if neg then 0 else 7) else if a.getLsbD 22 then 9 else 8)
    else if ex = 0 then (if fr = 0 then (if neg then 3 else 4) else if neg then 2 else 5)
    else if neg then 1 else 6
  w32 (2 ^ k)

end Sys2Proof.Machine
end

