-- ==== Sys2Proof/Machine/CrossLane.lean ====
section
/-! DEFINITION. The cross-lane family XLANE and QNT (R190, R192 to R196): they execute in a wave bundle only and read
only its active lanes. -/

namespace Sys2Proof.Machine

set_option Elab.async false

/-- An active lane: its number in the wave and its thread, as it stands after the earlier words of the block. -/
abbrev Lane := Nat × Thread

/-- The active lanes of the bundle (R192), in ascending order. -/
def State.activeLanes (s : State) (k : Nat) : List Lane := (s.active k).map fun t => (laneOf t, s.thread t)

/-- A cross-lane word: outside a wave bundle an illegal-convergence trap for every thread; inside, each lane gets the
result that `f` computes from the active lanes and itself (R192). R192 traps every thread of the bundle and R104 says that a word
switched off by PBLK does not trap: DESIGN CHOICE, R192 is followed, so a thread that PBLK switches off traps too (log 111). -/
def crossLane (d : Dst) (n : Nat) (f : Nat → List Lane → Lane → List Word) (k : Nat) (s : State) : State :=
  if !(s.bundle k).waveBundle then trapAll s k { kind := .converge }
  else
    let ls := s.activeLanes k
    let w := (match s.lanes k with | t :: _ => s.waveWidth t | [] => 64)
    s.mapLanes k fun tk t => t.emit d n fun _ => f w ls (laneOf tk, t)

/-- The a of lane j when it is active, below the wave width; else the reading lane's own a (R193). -/
def fromLane (a : Opnd) (w : Nat) (ls : List Lane) (me : Lane) (j : Nat) : List Word :=
  if w ≤ j then [me.2.src a]
  else
    match ls.find? fun l => l.1 = j with
    | some l => [l.2.src a]
    | none => [me.2.src a]

/-- SHFL_IDX: the source lane is b (R193). -/
def execShflIdx (s : Bool) (d : Dst) (a : Opnd) (b : Opnd) (st : State) : Host.Outcome State Fault Refusal :=
  runWord (.shflIdx s d a b) (crossLane d 1 fun w ls me => fromLane a w ls me (me.2.src b).toNat) st

/-- SHFL_UP: the source lane is the own lane less b; out of range when b exceeds it (R193). -/
def execShflUp (s : Bool) (d : Dst) (a : Opnd) (b : Opnd) (st : State) : Host.Outcome State Fault Refusal :=
  runWord (.shflUp s d a b)
    (crossLane d 1 fun w ls me => fromLane a w ls me (if me.1 < (me.2.src b).toNat then w else me.1 - (me.2.src b).toNat)) st

/-- SHFL_DOWN: the source lane is the own lane plus b, without wrapping (R193). -/
def execShflDown (s : Bool) (d : Dst) (a : Opnd) (b : Opnd) (st : State) : Host.Outcome State Fault Refusal :=
  runWord (.shflDown s d a b) (crossLane d 1 fun w ls me => fromLane a w ls me (me.1 + (me.2.src b).toNat)) st

/-- SHFL_XOR: the source lane is the own lane exclusive-or b (R193). -/
def execShflXor (s : Bool) (d : Dst) (a : Opnd) (b : Opnd) (st : State) : Host.Outcome State Fault Refusal :=
  runWord (.shflXor s d a b)
    (crossLane d 1 fun w ls me => fromLane a w ls me (BitVec.ofNat 32 me.1 ^^^ me.2.src b).toNat) st

/-- VOTE_ALL (R194). -/
def execVoteAll (s : Bool) (d : Dst) (a : Opnd) (st : State) : Host.Outcome State Fault Refusal :=
  runWord (.voteAll s d a) (crossLane d 1 fun _ ls _ => [flag (ls.all fun l => l.2.src a ≠ 0)]) st

/-- VOTE_ANY (R194). -/
def execVoteAny (s : Bool) (d : Dst) (a : Opnd) (st : State) : Host.Outcome State Fault Refusal :=
  runWord (.voteAny s d a) (crossLane d 1 fun _ ls _ => [flag (ls.any fun l => l.2.src a ≠ 0)]) st

/-- The 64-bit mask of the lanes that pass (R194, R195). -/
def laneMask (ls : List Lane) (p : Lane → Bool) : Dword := BitVec.ofNat 64 (sumBy (fun l => 2 ^ l.1) (ls.filter p))

/-- VOTE_BALLOT: the mask of active lanes whose a is not zero, in a pair (R194). -/
def execVoteBallot (s : Bool) (d : Dst) (a : Opnd) (st : State) : Host.Outcome State Fault Refusal :=
  runWord (.voteBallot s d a) (crossLane d 2 fun _ ls _ => pairWords (laneMask ls fun l => l.2.src a ≠ 0)) st

/-- WRED_IADD: the sum modulo 2^32 (R195). -/
def execWredIadd (s : Bool) (d : Dst) (a : Opnd) (st : State) : Host.Outcome State Fault Refusal :=
  runWord (.wredIadd s d a) (crossLane d 1 fun _ ls _ => [ls.foldl (fun v l => v + l.2.src a) 0]) st

/-- WRED_IMAX: the largest signed value (R195). -/
def execWredImax (s : Bool) (d : Dst) (a : Opnd) (st : State) : Host.Outcome State Fault Refusal :=
  runWord (.wredImax s d a)
    (crossLane d 1 fun _ ls me =>
      [match ls with | [] => me.2.src a | l :: r => r.foldl (fun v m => fImax v (m.2.src a)) (l.2.src a)]) st

/-- WRED_FADD: the ordered FP32 sum, RNE, the first term not added to anything (R196). -/
def execWredFadd (s : Bool) (d : Dst) (a : Opnd) (st : State) : Host.Outcome State Fault Refusal :=
  runWord (.wredFadd s d a)
    (crossLane d 1 fun _ ls me =>
      [match ls with
       | [] => me.2.src a
       | l :: r => r.foldl (fun v m => w32 (fp32.add {} v.toNat (m.2.src a).toNat)) (l.2.src a)]) st

/-- WSCAN_IADD: the sum over the active lanes below, modulo 2^32 (R195). -/
def execWscanIadd (s : Bool) (d : Dst) (a : Opnd) (st : State) : Host.Outcome State Fault Refusal :=
  runWord (.wscanIadd s d a)
    (crossLane d 1 fun _ ls me => [(ls.filter fun l => l.1 < me.1).foldl (fun v l => v + l.2.src a) 0]) st

/-- WMATCH: the mask of active lanes whose a equals the own lane's (R195). -/
def execWmatch (s : Bool) (d : Dst) (a : Opnd) (st : State) : Host.Outcome State Fault Refusal :=
  runWord (.wmatch s d a) (crossLane d 2 fun _ ls me => pairWords (laneMask ls fun l => l.2.src a = me.2.src a)) st

/-! ### QNT (R190) -/

/-- The magnitude of a finite FP32 code as m · 2^e with e at least -149, and its sign; none for NaN and infinity. -/
def fp32Mag (a : Word) : Option (Bool × Nat × Int) :=
  match fp32.val false a.toNat with
  | .num neg m e => some (neg, m, e)
  | _ => none

/-- The larger of two magnitudes. -/
def magMax (x y : Nat × Int) : Nat × Int :=
  let lo := min x.2 y.2
  if x.1 * 2 ^ (x.2 - lo).toNat < y.1 * 2 ^ (y.2 - lo).toNat then y else x

/-- The largest magnitude of element format 0, 1, 2. -/
def qntMax (fmt : Nat) : Nat := if fmt = 0 then 127 else if fmt = 1 then 31 else 7

/-- The half of a lane, and the active lanes of a half. -/
def halfOf (ls : List Lane) (lane : Nat) : List Lane := ls.filter fun l => l.1 / 32 = lane / 32

/-- The control word of a half: b of its lowest active lane. -/
def qntCtl (b : Opnd) (half : List Lane) : Word :=
  match half with
  | [] => 0
  | l :: _ => l.2.src b

/-- The pair that a lane of a half gets: its element and the half's scale. `seed` and `idx` are R144's. -/
def qntLane (a b : Opnd) (seed idx : Nat) (half : List Lane) (me : Lane) : List Word :=
  let ctl := (qntCtl b half).toNat
  let q := qntMax (ctl % 4)
  let mags := half.map fun l => fp32Mag (l.2.src a)
  if mags.contains none then [0, 0x1FE]
  else
    let amax := (mags.filterMap id).foldl (fun v x => magMax v x.2) (0, 0)
    if amax.1 = 0 then [0, 0]
    else
      let sc := qntScale amax.1 amax.2 q
      match fp32Mag (me.2.src a) with
      | none => [0, 0x1FE]
      | some (neg, m, e) => [BitVec.ofInt 32 (qntElem (bitOf ctl 2) seed idx q sc neg m e), w32 sc]

/-- QNT's work on a wave bundle: a half whose control word selects format 3 traps (ILLEGAL SUB 9). -/
def qntBody (d : Dst) (a b : Opnd) (k : Nat) (s : State) : State :=
  if !(s.bundle k).waveBundle then trapAll s k { kind := .converge }
  else
    let ls := s.activeLanes k
    let bad (lane : Nat) : Bool := bits (qntCtl b (halfOf ls lane)).toNat 1 0 = 3
    let s := s.forLanes ((s.active k).filter fun t => bad (laneOf t)) fun s t => trapThread s t { kind := .illegal, sub := 9 }
    s.mapLanes k fun tk t =>
      t.emit d 2 fun _ =>
        qntLane a b ((s.flightOf tk).hdr.seed % 2 ^ 32) (s.wid tk % 2 ^ 32) (halfOf ls (laneOf tk)) (laneOf tk, t)

/-- QNT: a block-scaled quantisation of each half of the wave (R190). -/
def execQnt (s : Bool) (d : Dst) (a : Opnd) (b : Opnd) (st : State) : Host.Outcome State Fault Refusal :=
  runWord (.qnt s d a b) (qntBody d a b) st

end Sys2Proof.Machine
end

