-- ==== Sys2Proof/Machine/Kernel.lean ====
section
/-! DEFINITION. What a die kernel does to its die: writes of control registers (R381, R401), queue commands (R382), and the services of
SYSCALL (R347, R388, R389, R399). -/

namespace Sys2Proof.Machine

set_option Elab.async false

/-! ### Control registers (R381, R401) -/

/-- A write of a control register by a running die kernel. -/
def onReg (die : Nat) (f : Die → Die) (s : State) : Host.Outcome State Fault Refusal :=
  .next (if kernelUp s die then s.modDie die f else s)

/-- FQHEAD: entries consumed. -/
def execFqhead (die value : Nat) (s : State) : Host.Outcome State Fault Refusal :=
  onReg die (fun d => { d with fqHead := BitVec.ofNat 32 value }) s

/-- BSTAIL: messages placed. -/
def execBstail (die value : Nat) (s : State) : Host.Outcome State Fault Refusal :=
  onReg die (fun d => { d with bsTail := BitVec.ofNat 32 value }) s

/-- BRHEAD: messages consumed. -/
def execBrhead (die value : Nat) (s : State) : Host.Outcome State Fault Refusal :=
  onReg die (fun d => { d with brHead := BitVec.ofNat 32 value }) s

/-- CAUSE: a 1 clears its bit. -/
def execCause (die value : Nat) (s : State) : Host.Outcome State Fault Refusal :=
  onReg die (fun d => { d with cause := d.cause &&& ~~~ (BitVec.ofNat 5 value) }) s

/-- Copy rings of a die: 16 on an I/O die, one on a compute die. -/
def ringCount (die : Nat) : Nat := if isIo die then 16 else 1

/-- The registers of a copy ring. -/
def writeRing (r : Ring) (o value : Nat) : Ring :=
  if o = 0x00 then { r with base := BitVec.ofNat 64 value }
  else if o = 0x08 then { r with log := value % 16, vas := value / 2 ^ 16 % 2 ^ 12 }
  else r

/-- The registers without behaviour of their own, by offset; others ignore the write. -/
def writeReg (die off value : Nat) (d : Die) : Die :=
  let v64 : Dword := BitVec.ofNat 64 value
  if off = 0x000 then { d with fqBase := v64 }
  else if off = 0x008 then { d with fqLog := value % 32 }
  else if off = 0x020 then { d with bsBase := v64 }
  else if off = 0x038 then { d with brBase := v64 }
  else if off = 0x060 then { d with poolBase := v64 }
  else if off = 0x068 then { d with poolSize := BitVec.ofNat 32 value }
  else if off = 0x070 then { d with qdesc := v64 }
  else if 0x100 ≤ off && off < 0x100 + 0x20 * ringCount die then
    { d with rings := mmod d.rings ((off - 0x100) / 0x20) {} fun r => writeRing r ((off - 0x100) % 0x20) value }
  else if isIo die && 0x400 ≤ off && off < 0x600 && off % 8 = 0 then
    { d with admits := mput d.admits ((off - 0x400) / 8) (BitVec.ofNat 64 (value % 2 ^ 34 + bits value 63 63 * 2 ^ 63)) }
  else d

/-- A mailbox buffer of a die kernel: 256 bytes of the die's sail region, aligned to 256 (R393). -/
def Die.mailBuf (d : Die) (a : Nat) : Bool := a % 256 = 0 && d.sailBase ≤ a && a + 256 ≤ d.sailBase + d.sailSize

/-- KMBOX: a write sends the request; a second one while the first is unanswered is answered BUSY, with no effect (R393). An address that is no
mailbox buffer's sends nothing (DESIGN CHOICE, log 127). -/
def sendMail (s : State) (die value : Nat) : State :=
  let d := s.die die
  if !d.mailBuf value then (if d.mail then s else s.modDie die fun d => { d with kmbox := BitVec.ofNat 64 value })
  else if d.mail then
    let tag := s.ram die (value + 4) 4
    raise (s.setRamBytes die (value + 0x80) (leBytes 8 (3 + 2 ^ 32 * tag) ++ List.replicate 120 0)) die 3
  else s.modDie die fun d => { d with kmbox := BitVec.ofNat 64 value, mail := true }

/-- CONTROL_REGISTER_WRITE. -/
def execControlRegisterWrite (die offset value : Nat) (s : State) : Host.Outcome State Fault Refusal :=
  if !kernelUp s die then .next s
  else if offset = 0x058 then .next (sendMail s die (value % 2 ^ 64))
  else .next (s.modDie die (writeReg die offset value))

/-- CRTAIL: descriptors placed. -/
def execCrtail (die ring value : Nat) (s : State) : Host.Outcome State Fault Refusal :=
  if ring < ringCount die then
    onReg die (fun d => { d with rings := mmod d.rings ring {} fun r => { r with tail := BitVec.ofNat 32 value } }) s
  else .next s

/-! ### Queue commands (R36, R382) -/

/-- The SW fields of a descriptor keep the limits of R36. -/
def descOk (ws : List Nat) : Bool :=
  let w (i : Nat) : Nat := (ws[i]?).getD 0
  w 0 % 128 = 0 && w 1 % 32 ≤ 16 && bits (w 1) 7 5 = 0 && w 1 < 2 ^ 11 && w 6 = 0 && w 7 = 0

/-- The queue that a descriptor describes. -/
def queueOf (s : State) (die desc vas : Nat) (ws : List Nat) : Queue :=
  let w (i : Nat) : Nat := (ws[i]?).getD 0
  { desc := desc, vas := vas, hbase := w 0, lslots := w 1 % 32, pceil := bits (w 1) 10 8, bell := w 2, taken := w 3
    stat := w 4 % 4, lastref := bits (w 4) 15 8, refused := w 5, order := (s.die die).regSeq }

/-- The descriptor at an address can be read: it lies in the die's memory, in a frame of no partition or of the one that the supervisor cores carry
(R379), and its line is good (DEDUCED, log 71). -/
def descReadable (s : State) (die desc : Nat) : Bool :=
  let code := mgetD s.bad (badKey die desc) 0
  let vas := mgetD s.tags (tagKey die desc) 0 / 16
  desc + 64 ≤ (s.die die).memSize && (vas = 0 || vas = (s.die die).svas) && (code = 0 || 4 ≤ code)

/-- REGISTER: the result for QSTAT, and the state. -/
def registerQueue (s : State) (die desc index vas : Nat) : Nat × State :=
  let ws := (List.range 8).map fun i => s.ram die (desc + 8 * i) 8
  if desc % 64 ≠ 0 || !descReadable s die desc then (5, if desc % 64 = 0 then demandRead s die desc else s)
  else if !descOk ws then (2, s)
  else if (mget (s.die die).queues index).isSome then (1, s)
  else if ((s.die die).slotOf vas).isNone then (3, s)
  else
    let q := queueOf s die desc vas ws
    (0, (setQueue s die index q).modDie die fun d => { d with regSeq := d.regSeq + 1 })

/-- A write of QCTL with a given OP; QSTAT then holds the result. -/
def onQctl (die qctl op : Nat) (f : Nat → State → Nat × State) (s : State) : Host.Outcome State Fault Refusal :=
  if !kernelUp s die || bits qctl 10 8 ≠ op then .next s
  else
    let (r, s) := f (qctl % 64) s
    .next (s.modDie die fun d => { d with qstat := BitVec.ofNat 8 r })

/-- A registered queue changed, or 4. -/
def onQueue (die : Nat) (f : Nat → Queue → State → State) (index : Nat) (s : State) : Nat × State :=
  match s.queue? die index with
  | none => (4, s)
  | some q => (0, f index q s)

/-- QUEUE_REGISTER. -/
def execQueueRegister (die qctl : Nat) (s : State) : Host.Outcome State Fault Refusal :=
  onQctl die qctl 1 (fun i s => registerQueue s die (s.die die).qdesc.toNat i (bits qctl 27 16)) s

/-- QUEUE_HALT. -/
def execQueueHalt (die qctl : Nat) (s : State) : Host.Outcome State Fault Refusal :=
  onQctl die qctl 2 (onQueue die fun i q s => noteQueue s die i { q with stat := 2 }) s

/-- QUEUE_RUN: from STATE 1 or 2. -/
def execQueueRun (die qctl : Nat) (s : State) : Host.Outcome State Fault Refusal :=
  onQctl die qctl 3 (onQueue die fun i q s => if q.stat = 0 then s else noteQueue s die i { q with stat := 0, lastref := 0 }) s

/-- QUEUE_UNREGISTER. -/
def execQueueUnregister (die qctl : Nat) (s : State) : Host.Outcome State Fault Refusal :=
  onQctl die qctl 4 (onQueue die fun i _ s => s.modDie die fun d => { d with queues := mdel d.queues i }) s

/-! ### SYSCALL (R347, R388) -/

def errNoserv : Nat := 0xFFFFFFFF
def errArg : Nat := 0xFFFFFFFE
def errNomem : Nat := 0xFFFFFFFD
def errPerm : Nat := 0xFFFFFFFC
def errBusy : Nat := 0xFFFFFFFB

/-- Service number and argument of a SYSCALL. -/
def Req.service (r : Req) : Nat := ((r.lanes.headD {}).data.headD 0).toNat
def Req.arg (r : Req) : Nat := (((r.lanes.headD {}).data.drop 1).headD 0).toNat

/-- A SYSCALL that has been sent and that the die kernel has not yet taken up. -/
def State.asked (s : State) (req : Nat) : Option Req :=
  match s.req? req with
  | some r => if r.kind = .syscall && r.phase = .act && kernelUp s r.die && mayGo s r then some r else none
  | none => none

/-- The die kernel serves a waiting SYSCALL of a service. -/
def onService (req a : Nat) (f : Req → State → State) (s : State) : Host.Outcome State Fault Refusal :=
  match s.asked req with
  | some r => .next (if r.service = a then f r s else s)
  | none => .next s

/-- The argument area of n bytes that b names, read through the die-view OPM; none if b is no own-group address inside the group's
scratch, or is not 4-aligned (DESIGN CHOICE, log 128). -/
def areaOf (s : State) (r : Req) (n : Nat) : Option (List Byte) :=
  let gk := s.groupKey r.tk
  if bits r.arg 24 18 ≠ 0x7F || (scratchTrap s gk r.arg n 4).isSome then none else some (s.readScratch gk r.arg n)

/-- A service with an argument area: its words of 8 bytes. -/
def withArea (n : Nat) (f : List Nat → Req → State → State) (r : Req) (s : State) : State :=
  match areaOf s r n with
  | none => answerSyscall s r.id errArg
  | some bs => f ((List.range (n / 8)).map fun i => fieldAt bs (8 * i) 8) r s

/-- SYSCALL_ECHO. -/
def execSyscallEcho (req : Nat) (s : State) : Host.Outcome State Fault Refusal :=
  onService req 0 (fun r s => answerSyscall s r.id r.arg) s

/-- The die kernel's choice among n things; the spec leaves it open (log 26). -/
def anyOf (s : State) (n : Nat) : Nat × State := let (k, s) := s.fresh; (Config.tableFrame k % max 1 n, s)

/-- The descriptor that the die kernel makes of an image: the fields that the device writes stand at their reset values (R6, R36). -/
def newDesc (ws : List Nat) : List Nat := [3, 4, 5].foldl (fun ws i => setNth ws i 0) ws

/-- SYSCALL_QREG: the image goes to the sail region and is registered under a free index. -/
def execSyscallQreg (req : Nat) (s : State) : Host.Outcome State Fault Refusal :=
  onService req 1 (withArea 64 fun ws r s =>
    let free := (List.range 64).filter fun i => (mget (s.die r.die).queues i).isNone
    if !descOk ws then answerSyscall s r.id errArg
    else if free = [] then answerSyscall s r.id errBusy
    else
      let (i, s) := anyOf s free.length
      let (k, s) := anyOf s ((s.die r.die).sailSize / 64)
      let desc := (s.die r.die).sailBase + 64 * k
      let index := (free[i]?).getD 0
      let s := s.setRamBytes r.die desc ((newDesc ws).flatMap (leBytes 8))
      match registerQueue s r.die desc index r.vas with
      | (0, s) => answerSyscall s r.id index
      | (_, s) => answerSyscall s r.id errArg) s

/-- SYSCALL_QHALT. -/
def execSyscallQhalt (req : Nat) (s : State) : Host.Outcome State Fault Refusal :=
  onService req 2 (fun r s =>
    match s.queue? r.die r.arg with
    | none => answerSyscall s r.id errArg
    | some q =>
      if q.vas ≠ r.vas then answerSyscall s r.id errPerm
      else answerSyscall (noteQueue s r.die r.arg { q with stat := 2 }) r.id 0) s

/-! ### MAP and UNMAP (R389) -/

/-- A new shootdown or MAP sequence number of a die: SDID. -/
def nextSdid (s : State) (die : Nat) : Nat × State :=
  let n := (s.die die).sdSeq + 1
  (die * 2 ^ 53 + n % 2 ^ 53, s.modDie die fun d => { d with sdSeq := n })

/-- The SYSCALL has been taken up. -/
def takeUp (s : State) (r : Req) : State := s.setReq { r with phase := .held }

/-- The leaf that a MAP area asks for, with frame 0. -/
def areaLeaf (w : Nat) : Nat :=
  1 + 2 * bits w 2 0 + 2 ^ 6 * bits w 4 4 + 2 ^ 8 * bits w 7 5 + 2 ^ 11 * bits w 3 3 + 2 ^ 12 * bits w 18 8 + 2 ^ 23 * bits w 22 19
    + 2 ^ 27 * bits w 25 25

/-- The area keeps R389, and its leaf is not malformed (R359). -/
def mapAreaOk (s : State) (vas : Nat) (ws : List Nat) : Bool :=
  let w (i : Nat) : Nat := (ws[i]?).getD 0
  let va := w 0
  let level := bits (w 2) 24 23
  let l := areaLeaf (w 2)
  let pages := w 1
  level ≠ 3 && va < 2 ^ 57 && va % levelSize level = 0 && 0 < pages && pages < 2 ^ 32 && w 2 < 2 ^ 26 && w 3 = 0
    && va + pages * levelSize level ≤ 2 ^ 57 && !isPointer level l && !s.malformed vas level l
    && (!leafG64 l || (level = 0 && va % 65536 = 0 && pages % 16 = 0))
    && (leafSet l).all fun d => match (s.die d).slotOf vas with | some (_, p) => bitOf p.keys (leafKey l) | none => false

/-- An I/O die's frames for a partition lie in the part of the capacity tier that the keel has given to it; a die of which the keel has divided
nothing gives any (R354; DESIGN CHOICE, log 110). -/
def inShare (s : State) (die vas base size : Nat) : Bool :=
  (s.die die).shares = [] ||
    match mget (s.die die).shares vas with
    | some (b, n) => b ≤ base && base + size ≤ b + n
    | none => false

/-- A frame of the page that a leaf maps may be prepared by a ZERO descriptor of the partition (R401): it lies in no sail region (R380) and is not
the host's (R402); and the leaf is not malformed. -/
def frameOk (s : State) (vas level l : Nat) : Bool :=
  let frames := levelSize level / leafWays l / 4096
  !s.malformed vas level l &&
    (leafSet l).all fun d =>
      let base := leafPfn l * 4096 / leafWays l
      base + frames * 4096 ≤ (s.die d).memSize && inShare s d vas base (max 1 frames * 4096) &&
        (List.range (max 1 frames)).all fun i =>
          let owner := mgetD s.tags (tagKey d (base + 4096 * i)) 0 / 16
          let kept := (s.die d).sailFrame (base + 4096 * i) 4096 || (s.die d).hostFrame (base + 4096 * i) 4096
          !kept && (owner = vas || ((s.die d).slotOf owner).isNone)

/-- The page that a leaf maps becomes 0 in its frames, which take page tags of the partition and key (R401). -/
def zeroPage (s : State) (vas va level l : Nat) : State :=
  (List.range (levelSize level / 128)).foldl (fun s i =>
    let a := va + 128 * i
    let h := homeOf l a
    let pa := paOf l a (levelSize level)
    { s.setRamBytes h pa (List.replicate 128 0) with
      tags := mput s.tags (tagKey h pa) (vas * 16 + leafKey l), bad := mdel s.bad (badKey h pa) }) s

/-- A ZERO descriptor that the die kernel has placed on its copy ring 0 and that has ended with success (R389, R401): its place in the ring, the
counts and CAUSE[4]. -/
def zeroDesc (s : State) (die vas key dst len ddie : Nat) : State :=
  let r := mgetD (s.die die).rings 0 {}
  let ws : List Nat := [6 + 2 ^ 4 * key, 0, dst, len + 2 ^ 43 * ddie, 0, 0, 2 ^ 7, 0]
  let s :=
    if r.log < 4 || 12 < r.log then s
    else s.setRamBytes die (r.base.toNat + 64 * (r.tail.toNat % 2 ^ r.log)) (ws.flatMap (leBytes 8))
  raise (s.modDie die fun d => { d with rings := mput d.rings 0 { r with vas := vas, tail := r.tail + 1, head := r.head + 1 } }) die 4

/-- The ZERO descriptors of a leaf: one for the frames of each die of its interleave set. -/
def zeroDescs (s : State) (die vas level l : Nat) : State :=
  let len := levelSize level / leafWays l
  (leafSet l).foldl (fun s d => zeroDesc s die vas (leafKey l) (leafPfn l * 4096 / leafWays l) (max 4096 len) d) s

/-- The die's copy ring 0 is empty, so that the kernel may use it. -/
def ringFree (s : State) (die : Nat) : Bool := let r := mgetD (s.die die).rings 0 {}; r.head = r.tail

/-- Runs of consecutive frames: the first leaf's index, its PFN, and the count. -/
def frameRuns (inc : Nat) : List Nat → Nat → List (Nat × Nat × Nat)
  | [], _ => []
  | f :: rest, i =>
    match frameRuns inc rest (i + 1) with
    | (j, g, n) :: more => if g = f + inc then (i, f, n + 1) :: more else (i, f, 1) :: (j, g, n) :: more
    | [] => [(i, f, 1)]

/-- The messages of a MAP service, one for each run; none while the send ring has no room for them. -/
def sendMaps (s : State) (r : Req) (va level l : Nat) : List (Nat × Nat × Nat) → Option State
  | [] => some s
  | (i, f, n) :: rest =>
    let (sdid, s) := nextSdid s r.die
    let m : Msg :=
      { w0 := 0x10 + 2 ^ 16 * r.vas, w1 := va + i * levelSize level, w2 := n * (levelSize level / 4096), w3 := sdid
        w5 := l + 2 ^ 28 * f, w6 := level + 4 }
    match placeMsg s r.die m with
    | none => none
    | some s =>
      let s := s.modDie r.die fun d =>
        { d with shoots := d.shoots ++ [{ sdid := sdid, vas := r.vas, start := m.w1, npages := m.w2, mode := 3, committed := true, req := r.id }] }
      sendMaps s r va level l rest

/-- SYSCALL_MAP: `frames` are the frames that the kernels of the interleave set give, by KMSG exchanges of the sail, one for each leaf. The ZERO
descriptors that zero them run within this event, on a copy ring that has nothing else to do (DESIGN CHOICE, log 129). -/
def execSyscallMap (req : Nat) (frames : List Nat) (s : State) : Host.Outcome State Fault Refusal :=
  onService req 3 (withArea 32 fun ws r s =>
    let w (i : Nat) : Nat := (ws[i]?).getD 0
    let va := w 0
    let level := bits (w 2) 24 23
    let l := areaLeaf (w 2)
    let size := levelSize level
    if !mapAreaOk s r.vas ws then answerSyscall s r.id errArg
    else if (List.range (w 1 * (size / 4096))).any fun i =>
        (match s.walkRoot r.die r.vas (va + 4096 * i) with | some (.leaf _ _ _ _) => true | _ => false) then
      answerSyscall s r.id errBusy
    else if frames.length ≠ w 1 || !(frames.all fun f => frameOk s r.vas level (l + 2 ^ 28 * f)) then answerSyscall s r.id errNomem
    else if !ringFree s r.die then s
    else
      let z := frames.zipIdx.foldl (fun s p =>
        zeroDescs (zeroPage s r.vas (va + p.2 * size) level (l + 2 ^ 28 * p.1)) r.die r.vas level (l + 2 ^ 28 * p.1)) s
      match sendMaps z r va level l (frameRuns (size / 4096) frames 0) with
      | some s => takeUp s r
      | none => s) s

/-- SYSCALL_UNMAP: a shootdown of MODE 0 with NEWLEAF 0. -/
def execSyscallUnmap (req : Nat) (s : State) : Host.Outcome State Fault Refusal :=
  onService req 4 (withArea 16 fun ws r s =>
    let w (i : Nat) : Nat := (ws[i]?).getD 0
    if 2 ^ 57 ≤ w 0 || w 0 % 4096 ≠ 0 || w 1 = 0 || 2 ^ 32 ≤ w 1 || 2 ^ 57 < w 0 + 4096 * w 1 then answerSyscall s r.id errArg
    else
      let (sdid, t) := nextSdid s r.die
      match placeMsg t r.die { w0 := 0x11 + 2 ^ 16 * r.vas, w1 := w 0, w2 := w 1, w3 := sdid } with
      | none => s
      | some t =>
        takeUp (t.modDie r.die fun d =>
          { d with shoots := d.shoots ++
              [{ sdid := sdid, vas := r.vas, start := w 0, npages := w 1, waiting := s.members r.vas, req := r.id }] }) r) s

/-! ### WINDOW (R301, R399) -/

/-- The one die that homes every page of a range with IL 0 (R301). -/
def windowHome (s : State) (die vas va pages : Nat) : Bool :=
  let home (i : Nat) : Option Nat :=
    match s.walkRoot die vas (va + 4096 * i) with
    | some (.leaf _ l _ _) => if leafIL l = 0 then some (leafHome l) else none
    | _ => none
  (home 0).isSome && (List.range pages).all fun i => home i = home 0

/-- The lowest index that no window of a port has. -/
def freeWindow (ws : List Window) : Nat := ((List.range 64).find? fun i => ws.all fun w => w.idx ≠ i).getD 0

/-- SYSCALL_WINDOW: the index is the lowest free one of the port (DESIGN CHOICE, log 26). -/
def execSyscallWindow (req : Nat) (s : State) : Host.Outcome State Fault Refusal :=
  onService req 5 (withArea 32 fun ws r s =>
    let w (i : Nat) : Nat := (ws[i]?).getD 0
    let io := moduleOf r.die * 32 + w 2 % 256
    let fn := bits (w 2) 15 8
    let ok : Bool :=
      w 0 % 4096 = 0 && w 0 < 2 ^ 57 && w 1 % 4096 = 0 && 0 < w 1 && w 1 ≤ 2 ^ 30 && w 2 < 2 ^ 16 && 16 ≤ w 2 % 256 && w 2 % 256 < 20
        && w 3 % 4096 = 0 && functionVas s io fn = some r.vas && windowHome s r.die r.vas (w 0) (w 1 / 4096)
    if !ok then answerSyscall s r.id errArg
    else if 64 ≤ (s.die io).windows.length then answerSyscall s r.id errBusy
    else
      let i := freeWindow (s.die io).windows
      answerSyscall (s.modDie io fun d =>
        { d with windows := d.windows ++ [{ vas := r.vas, va := w 0, len := w 1, fn := fn, bar := w 3, idx := i }] }) r.id i) s

/-! ### SYSCALL_ANSWER -/

/-- The trap kinds that a thread may take, for the kernel's choice. -/
def threadTraps : List TrapKind :=
  [.illegal, .converge, .copyRights, .scrBound, .page, .align, .tether, .span, .reel, .txCap, .txRemote, .brk, .trap, .parity
   , .marionette, .residue, .data]

/-- SYSCALL_ANSWER: NOSERV for the numbers that name no service; the sail's value for its own services; or, for any service, the thread
parks with a trap, whose kind the spec leaves to the die kernel (log 27). -/
def execSyscallAnswer (req : Nat) (value : Option Word) (s : State) : Host.Outcome State Fault Refusal :=
  match s.asked req with
  | none => .next s
  | some r =>
    match value with
    | some v =>
      .next (if r.service < 7 then s
        else if r.service < 2 ^ 31 then answerSyscall s r.id errNoserv
        else answerSyscall s r.id v.toNat)
    | none =>
      let (k, s) := anyOf s threadTraps.length
      let ti : TrapInfo := { kind := (threadTraps[k]?).getD .trap, off := r.off, ord := r.ord }
      .next (askedTrap (s.dropReq r.id) r.tk ti)

end Sys2Proof.Machine
end

