-- ==== Sys2Proof/Machine/Desc.lean ====
section
/-! DEFINITION. Copy rings (R400, R401): the descriptor that a ring is at, what each kind moves, and its end. -/

namespace Sys2Proof.Machine

set_option Elab.async false

/-! ### Descriptors -/

/-- The descriptor at a ring's head: its address and its 8 words. -/
structure Desc where
  addr : Nat := 0
  ws : List Nat := []
  deriving DecidableEq, Repr

def Desc.w (d : Desc) (i : Nat) : Nat := (d.ws[i]?).getD 0
def Desc.kind (d : Desc) : Nat := d.w 0 % 8
def Desc.ctr (d : Desc) : Bool := bitOf (d.w 0) 3
def Desc.key (d : Desc) : Nat := bits (d.w 0) 7 4
def Desc.src (d : Desc) : Nat := d.w 1
def Desc.dst (d : Desc) : Nat := d.w 2
def Desc.len (d : Desc) : Nat := d.w 3 % 2 ^ 32
def Desc.sdie (d : Desc) : Nat := bits (d.w 3) 42 32
def Desc.ddie (d : Desc) : Nat := bits (d.w 3) 53 43
def Desc.dmod (d : Desc) : Nat := bits (d.w 5) 9 0
def Desc.dvas (d : Desc) : Nat := bits (d.w 5) 21 10

/-- The counter add of a stream to a module of this domain, which its destination makes (R400). -/
def Desc.sparAdd (d : Desc) : Bool := d.kind = 4 && d.ctr && d.dmod < 64 && d.len ≠ 0

/-- The ring and its descriptor, if it has one. -/
def State.ringAt (s : State) (die e : Nat) : Option (Ring × Desc) :=
  match mget (s.die die).rings e with
  | none => none
  | some r =>
    if ringCount die ≤ e || r.head = r.tail || r.log < 4 || 12 < r.log then none
    else
      let a := r.base.toNat + 64 * (r.head.toNat % 2 ^ r.log)
      some (r, { addr := a, ws := (List.range 8).map fun i => s.ram die (a + 8 * i) 8 })

/-- The descriptor keeps the layout (R401), for a ring of this die under this VAS. -/
def descLegal (s : State) (die vas : Nat) (d : Desc) : Bool :=
  let k := d.kind
  1 ≤ k && k ≤ 6 && d.w 0 < 2 ^ 8 && (k = 6 || d.key = 0) && (k ≠ 6 || d.src = 0) && d.len % (if k ≤ 4 then 4 else 4096) = 0
    && (k = 5 || d.sdie = 0) && (k = 5 || k = 6 || d.ddie = 0) && d.w 3 < 2 ^ 54 && d.w 4 < 2 ^ 57 && d.w 5 < 2 ^ 22 && d.w 7 = 0
    && (isIo die || (k ≠ 2 && k ≠ 3 && k ≠ 4)) && (k ≠ 4 || 64 ≤ d.dmod || d.dvas = vas)
    && (k ≤ 4 || (d.src % 4096 = 0 && d.dst % 4096 = 0)) && ((s.die die).slotOf vas).isSome

def setRing (s : State) (die e : Nat) (r : Ring) : State := s.modDie die fun d => { d with rings := mput d.rings e r }

/-! ### Moving bytes -/

/-- What a read or write of a ring comes to. -/
inductive Moved (α : Type)
  | ok (a : α)
  | hold
  | fault (k : PageFault) (va det : Nat)
  | uncorr
  deriving DecidableEq, Repr

/-- A served access. -/
def movedOf (va : Nat) : Served → Moved (List Byte)
  | .done (.performed bs) => .ok bs
  | .done (.fault k det) => .fault k va det
  | .done (.data _ _) => .uncorr
  | _ => .hold

/-- Bytes within one line read under a ring's VAS: on a compute die as a plain read of a thread of the die, on an I/O die, which has no
L2, at the home. -/
def ringRead (s : State) (die vas va n : Nat) : Moved (List Byte) × State :=
  if isIo die then
    match agentCheck s die vas va .read with
    | (.ok _ pa, h, s) => (movedOf va (.done (homeBytes s h pa n)), (demandRead s h pa).setAD h vas va false)
    | (.no a, _, s) => (movedOf va (.done a), s)
    | (.hold, _, s) => (.hold, s)
  else
    let (r, s) := agentRead s die vas va n .read
    (movedOf va r, s)

/-- Bytes written, line by line. -/
def ringWrite (s : State) (die vas va : Nat) (data : List Byte) : Nat → Moved (List Byte) × State
  | 0 => (.ok [], s)
  | fuel + 1 =>
    if data = [] then (.ok [], s)
    else
      let m := 128 - va % 128
      let (r, s) := if isIo die then agentWriteHome s die vas va (data.take m) none else agentWrite s die vas va (data.take m)
      match movedOf va r with
      | .ok _ => ringWrite s die vas (va + m) (data.drop m) fuel
      | x => (x, s)

/-- The ring stops: a MISS waits for the die kernel, every other fault ends the descriptor with its code (R401), once the fault queue has an
entry for it (R371). -/
def ringFault (s : State) (die e : Nat) (r : Ring) (k : PageFault) (va det : Nat) (wr : Bool) : State :=
  let id := s.nextId
  let s := ({ s with nextId := id + 1 }).addFault die { va := va % 2 ^ 57, vas := r.vas, kind := k, src := .dma, wr := wr, det := det, who := id }
  setRing s die e (if s.faultWaits die k then { r with state := 2, wait := id } else { r with state := 1, code := k.copyCode })

/-- What stops a descriptor's progress: nothing now; a fault; an uncorrectable word in the source (code UNCORR). -/
def ringStop {α : Type} (s : State) (die e : Nat) (r : Ring) (wr : Bool) : Moved α → State
  | .fault k va det => ringFault s die e r k va det wr
  | .uncorr => setRing s die e { r with state := 1, code := 6 }
  | _ => setRing s die e r

/-- Up to 128 bytes at a time from `get` to `put`, until the descriptor is done or something stops it. -/
def moveLoop (die e : Nat) (d : Desc) (get : State → Nat → Nat → Moved (List Byte) × State) (put : State → Nat → List Byte → Moved (List Byte) × State) :
    Nat → Ring → State → State
  | 0, r, s => setRing s die e r
  | fuel + 1, r, s =>
    if d.len ≤ r.done then setRing s die e { r with state := 1, code := 0 }
    else
      let a := d.src + r.done
      let n := min (d.len - r.done) (128 - a % 128)
      match get s a n with
      | (.ok bs, s) =>
        match put s (d.dst + r.done) bs with
        | (.ok _, s) => moveLoop die e d get put fuel { r with done := r.done + n } s
        | (x, s) => ringStop s die e r true x
      | (x, s) => ringStop s die e r false x

/-- A ring at a legal descriptor of a kind that it has not performed. -/
def onDesc (die e kind : Nat) (f : Ring → Desc → State → State) (s : State) : Host.Outcome State Fault Refusal :=
  match s.ringAt die e with
  | none => .next s
  | some (r, d) =>
    .next (if s.up die && r.state = 0 && d.kind = kind && descLegal s die r.vas d then f r d s else s)

def getVa (die vas : Nat) (s : State) (a n : Nat) : Moved (List Byte) × State := ringRead s die vas a n
def putVa (die vas : Nat) (s : State) (a : Nat) (bs : List Byte) : Moved (List Byte) × State := ringWrite s die vas a bs (bs.length / 128 + 2)
def getHost (s : State) (a n : Nat) : Moved (List Byte) × State := (.ok (Memory.read s.hostMem a n), s)
def putHost (s : State) (a : Nat) (bs : List Byte) : Moved (List Byte) × State := (.ok [], { s with hostMem := Memory.write s.hostMem a bs })

/-- Chunks that a descriptor needs at most. -/
def chunks (d : Desc) : Nat := d.len / 4 + 2

/-- DESC_VA_TO_VA. -/
def execDescVaToVa (die ring : Nat) (s : State) : Host.Outcome State Fault Refusal :=
  onDesc die ring 1 (fun r d s => moveLoop die ring d (getVa die r.vas) (putVa die r.vas) (chunks d) r s) s

/-- DESC_VA_TO_HOST: over PCI Express as the partition's function, or over CXL.cache, which serves the DMA engines alone and moves the same
bytes, where the port is in CXL mode (R17, R402). -/
def execDescVaToHost (die ring : Nat) (s : State) : Host.Outcome State Fault Refusal :=
  onDesc die ring 2 (fun r d s => moveLoop die ring d (getVa die r.vas) putHost (chunks d) r s) s

/-- DESC_HOST_TO_VA: as DESC_VA_TO_HOST, the other way. -/
def execDescHostToVa (die ring : Nat) (s : State) : Host.Outcome State Fault Refusal :=
  onDesc die ring 3 (fun r d s => moveLoop die ring d getHost (putVa die r.vas) (chunks d) r s) s

/-- DESC_VA_TO_SPAR: the next bytes go to the I/O die of the same local number in the destination module, and the ring waits for the
answer; after the last bytes goes the stream's counter add, which the destination makes (R400). Which I/O die of the module takes them the spec leaves
open (DESIGN CHOICE, log 103). A module of which no die has come up takes nothing, and the descriptor ends with LOST (DESIGN CHOICE, log 104). A module
of another domain answers by itself (log 24). -/
def execDescVaToSpar (die ring : Nat) (s : State) : Host.Outcome State Fault Refusal :=
  onDesc die ring 4 (fun r d s =>
    let sendSpar (s : State) (bs : List Byte) (ctr : Option Nat) : State :=
      let io := d.dmod * 32 + localOf die
      if !s.isThere io then setRing s die ring { r with state := 1, code := PageFault.lost.copyCode }
      else
        let p : SparPkt :=
          { smod := moduleOf die, svas := r.vas, vas := d.dvas, va := d.dst + r.done, data := bs, ctr := ctr, src := some (die, ring) }
        setRing (sendPacket s die io r.vas .bulk (.spar p)) die ring { r with state := 3 }
    if d.len ≤ r.done then (if d.sparAdd then sendSpar s [] (some (d.w 4)) else setRing s die ring { r with state := 1, code := 0 })
    else
      let a := d.src + r.done
      let n := min (d.len - r.done) (128 - a % 128)
      match ringRead s die r.vas a n with
      | (.ok bs, s) =>
        if d.dmod < 64 then sendSpar s bs none
        else
          let (k, s) := s.fresh
          setRing s die ring (if Config.remoteAdmits k then { r with done := r.done + n } else { r with state := 1, code := PageFault.perm.copyCode })
      | (x, s) => ringStop s die ring r false x) s

/-! ### Frames (R394, R401) -/

/-- The owner of a frame of a die. -/
def frameVas (s : State) (die pa : Nat) : Nat := mgetD s.tags (tagKey die pa) 0 / 16

/-- The frame may be written by a descriptor of a VAS: it carries its tag, or that of a VAS that its die does not serve. A frame of the die's sail
region, which is its kernel's alone (R380), and one that the keel has given to the host (R402) are never free (DEDUCED, log 130). -/
def frameFree (s : State) (die pa vas : Nat) : Bool :=
  !(s.die die).sailFrame pa 4096 && !(s.die die).hostFrame pa 4096 &&
    (frameVas s die pa = vas || ((s.die die).slotOf (frameVas s die pa)).isNone)

/-- Frame addresses from a start on. -/
def framesOf (pa len : Nat) : List Nat := (List.range (len / 4096)).map fun i => pa + 4096 * i

/-- The frames of a die can be reached now; a lost die's cannot be reached at all. -/
def frameLife (s : State) (die : Nat) : Moved Unit :=
  match (s.die die).life with
  | .up => .ok ()
  | .lost => .fault .lost 0 die
  | .out => .fault .invalid 0 die
  | _ => .hold

/-- A descriptor of kind 5 or 6 ends with a code. -/
def frameEnd (s : State) (die e : Nat) (r : Ring) (code : Nat) : State := setRing s die e { r with state := 1, code := code }

/-- DESC_FRAME: every frame's tag must agree; destination frames take the source tags. -/
def execDescFrame (die ring : Nat) (s : State) : Host.Outcome State Fault Refusal :=
  onDesc die ring 5 (fun r d s =>
    match frameLife s d.sdie, frameLife s d.ddie with
    | .hold, _ => s
    | _, .hold => s
    | .ok _, .ok _ =>
      if (s.die d.sdie).memSize < d.src + d.len || (s.die d.ddie).memSize < d.dst + d.len then frameEnd s die ring r PageFault.invalid.copyCode
      else if !((framesOf d.src d.len).all fun a => frameVas s d.sdie a = r.vas) || !((framesOf d.dst d.len).all fun a => frameFree s d.ddie a r.vas) then
        frameEnd s die ring r PageFault.perm.copyCode
      else if (List.range (d.len / 128)).any fun i => (mgetD s.bad (badKey d.sdie (d.src + 128 * i)) 4) < 4 then frameEnd s die ring r 6
      else
        let s := (List.range (d.len / 4096)).foldl (fun (s : State) i =>
          let a := d.src + 4096 * i
          let b := d.dst + 4096 * i
          { s.setRamBytes d.ddie b (s.ramBytes d.sdie a 4096) with
            tags := mput s.tags (tagKey d.ddie b) (mgetD s.tags (tagKey d.sdie a) 0)
            bad := (List.range 32).foldl (fun m j => mdel m (badKey d.ddie (b + 128 * j))) s.bad }) s
        frameEnd s die ring r 0
    | .fault k _ _, _ => frameEnd s die ring r k.copyCode
    | _, .fault k _ _ => frameEnd s die ring r k.copyCode
    | _, _ => s) s

/-- DESC_ZERO: the frames become 0 and take page tags of CRVAS and KEY. -/
def execDescZero (die ring : Nat) (s : State) : Host.Outcome State Fault Refusal :=
  onDesc die ring 6 (fun r d s =>
    match frameLife s d.ddie with
    | .hold => s
    | .ok _ =>
      if (s.die d.ddie).memSize < d.dst + d.len then frameEnd s die ring r PageFault.invalid.copyCode
      else if !((framesOf d.dst d.len).all fun a => frameFree s d.ddie a r.vas) then frameEnd s die ring r PageFault.perm.copyCode
      else
        let s := (framesOf d.dst d.len).foldl (fun (s : State) b =>
          { s.setRamBytes d.ddie b (List.replicate 4096 0) with
            tags := mput s.tags (tagKey d.ddie b) (r.vas * 16 + d.key)
            bad := (List.range 32).foldl (fun m j => mdel m (badKey d.ddie (b + 128 * j))) s.bad }) s
        frameEnd s die ring r 0
    | .fault k _ _ => frameEnd s die ring r k.copyCode
    | .uncorr => s) s

/-! ### The end -/

/-- CODE and DONE are written, the head advances, and CAUSE[4] is raised. -/
def endDesc (s : State) (die e : Nat) (r : Ring) (d : Desc) (code : Nat) : State :=
  let s := s.setRam die (d.addr + 0x30) 8 (code + 2 ^ 7)
  raise (setRing s die e { r with head := r.head + 1, state := 0, code := 0, done := 0, wait := 0 }) die 4

/-- The counter add of a descriptor that has succeeded: a DOMAIN-scope release of its writes (R400); one that must wait or be resent (R265) is
tried again. A Spar stream's has been made at its destination. -/
def ringAdd (s : State) (die e : Nat) (r : Ring) (d : Desc) : State :=
  if !d.ctr || d.sparAdd then endDesc s die e r d 0
  else
    match releaseWide s die with
    | (_, false) => s
    | (t, true) =>
      match agentCtrAdd t die r.vas (d.w 4) 1 with
      | (.done (.performed _), t) => endDesc t die e r d 0
      | (.done (.fault k det), t) => ringFault t die e r k (d.w 4) det true
      | (.done (.data _ _), t) => endDesc t die e r d 6
      | _ => s

/-- DESCRIPTOR_END: of a descriptor performed; of one that breaks the layout, with INVALID; of one with LEN 0, with success. -/
def execDescriptorEnd (die ring : Nat) (s : State) : Host.Outcome State Fault Refusal :=
  match s.ringAt die ring with
  | none => .next s
  | some (r, d) =>
    if !s.up die then .next s
    else if r.state = 1 then .next (if r.code = 0 then ringAdd s die ring r d else endDesc s die ring r d r.code)
    else if r.state ≠ 0 then .next s
    else if !descLegal s die r.vas d then .next (endDesc s die ring r d PageFault.invalid.copyCode)
    else if d.len = 0 then .next (ringAdd s die ring r d)
    else .next s

end Sys2Proof.Machine
end

