-- ==== Sys2Proof/Machine/Trig.lean ====
section
/-! DEFINITION. The special functions (R180, R181), each the exact value rounded once. Quotients and roots are decided
exactly. The transcendental functions are evaluated in fixed point with 1,024 fraction bits, far beyond the
distance of any FP32 argument's value from a rounding boundary; arguments whose value is exact are decided
before (log 8). -/

namespace Sys2Proof.Machine

set_option Elab.async false

/-- Fraction bits of the fixed point. -/
def fixBits : Nat := 1024
def fixOne : Int := 2 ^ 1024

/-- Integer square root by bits, from bit k down. -/
def isqrtFrom : Nat → Nat → Nat → Nat
  | 0, _, r => r
  | k + 1, n, r => let t := r + 2 ^ k; isqrtFrom k n (if t * t ≤ n then t else r)
def isqrt (n : Nat) : Nat := isqrtFrom (n.log2 / 2 + 1) n 0

/-- The root of p/q, as a fraction: exact when it is one, else strictly between neighbouring multiples of 2^-200. -/
def ratSqrt (p q : Nat) : Nat × Nat :=
  let n := p * 2 ^ 400 / q
  let r := isqrt n
  if r * r * q = p * 2 ^ 400 then (r, 2 ^ 200) else (2 * r + 1, 2 ^ 201)

/-- Σ x^(2k+1)/(2k+1) with alternating signs when alt, for a fixed-point x, from term k on. -/
def oddSeries (alt : Bool) (x2 : Int) : Nat → Nat → Int → Int → Int
  | 0, _, _, acc => acc
  | n + 1, k, pw, acc =>
    let t := pw / ((2 * k + 1 : Nat) : Int)
    oddSeries alt x2 n (k + 1) (pw * x2 / fixOne) (if alt && k % 2 = 1 then acc - t else acc + t)

/-- atan(1/n) and atanh of a fixed-point x below 1/2. -/
def fixAtanInv (n : Nat) : Int := oddSeries true (fixOne / ((n * n : Nat) : Int)) 260 0 (fixOne / (n : Int)) 0
def fixAtanh (x : Int) : Int := oddSeries false (x * x / fixOne) 540 0 x 0

/-- π (by 16·atan(1/5) - 4·atan(1/239)) and ln 2 (2·atanh(1/3)). -/
def fixPi : Int := 16 * fixAtanInv 5 - 4 * fixAtanInv 239
def fixLn2 : Int := 2 * fixAtanh (fixOne / 3)

/-- Σ of the exponential series of a fixed-point x, with every second term negated or dropped as asked. -/
def expSeries (x : Int) : Nat → Nat → Int → Int → Int
  | 0, _, _, acc => acc
  | n + 1, k, t, acc => expSeries x n (k + 1) (t * x / fixOne / ((k + 1 : Nat) : Int)) (acc + t)
def fixExp (x : Int) : Int := expSeries x 220 0 fixOne 0

/-- Σ (-1)^k x^(2k+i)/(2k+i)!, the series of sin (i = 1) and cos (i = 0). -/
def trigSeries (x2 : Int) (i : Nat) : Nat → Nat → Int → Int → Int
  | 0, _, _, acc => acc
  | n + 1, k, t, acc =>
    trigSeries x2 i n (k + 1) (-(t * x2 / fixOne / (((2 * k + 1 + i) * (2 * k + 2 + i) : Nat) : Int))) (acc + t)
def fixSin (x : Int) : Int := trigSeries (x * x / fixOne) 1 130 0 x 0
def fixCos (x : Int) : Int := trigSeries (x * x / fixOne) 0 130 0 fixOne 0

/-- A dyadic (-1)^neg · m · 2^e in fixed point, exact for e ≥ -1024. -/
def fixOf (neg : Bool) (m : Nat) (e : Int) : Int :=
  let v : Int := if -1024 ≤ e then ((m * 2 ^ (e + 1024).toNat : Nat) : Int) else ((m / 2 ^ (-1024 - e).toNat : Nat) : Int)
  if neg then -v else v

/-- A fixed-point value rounded once to FP32. -/
def roundFix (m : FMode) (v : Int) : Nat := fp32.roundRat m.rnd m.sat m.ftz (v < 0) v.natAbs (2 ^ 1024)

/-- Special results: an infinity under SAT (R130), a zero, one. -/
def fInf (m : FMode) (neg : Bool) : Nat := fp32.round m.rnd m.sat m.ftz (.inf neg)
def fZero (neg : Bool) : Nat := if neg then fp32.signBit else 0

/-- R180: 1/x and a/b. -/
def divVal (m : FMode) : FVal → FVal → Nat
  | .nan, _ => fp32.nan
  | _, .nan => fp32.nan
  | .inf _, .inf _ => fp32.nan
  | .inf a, .num b _ _ => fInf m (xor a b)
  | .num a _ _, .inf b => fZero (xor a b)
  | .num a p e, .num b q g =>
    if q = 0 then (if p = 0 then fp32.nan else fInf m (xor a b))
    else
      let d := e - g
      if 0 ≤ d then fp32.roundRat m.rnd m.sat m.ftz (xor a b) (p * 2 ^ d.toNat) q
      else fp32.roundRat m.rnd m.sat m.ftz (xor a b) p (q * 2 ^ (-d).toNat)

def fFdiv (m : FMode) (a b : Word) : Word := w32 (divVal m (fp32.val m.ftz a.toNat) (fp32.val m.ftz b.toNat))
def fFrcp (m : FMode) (a : Word) : Word := w32 (divVal m (.num false 1 0) (fp32.val m.ftz a.toNat))

/-- The numerator and denominator of m · 2^e. -/
def ratOf (m : Nat) (e : Int) : Nat × Nat := if 0 ≤ e then (m * 2 ^ e.toNat, 1) else (m, 2 ^ (-e).toNat)

/-- R181: FSQRT and FRSQ. -/
def fFsqrt (m : FMode) (a : Word) : Word :=
  w32 (match fp32.val m.ftz a.toNat with
    | .nan => fp32.nan
    | .inf neg => if neg then fp32.nan else fInf m false
    | .num neg n e =>
      if n = 0 then fZero neg else if neg then fp32.nan
      else
        let (p, q) := ratOf n e
        let (r, s) := ratSqrt p q
        fp32.roundRat m.rnd m.sat m.ftz false r s)
def fFrsq (m : FMode) (a : Word) : Word :=
  w32 (match fp32.val m.ftz a.toNat with
    | .nan => fp32.nan
    | .inf neg => if neg then fp32.nan else fZero false
    | .num neg n e =>
      if n = 0 then fInf m neg else if neg then fp32.nan
      else
        let (p, q) := ratOf n e
        let (r, s) := ratSqrt q p
        fp32.roundRat m.rnd m.sat m.ftz false r s)

/-- 2^x for |x| < 256 in fixed point, as a fraction: exact for an integer x. -/
def exp2Rat (x : Int) : Nat × Nat :=
  let n := x / fixOne
  let f := x - n * fixOne
  let y : Int := if f = 0 then fixOne else fixExp (f * fixLn2 / fixOne)
  if 0 ≤ n then (y.toNat * 2 ^ n.toNat, 2 ^ 1024) else (y.toNat, 2 ^ (1024 + (-n).toNat))

/-- R181: FEXP2. Beyond ±200 every result is an overflow, or lies between 0 and the smallest subnormal. -/
def fFexp2 (m : FMode) (a : Word) : Word :=
  w32 (match fp32.val m.ftz a.toNat with
    | .nan => fp32.nan
    | .inf neg => if neg then fZero false else fInf m false
    | .num neg n e =>
      let big := n ≠ 0 && (8 : Int) ≤ (n.log2 : Int) + e
      let (p, q) := if big then (if neg then (1, 2 ^ 200) else (2 ^ 200, 1)) else exp2Rat (fixOf neg n e)
      fp32.roundRat m.rnd m.sat m.ftz false p q)

/-- R181: FLOG2 of x = n · 2^e with n normalised to y in [1, 2): exponent + 2·atanh((y-1)/(y+1))/ln 2. -/
def fFlog2 (m : FMode) (a : Word) : Word :=
  w32 (match fp32.val m.ftz a.toNat with
    | .nan => fp32.nan
    | .inf neg => if neg then fp32.nan else fInf m false
    | .num neg n e =>
      if n = 0 then fInf m true else if neg then fp32.nan
      else
        let k : Int := (n.log2 : Int) + e
        let one : Int := ((2 ^ n.log2 : Nat) : Int)
        let v : Int := if (n : Int) = one then k * fixOne
          else k * fixOne + 2 * fixAtanh (((n : Int) - one) * fixOne / ((n : Int) + one)) * fixOne / fixLn2
        roundFix m v)

/-- The quarter turns q and the rest f, 0 ≤ f < 1/4, of x modulo 1, in fixed point. -/
def quarters (x : Int) : Int × Int :=
  let r := x % fixOne
  (4 * r / fixOne, r % (fixOne / 4))

/-- sin(2πx) for q quarter turns and the rest f: exact at quarter turns. -/
def sinQuarter (q : Int) (f : Int) : Int :=
  let t := 2 * fixPi * f / fixOne
  match (q % 4).toNat with
  | 0 => if f = 0 then 0 else fixSin t
  | 1 => if f = 0 then fixOne else fixCos t
  | 2 => if f = 0 then 0 else -fixSin t
  | _ => if f = 0 then -fixOne else -fixCos t

/-- R181: FSIN2PI and FCOS2PI; zeros take the sign of x and + respectively. -/
def fFsin2pi (m : FMode) (a : Word) : Word :=
  w32 (match fp32.val m.ftz a.toNat with
    | .nan => fp32.nan
    | .inf _ => fp32.nan
    | .num neg n e =>
      let (q, f) := quarters (fixOf neg n e)
      let v := sinQuarter q f
      if v = 0 then fZero neg else roundFix m v)
def fFcos2pi (m : FMode) (a : Word) : Word :=
  w32 (match fp32.val m.ftz a.toNat with
    | .nan => fp32.nan
    | .inf _ => fp32.nan
    | .num neg n e =>
      let (q, f) := quarters (fixOf neg n e)
      let v := sinQuarter (q + 1) f
      if v = 0 then fZero false else roundFix m v)

/-- R181: FTANH. From magnitude 64 on the value lies between 1 - 2^-180 and 1. -/
def fFtanh (m : FMode) (a : Word) : Word :=
  w32 (match fp32.val m.ftz a.toNat with
    | .nan => fp32.nan
    | .inf neg => (if neg then fp32.signBit else 0) + 0x3F800000
    | .num neg n e =>
      if n = 0 then fZero neg
      else if (6 : Int) ≤ (n.log2 : Int) + e then fp32.roundRat m.rnd m.sat m.ftz neg (2 ^ 180 - 1) (2 ^ 180)
      else
        let x2 := 2 * fixOf false n e
        let k := x2 / fixLn2
        let y := fixExp (x2 - k * fixLn2) * ((2 ^ k.toNat : Nat) : Int)
        fp32.roundRat m.rnd m.sat m.ftz neg (y - fixOne).toNat (y + fixOne).toNat)

end Sys2Proof.Machine
end

