-- ==== Sys2Proof/Machine/FloatArith.lean ====
section
/-! DEFINITION. The floating-point families: FARITH, FFMA, FCMP, FSPEC, HPACK, CPLX and CVT (R173 to R191), but QNT,
which is a cross-lane instruction. -/

namespace Sys2Proof.Machine

set_option Elab.async false

/-- R183: d + a·b, d - a·b or a·b of complex values, each part rounded once. -/
def cplx (m : FMode) (d : Option Dword) (neg : Bool) (a b : Dword) : Dword :=
  let re (x : Dword) : Word := x.extractLsb' 0 32
  let im (x : Dword) : Word := x.extractLsb' 32 32
  cplxPart m (d.map im) neg (re a) (im b) neg (im a) (re b)
    ++ cplxPart m (d.map re) neg (re a) (re b) (!neg) (im a) (im b)

/-- FADD: FP32 add with one rounding (R173). -/
def execFadd (s : Bool) (d : Dst) (a : Opnd) (b : Opnd) (st : State) : Host.Outcome State Fault Refusal :=
  runWord (.fadd s d a b) (aluAB d a b fun m a b => w32 (fp32.add m a.toNat b.toNat)) st

/-- FSUB: FP32 subtract with one rounding (R173). -/
def execFsub (s : Bool) (d : Dst) (a : Opnd) (b : Opnd) (st : State) : Host.Outcome State Fault Refusal :=
  runWord (.fsub s d a b) (aluAB d a b fun m a b => w32 (fp32.sub m a.toNat b.toNat)) st

/-- FMUL: FP32 multiply with one rounding (R173). -/
def execFmul (s : Bool) (d : Dst) (a : Opnd) (b : Opnd) (st : State) : Host.Outcome State Fault Refusal :=
  runWord (.fmul s d a b) (aluAB d a b fun m a b => w32 (fp32.mul m a.toNat b.toNat)) st

/-- FMIN: IEEE minimumNumber (R174). -/
def execFmin (s : Bool) (d : Dst) (a : Opnd) (b : Opnd) (st : State) : Host.Outcome State Fault Refusal :=
  runWord (.fmin s d a b) (aluAB d a b fun m a b => w32 (fp32.minNum m.ftz a.toNat b.toNat)) st

/-- FMAX: IEEE maximumNumber (R174). -/
def execFmax (s : Bool) (d : Dst) (a : Opnd) (b : Opnd) (st : State) : Host.Outcome State Fault Refusal :=
  runWord (.fmax s d a b) (aluAB d a b fun m a b => w32 (fp32.maxNum m.ftz a.toNat b.toNat)) st

/-- FABS: Clears the sign bit (R175). -/
def execFabs (s : Bool) (d : Dst) (a : Opnd) (st : State) : Host.Outcome State Fault Refusal :=
  runWord (.fabs s d a) (aluA d a fun _ a => fFabs a) st

/-- FNEG: Inverts the sign bit (R175). -/
def execFneg (s : Bool) (d : Dst) (a : Opnd) (st : State) : Host.Outcome State Fault Refusal :=
  runWord (.fneg s d a) (aluA d a fun _ a => fFneg a) st

/-- FCOPYSIGN: Takes the sign of b for a (R175). -/
def execFcopysign (s : Bool) (d : Dst) (a : Opnd) (b : Opnd) (st : State) : Host.Outcome State Fault Refusal :=
  runWord (.fcopysign s d a b) (aluAB d a b fun _ a b => fFcopysign a b) st

/-- FFMA: d := d + a·b in FP32 with one rounding (R176). -/
def execFfma (s : Bool) (d : Dst) (a : Opnd) (b : Opnd) (st : State) : Host.Outcome State Fault Refusal :=
  runWord (.ffma s d a b) (aluDAB d a b fun m d a b => w32 (fp32.fma m d.toNat a.toNat b.toNat)) st

/-- FFMS: d := d − a·b in FP32 with one rounding (R176). -/
def execFfms (s : Bool) (d : Dst) (a : Opnd) (b : Opnd) (st : State) : Host.Outcome State Fault Refusal :=
  runWord (.ffms s d a b) (aluDAB d a b fun m d a b => w32 (fp32.fms m d.toNat a.toNat b.toNat)) st

/-- FDOT2: Adds a BF16 pair dot product to FP32 D (R177). -/
def execFdot2 (s : Bool) (d : Dst) (a : Opnd) (b : Opnd) (st : State) : Host.Outcome State Fault Refusal :=
  runWord (.fdot2 s d a b) (aluDAB d a b fun m d a b => fFdot2 m d a b) st

/-- FSET_EQ: FP32 equality compare (R178). -/
def execFsetEq (s : Bool) (d : Dst) (a : Opnd) (b : Opnd) (st : State) : Host.Outcome State Fault Refusal :=
  runWord (.fsetEq s d a b) (aluAB d a b fun m a b => fFset fsetEq m.ftz a b) st

/-- FSET_NE: FP32 inequality compare (R178). -/
def execFsetNe (s : Bool) (d : Dst) (a : Opnd) (b : Opnd) (st : State) : Host.Outcome State Fault Refusal :=
  runWord (.fsetNe s d a b) (aluAB d a b fun m a b => fFset fsetNe m.ftz a b) st

/-- FSET_LT: FP32 less-than compare (R178). -/
def execFsetLt (s : Bool) (d : Dst) (a : Opnd) (b : Opnd) (st : State) : Host.Outcome State Fault Refusal :=
  runWord (.fsetLt s d a b) (aluAB d a b fun m a b => fFset fsetLt m.ftz a b) st

/-- FSET_LE: FP32 less-or-equal compare (R178). -/
def execFsetLe (s : Bool) (d : Dst) (a : Opnd) (b : Opnd) (st : State) : Host.Outcome State Fault Refusal :=
  runWord (.fsetLe s d a b) (aluAB d a b fun m a b => fFset fsetLe m.ftz a b) st

/-- FSET_GT: FP32 greater-than compare (R178). -/
def execFsetGt (s : Bool) (d : Dst) (a : Opnd) (b : Opnd) (st : State) : Host.Outcome State Fault Refusal :=
  runWord (.fsetGt s d a b) (aluAB d a b fun m a b => fFset fsetGt m.ftz a b) st

/-- FSET_GE: FP32 greater-or-equal compare (R178). -/
def execFsetGe (s : Bool) (d : Dst) (a : Opnd) (b : Opnd) (st : State) : Host.Outcome State Fault Refusal :=
  runWord (.fsetGe s d a b) (aluAB d a b fun m a b => fFset fsetGe m.ftz a b) st

/-- FSET_UN: Writes 1 when either operand is NaN (R178). -/
def execFsetUn (s : Bool) (d : Dst) (a : Opnd) (b : Opnd) (st : State) : Host.Outcome State Fault Refusal :=
  runWord (.fsetUn s d a b) (aluAB d a b fun m a b => fFset fsetUn m.ftz a b) st

/-- FCLASS: Writes a 10-bit class mask of an FP32 value (R179). -/
def execFclass (s : Bool) (d : Dst) (a : Opnd) (st : State) : Host.Outcome State Fault Refusal :=
  runWord (.fclass s d a) (aluA d a fun _ a => fFclass a) st

/-- FRCP: Correctly rounded reciprocal (R180). -/
def execFrcp (s : Bool) (d : Dst) (a : Opnd) (st : State) : Host.Outcome State Fault Refusal :=
  runWord (.frcp s d a) (aluA d a fun m a => fFrcp m a) st

/-- FRSQ: Correctly rounded reciprocal square root (R180). -/
def execFrsq (s : Bool) (d : Dst) (a : Opnd) (st : State) : Host.Outcome State Fault Refusal :=
  runWord (.frsq s d a) (aluA d a fun m a => fFrsq m a) st

/-- FSQRT: Correctly rounded square root (R180). -/
def execFsqrt (s : Bool) (d : Dst) (a : Opnd) (st : State) : Host.Outcome State Fault Refusal :=
  runWord (.fsqrt s d a) (aluA d a fun m a => fFsqrt m a) st

/-- FEXP2: Correctly rounded 2^x (R180). -/
def execFexp2 (s : Bool) (d : Dst) (a : Opnd) (st : State) : Host.Outcome State Fault Refusal :=
  runWord (.fexp2 s d a) (aluA d a fun m a => fFexp2 m a) st

/-- FLOG2: Correctly rounded log2 x (R180). -/
def execFlog2 (s : Bool) (d : Dst) (a : Opnd) (st : State) : Host.Outcome State Fault Refusal :=
  runWord (.flog2 s d a) (aluA d a fun m a => fFlog2 m a) st

/-- FSIN2PI: Correctly rounded sin(2πx) (R180). -/
def execFsin2pi (s : Bool) (d : Dst) (a : Opnd) (st : State) : Host.Outcome State Fault Refusal :=
  runWord (.fsin2pi s d a) (aluA d a fun m a => fFsin2pi m a) st

/-- FCOS2PI: Correctly rounded cos(2πx) (R180). -/
def execFcos2pi (s : Bool) (d : Dst) (a : Opnd) (st : State) : Host.Outcome State Fault Refusal :=
  runWord (.fcos2pi s d a) (aluA d a fun m a => fFcos2pi m a) st

/-- FTANH: Correctly rounded tanh x (R180). -/
def execFtanh (s : Bool) (d : Dst) (a : Opnd) (st : State) : Host.Outcome State Fault Refusal :=
  runWord (.ftanh s d a) (aluA d a fun m a => fFtanh m a) st

/-- FDIV: Correctly rounded a/b (R180). -/
def execFdiv (s : Bool) (d : Dst) (a : Opnd) (b : Opnd) (st : State) : Host.Outcome State Fault Refusal :=
  runWord (.fdiv s d a b) (aluAB d a b fun m a b => fFdiv m a b) st

/-- HADD2_BF: Element-wise BF16 pair add (R182). -/
def execHadd2Bf (s : Bool) (d : Dst) (a : Opnd) (b : Opnd) (st : State) : Host.Outcome State Fault Refusal :=
  runWord (.hadd2Bf s d a b) (aluAB d a b fun m a b => packed2 (fun _ a b => bf16.add m a b) 0 a b) st

/-- HSUB2_BF: Element-wise BF16 pair subtract (R182). -/
def execHsub2Bf (s : Bool) (d : Dst) (a : Opnd) (b : Opnd) (st : State) : Host.Outcome State Fault Refusal :=
  runWord (.hsub2Bf s d a b) (aluAB d a b fun m a b => packed2 (fun _ a b => bf16.sub m a b) 0 a b) st

/-- HMUL2_BF: Element-wise BF16 pair multiply (R182). -/
def execHmul2Bf (s : Bool) (d : Dst) (a : Opnd) (b : Opnd) (st : State) : Host.Outcome State Fault Refusal :=
  runWord (.hmul2Bf s d a b) (aluAB d a b fun m a b => packed2 (fun _ a b => bf16.mul m a b) 0 a b) st

/-- HFMA2_BF: Element-wise BF16 pair fused multiply-add (R182). -/
def execHfma2Bf (s : Bool) (d : Dst) (a : Opnd) (b : Opnd) (st : State) : Host.Outcome State Fault Refusal :=
  runWord (.hfma2Bf s d a b) (aluDAB d a b fun m d a b => packed2 (bf16.fma m) d a b) st

/-- HMIN2_BF: Element-wise BF16 minimumNumber (R182). -/
def execHmin2Bf (s : Bool) (d : Dst) (a : Opnd) (b : Opnd) (st : State) : Host.Outcome State Fault Refusal :=
  runWord (.hmin2Bf s d a b) (aluAB d a b fun m a b => packed2 (fun _ a b => bf16.minNum m.ftz a b) 0 a b) st

/-- HMAX2_BF: Element-wise BF16 maximumNumber (R182). -/
def execHmax2Bf (s : Bool) (d : Dst) (a : Opnd) (b : Opnd) (st : State) : Host.Outcome State Fault Refusal :=
  runWord (.hmax2Bf s d a b) (aluAB d a b fun m a b => packed2 (fun _ a b => bf16.maxNum m.ftz a b) 0 a b) st

/-- HADD2_H: Element-wise FP16 pair add (R182). -/
def execHadd2H (s : Bool) (d : Dst) (a : Opnd) (b : Opnd) (st : State) : Host.Outcome State Fault Refusal :=
  runWord (.hadd2H s d a b) (aluAB d a b fun m a b => packed2 (fun _ a b => fp16.add m a b) 0 a b) st

/-- HSUB2_H: Element-wise FP16 pair subtract (R182). -/
def execHsub2H (s : Bool) (d : Dst) (a : Opnd) (b : Opnd) (st : State) : Host.Outcome State Fault Refusal :=
  runWord (.hsub2H s d a b) (aluAB d a b fun m a b => packed2 (fun _ a b => fp16.sub m a b) 0 a b) st

/-- HMUL2_H: Element-wise FP16 pair multiply (R182). -/
def execHmul2H (s : Bool) (d : Dst) (a : Opnd) (b : Opnd) (st : State) : Host.Outcome State Fault Refusal :=
  runWord (.hmul2H s d a b) (aluAB d a b fun m a b => packed2 (fun _ a b => fp16.mul m a b) 0 a b) st

/-- HFMA2_H: Element-wise FP16 pair fused multiply-add (R182). -/
def execHfma2H (s : Bool) (d : Dst) (a : Opnd) (b : Opnd) (st : State) : Host.Outcome State Fault Refusal :=
  runWord (.hfma2H s d a b) (aluDAB d a b fun m d a b => packed2 (fp16.fma m) d a b) st

/-- HMIN2_H: Element-wise FP16 minimumNumber (R182). -/
def execHmin2H (s : Bool) (d : Dst) (a : Opnd) (b : Opnd) (st : State) : Host.Outcome State Fault Refusal :=
  runWord (.hmin2H s d a b) (aluAB d a b fun m a b => packed2 (fun _ a b => fp16.minNum m.ftz a b) 0 a b) st

/-- HMAX2_H: Element-wise FP16 maximumNumber (R182). -/
def execHmax2H (s : Bool) (d : Dst) (a : Opnd) (b : Opnd) (st : State) : Host.Outcome State Fault Refusal :=
  runWord (.hmax2H s d a b) (aluAB d a b fun m a b => packed2 (fun _ a b => fp16.maxNum m.ftz a b) 0 a b) st

/-- CFMA: Complex FP32 multiply-accumulate (R183). -/
def execCfma (s : Bool) (d : Dst) (a : Opnd) (b : Opnd) (st : State) : Host.Outcome State Fault Refusal :=
  runWord (.cfma s d a b) (aluPair d fun t => cplx t.fmode (some (t.oldPair d)) false (t.pair a) (t.pair b)) st

/-- CFMS: Complex FP32 multiply-subtract (R183). -/
def execCfms (s : Bool) (d : Dst) (a : Opnd) (b : Opnd) (st : State) : Host.Outcome State Fault Refusal :=
  runWord (.cfms s d a b) (aluPair d fun t => cplx t.fmode (some (t.oldPair d)) true (t.pair a) (t.pair b)) st

/-- CMUL: Complex FP32 multiply (R183). -/
def execCmul (s : Bool) (d : Dst) (a : Opnd) (b : Opnd) (st : State) : Host.Outcome State Fault Refusal :=
  runWord (.cmul s d a b) (aluPair d fun t => cplx t.fmode none false (t.pair a) (t.pair b)) st

/-- F2I: Converts FP32 to a saturated signed integer (R184). -/
def execF2i (s : Bool) (d : Dst) (a : Opnd) (st : State) : Host.Outcome State Fault Refusal :=
  runWord (.f2i s d a) (aluA d a fun m a => fToInt m minI32 maxI32 a) st

/-- F2U: Converts FP32 to a saturated unsigned integer (R184). -/
def execF2u (s : Bool) (d : Dst) (a : Opnd) (st : State) : Host.Outcome State Fault Refusal :=
  runWord (.f2u s d a) (aluA d a fun m a => fToInt m 0 4294967295 a) st

/-- I2F: Converts a signed integer to FP32 (R185). -/
def execI2f (s : Bool) (d : Dst) (a : Opnd) (st : State) : Host.Outcome State Fault Refusal :=
  runWord (.i2f s d a) (aluA d a fun m a => fOfInt m.rnd a.toInt) st

/-- U2F: Converts an unsigned integer to FP32 (R185). -/
def execU2f (s : Bool) (d : Dst) (a : Opnd) (st : State) : Host.Outcome State Fault Refusal :=
  runWord (.u2f s d a) (aluA d a fun m a => fOfInt m.rnd a.toNat) st

/-- F2BF: Rounds two FP32 values into a BF16 pair (R186). -/
def execF2bf (s : Bool) (d : Dst) (a : Opnd) (b : Opnd) (st : State) : Host.Outcome State Fault Refusal :=
  runWord (.f2bf s d a b) (aluAB d a b fun m a b => fF2x bf16 m a b) st

/-- BF2F: Converts BF16 element 0 to FP32 (R186). -/
def execBf2f (s : Bool) (d : Dst) (a : Opnd) (st : State) : Host.Outcome State Fault Refusal :=
  runWord (.bf2f s d a) (aluA d a fun m a => fX2f bf16 m.ftz (bits a.toNat 15 0)) st

/-- F2H: Rounds two FP32 values into an FP16 pair (R186). -/
def execF2h (s : Bool) (d : Dst) (a : Opnd) (b : Opnd) (st : State) : Host.Outcome State Fault Refusal :=
  runWord (.f2h s d a b) (aluAB d a b fun m a b => fF2x fp16 m a b) st

/-- H2F: Converts FP16 element 0 to FP32 (R186). -/
def execH2f (s : Bool) (d : Dst) (a : Opnd) (st : State) : Host.Outcome State Fault Refusal :=
  runWord (.h2f s d a) (aluA d a fun m a => fX2f fp16 m.ftz (bits a.toNat 15 0)) st

/-- F2E4: Rounds two FP32 values to E4M3 and shifts them in from the top (R187). -/
def execF2e4 (s : Bool) (d : Dst) (a : Opnd) (b : Opnd) (st : State) : Host.Outcome State Fault Refusal :=
  runWord (.f2e4 s d a b) (aluDAB d a b fun m d a b => fF2e e4m3 m d a b) st

/-- E42F: Converts an E4M3 byte to FP32 (R187). -/
def execE42f (s : Bool) (d : Dst) (a : Opnd) (st : State) : Host.Outcome State Fault Refusal :=
  runWord (.e42f s d a) (aluA d a fun _ a => fX2f e4m3 false (bits a.toNat 7 0)) st

/-- F2E5: Rounds two FP32 values to E5M2 and shifts them in from the top (R187). -/
def execF2e5 (s : Bool) (d : Dst) (a : Opnd) (b : Opnd) (st : State) : Host.Outcome State Fault Refusal :=
  runWord (.f2e5 s d a b) (aluDAB d a b fun m d a b => fF2e e5m2 m d a b) st

/-- E52F: Converts an E5M2 byte to FP32 (R187). -/
def execE52f (s : Bool) (d : Dst) (a : Opnd) (st : State) : Host.Outcome State Fault Refusal :=
  runWord (.e52f s d a) (aluA d a fun _ a => fX2f e5m2 false (bits a.toNat 7 0)) st

/-- DQNT: Writes integer element times SC9 scale as FP32 (R191). -/
def execDqnt (s : Bool) (d : Dst) (a : Opnd) (b : Opnd) (st : State) : Host.Outcome State Fault Refusal :=
  runWord (.dqnt s d a b) (aluAB d a b fun m a b => fDqnt m a b) st

/-- PACK8: Saturates two values to 8 bits and shifts them in from the top (R188). -/
def execPack8 (s : Bool) (d : Dst) (a : Opnd) (b : Opnd) (st : State) : Host.Outcome State Fault Refusal :=
  runWord (.pack8 s d a b) (aluDAB d a b fun _ d a b => fPack8 d a b) st

/-- FRND: Rounds FP32 to an integral FP32 value (R189). -/
def execFrnd (s : Bool) (d : Dst) (a : Opnd) (st : State) : Host.Outcome State Fault Refusal :=
  runWord (.frnd s d a) (aluA d a fun m a => fFrnd m a) st

end Sys2Proof.Machine
end

