-- ==== Sys2Proof/Machine/IntArith.lean ====
section
/-! DEFINITION. The integer families: IARITH, LOGIC, SHIFT, BITS, IMUL, ICMP, the immediate forms and ADDR (R158 to
R172). Each lane computes alone; nothing but its destination changes (R154). -/

namespace Sys2Proof.Machine

set_option Elab.async false

/-- IADD: d := a + b modulo 2^32 (R158). -/
def execIadd (s : Bool) (d : Dst) (a : Opnd) (b : Opnd) (st : State) : Host.Outcome State Fault Refusal :=
  runWord (.iadd s d a b) (aluAB d a b fun _ a b => a + b) st

/-- ISUB: d := a − b modulo 2^32 (R158). -/
def execIsub (s : Bool) (d : Dst) (a : Opnd) (b : Opnd) (st : State) : Host.Outcome State Fault Refusal :=
  runWord (.isub s d a b) (aluAB d a b fun _ a b => a - b) st

/-- IADDS: Signed saturating add (R158). -/
def execIadds (s : Bool) (d : Dst) (a : Opnd) (b : Opnd) (st : State) : Host.Outcome State Fault Refusal :=
  runWord (.iadds s d a b) (aluAB d a b fun _ a b => fIadds a b) st

/-- ISUBS: Signed saturating subtract (R158). -/
def execIsubs (s : Bool) (d : Dst) (a : Opnd) (b : Opnd) (st : State) : Host.Outcome State Fault Refusal :=
  runWord (.isubs s d a b) (aluAB d a b fun _ a b => fIsubs a b) st

/-- UADDS: Unsigned saturating add (R158). -/
def execUadds (s : Bool) (d : Dst) (a : Opnd) (b : Opnd) (st : State) : Host.Outcome State Fault Refusal :=
  runWord (.uadds s d a b) (aluAB d a b fun _ a b => fUadds a b) st

/-- USUBS: Unsigned saturating subtract (R158). -/
def execUsubs (s : Bool) (d : Dst) (a : Opnd) (b : Opnd) (st : State) : Host.Outcome State Fault Refusal :=
  runWord (.usubs s d a b) (aluAB d a b fun _ a b => fUsubs a b) st

/-- IMIN: Signed minimum (R158). -/
def execImin (s : Bool) (d : Dst) (a : Opnd) (b : Opnd) (st : State) : Host.Outcome State Fault Refusal :=
  runWord (.imin s d a b) (aluAB d a b fun _ a b => fImin a b) st

/-- IMAX: Signed maximum (R158). -/
def execImax (s : Bool) (d : Dst) (a : Opnd) (b : Opnd) (st : State) : Host.Outcome State Fault Refusal :=
  runWord (.imax s d a b) (aluAB d a b fun _ a b => fImax a b) st

/-- UMIN: Unsigned minimum (R158). -/
def execUmin (s : Bool) (d : Dst) (a : Opnd) (b : Opnd) (st : State) : Host.Outcome State Fault Refusal :=
  runWord (.umin s d a b) (aluAB d a b fun _ a b => fUmin a b) st

/-- UMAX: Unsigned maximum (R158). -/
def execUmax (s : Bool) (d : Dst) (a : Opnd) (b : Opnd) (st : State) : Host.Outcome State Fault Refusal :=
  runWord (.umax s d a b) (aluAB d a b fun _ a b => fUmax a b) st

/-- IABS: Signed absolute value (R158). -/
def execIabs (s : Bool) (d : Dst) (a : Opnd) (st : State) : Host.Outcome State Fault Refusal :=
  runWord (.iabs s d a) (aluA d a fun _ a => fIabs a) st

/-- INEG: Signed negation (R158). -/
def execIneg (s : Bool) (d : Dst) (a : Opnd) (st : State) : Host.Outcome State Fault Refusal :=
  runWord (.ineg s d a) (aluA d a fun _ a => fIneg a) st

/-- IDIFF: Absolute difference of signed values, as unsigned (R158). -/
def execIdiff (s : Bool) (d : Dst) (a : Opnd) (b : Opnd) (st : State) : Host.Outcome State Fault Refusal :=
  runWord (.idiff s d a b) (aluAB d a b fun _ a b => fIdiff a b) st

/-- AND: Bitwise AND (R159). -/
def execAnd (s : Bool) (d : Dst) (a : Opnd) (b : Opnd) (st : State) : Host.Outcome State Fault Refusal :=
  runWord (.and s d a b) (aluAB d a b fun _ a b => a &&& b) st

/-- OR: Bitwise OR (R159). -/
def execOr (s : Bool) (d : Dst) (a : Opnd) (b : Opnd) (st : State) : Host.Outcome State Fault Refusal :=
  runWord (.or s d a b) (aluAB d a b fun _ a b => a ||| b) st

/-- XOR: Bitwise exclusive OR (R159). -/
def execXor (s : Bool) (d : Dst) (a : Opnd) (b : Opnd) (st : State) : Host.Outcome State Fault Refusal :=
  runWord (.xor s d a b) (aluAB d a b fun _ a b => a ^^^ b) st

/-- ANDN: a AND NOT b (R159). -/
def execAndn (s : Bool) (d : Dst) (a : Opnd) (b : Opnd) (st : State) : Host.Outcome State Fault Refusal :=
  runWord (.andn s d a b) (aluAB d a b fun _ a b => fAndn a b) st

/-- ORN: a OR NOT b (R159). -/
def execOrn (s : Bool) (d : Dst) (a : Opnd) (b : Opnd) (st : State) : Host.Outcome State Fault Refusal :=
  runWord (.orn s d a b) (aluAB d a b fun _ a b => fOrn a b) st

/-- XNOR: NOT (a XOR b) (R159). -/
def execXnor (s : Bool) (d : Dst) (a : Opnd) (b : Opnd) (st : State) : Host.Outcome State Fault Refusal :=
  runWord (.xnor s d a b) (aluAB d a b fun _ a b => fXnor a b) st

/-- NOT: Bitwise NOT of a (R159). -/
def execNot (s : Bool) (d : Dst) (a : Opnd) (st : State) : Host.Outcome State Fault Refusal :=
  runWord (.not s d a) (aluA d a fun _ a => ~~~a) st

/-- SHL: Shifts left by a register amount (R160). -/
def execShl (s : Bool) (d : Dst) (a : Opnd) (b : Opnd) (st : State) : Host.Outcome State Fault Refusal :=
  runWord (.shl s d a b) (aluAB d a b fun _ a b => fShl a b.toNat) st

/-- SHR: Logical right shift by a register amount (R160). -/
def execShr (s : Bool) (d : Dst) (a : Opnd) (b : Opnd) (st : State) : Host.Outcome State Fault Refusal :=
  runWord (.shr s d a b) (aluAB d a b fun _ a b => fShr a b.toNat) st

/-- SAR: Arithmetic right shift by a register amount (R160). -/
def execSar (s : Bool) (d : Dst) (a : Opnd) (b : Opnd) (st : State) : Host.Outcome State Fault Refusal :=
  runWord (.sar s d a b) (aluAB d a b fun _ a b => fSar a b.toNat) st

/-- ROL: Rotate left (R160). -/
def execRol (s : Bool) (d : Dst) (a : Opnd) (b : Opnd) (st : State) : Host.Outcome State Fault Refusal :=
  runWord (.rol s d a b) (aluAB d a b fun _ a b => fRol a b.toNat) st

/-- ROR: Rotate right (R160). -/
def execRor (s : Bool) (d : Dst) (a : Opnd) (b : Opnd) (st : State) : Host.Outcome State Fault Refusal :=
  runWord (.ror s d a b) (aluAB d a b fun _ a b => fRor a b.toNat) st

/-- POPC: Counts the 1 bits of a (R161). -/
def execPopc (s : Bool) (d : Dst) (a : Opnd) (st : State) : Host.Outcome State Fault Refusal :=
  runWord (.popc s d a) (aluA d a fun _ a => fPopc a) st

/-- CLZ: Counts leading zeros (R161). -/
def execClz (s : Bool) (d : Dst) (a : Opnd) (st : State) : Host.Outcome State Fault Refusal :=
  runWord (.clz s d a) (aluA d a fun _ a => fClz a) st

/-- CTZ: Counts trailing zeros (R161). -/
def execCtz (s : Bool) (d : Dst) (a : Opnd) (st : State) : Host.Outcome State Fault Refusal :=
  runWord (.ctz s d a) (aluA d a fun _ a => fCtz a) st

/-- BREV: Reverses the bit order (R161). -/
def execBrev (s : Bool) (d : Dst) (a : Opnd) (st : State) : Host.Outcome State Fault Refusal :=
  runWord (.brev s d a) (aluA d a fun _ a => fBrev a) st

/-- BFE: Extracts a signed bit field (R162). -/
def execBfe (s : Bool) (d : Dst) (a : Opnd) (b : Opnd) (st : State) : Host.Outcome State Fault Refusal :=
  runWord (.bfe s d a b) (aluAB d a b fun _ a b => fBfe a b) st

/-- BFEU: Extracts an unsigned bit field (R162). -/
def execBfeu (s : Bool) (d : Dst) (a : Opnd) (b : Opnd) (st : State) : Host.Outcome State Fault Refusal :=
  runWord (.bfeu s d a b) (aluAB d a b fun _ a b => fBfeu a b) st

/-- BFI: Inserts the low bits of a into D (R163). -/
def execBfi (s : Bool) (d : Dst) (a : Opnd) (b : Opnd) (st : State) : Host.Outcome State Fault Refusal :=
  runWord (.bfi s d a b) (aluDAB d a b fun _ d a b => fBfi d a b) st

/-- BPERM: Builds each byte of d from the bytes of a and D (R164). -/
def execBperm (s : Bool) (d : Dst) (a : Opnd) (b : Opnd) (st : State) : Host.Outcome State Fault Refusal :=
  runWord (.bperm s d a b) (aluDAB d a b fun _ d a b => fBperm d a b) st

/-- BSWAP: Reverses the byte order (R161). -/
def execBswap (s : Bool) (d : Dst) (a : Opnd) (st : State) : Host.Outcome State Fault Refusal :=
  runWord (.bswap s d a) (aluA d a fun _ a => fBswap a) st

/-- IMUL: Low 32 bits of the product (R165). -/
def execImul (s : Bool) (d : Dst) (a : Opnd) (b : Opnd) (st : State) : Host.Outcome State Fault Refusal :=
  runWord (.imul s d a b) (aluAB d a b fun _ a b => a * b) st

/-- IMULHI: High 32 bits of the signed product (R165). -/
def execImulhi (s : Bool) (d : Dst) (a : Opnd) (b : Opnd) (st : State) : Host.Outcome State Fault Refusal :=
  runWord (.imulhi s d a b) (aluAB d a b fun _ a b => fImulhi a b) st

/-- UMULHI: High 32 bits of the unsigned product (R165). -/
def execUmulhi (s : Bool) (d : Dst) (a : Opnd) (b : Opnd) (st : State) : Host.Outcome State Fault Refusal :=
  runWord (.umulhi s d a b) (aluAB d a b fun _ a b => fUmulhi a b) st

/-- IMAD: d := d + a·b modulo 2^32 (R165). -/
def execImad (s : Bool) (d : Dst) (a : Opnd) (b : Opnd) (st : State) : Host.Outcome State Fault Refusal :=
  runWord (.imad s d a b) (aluDAB d a b fun _ d a b => fImad d a b) st

/-- UMADW: Unsigned 64-bit multiply-accumulate into a pair (R165). -/
def execUmadw (s : Bool) (d : Dst) (a : Opnd) (b : Opnd) (st : State) : Host.Outcome State Fault Refusal :=
  runWord (.umadw s d a b) (aluPair d fun t => fUmadw (t.oldPair d) (t.src a) (t.src b)) st

/-- IMADW: Signed 64-bit multiply-accumulate into a pair (R165). -/
def execImadw (s : Bool) (d : Dst) (a : Opnd) (b : Opnd) (st : State) : Host.Outcome State Fault Refusal :=
  runWord (.imadw s d a b) (aluPair d fun t => fImadw (t.oldPair d) (t.src a) (t.src b)) st

/-- IDOT4: Signed four-element 8-bit dot product, accumulated into D (R166). -/
def execIdot4 (s : Bool) (d : Dst) (a : Opnd) (b : Opnd) (st : State) : Host.Outcome State Fault Refusal :=
  runWord (.idot4 s d a b) (aluDAB d a b fun m d a b => fIdot4 m.sat d a b) st

/-- UDOT4: Unsigned four-element 8-bit dot product, accumulated into D (R166). -/
def execUdot4 (s : Bool) (d : Dst) (a : Opnd) (b : Opnd) (st : State) : Host.Outcome State Fault Refusal :=
  runWord (.udot4 s d a b) (aluDAB d a b fun m d a b => fUdot4 m.sat d a b) st

/-- ISET_EQ: Writes 1 when the bit patterns are equal (R167). -/
def execIsetEq (s : Bool) (d : Dst) (a : Opnd) (b : Opnd) (st : State) : Host.Outcome State Fault Refusal :=
  runWord (.isetEq s d a b) (aluAB d a b fun _ a b => flag (a = b)) st

/-- ISET_NE: Writes 1 when the bit patterns differ (R167). -/
def execIsetNe (s : Bool) (d : Dst) (a : Opnd) (b : Opnd) (st : State) : Host.Outcome State Fault Refusal :=
  runWord (.isetNe s d a b) (aluAB d a b fun _ a b => flag (a ≠ b)) st

/-- ISET_LT: Signed less-than compare (R167). -/
def execIsetLt (s : Bool) (d : Dst) (a : Opnd) (b : Opnd) (st : State) : Host.Outcome State Fault Refusal :=
  runWord (.isetLt s d a b) (aluAB d a b fun _ a b => fIset (· < ·) a b) st

/-- ISET_LE: Signed less-or-equal compare (R167). -/
def execIsetLe (s : Bool) (d : Dst) (a : Opnd) (b : Opnd) (st : State) : Host.Outcome State Fault Refusal :=
  runWord (.isetLe s d a b) (aluAB d a b fun _ a b => fIset (· ≤ ·) a b) st

/-- ISET_GT: Signed greater-than compare (R167). -/
def execIsetGt (s : Bool) (d : Dst) (a : Opnd) (b : Opnd) (st : State) : Host.Outcome State Fault Refusal :=
  runWord (.isetGt s d a b) (aluAB d a b fun _ a b => fIset (· > ·) a b) st

/-- ISET_GE: Signed greater-or-equal compare (R167). -/
def execIsetGe (s : Bool) (d : Dst) (a : Opnd) (b : Opnd) (st : State) : Host.Outcome State Fault Refusal :=
  runWord (.isetGe s d a b) (aluAB d a b fun _ a b => fIset (· ≥ ·) a b) st

/-- USET_LT: Unsigned less-than compare (R167). -/
def execUsetLt (s : Bool) (d : Dst) (a : Opnd) (b : Opnd) (st : State) : Host.Outcome State Fault Refusal :=
  runWord (.usetLt s d a b) (aluAB d a b fun _ a b => fUset (· < ·) a b) st

/-- USET_LE: Unsigned less-or-equal compare (R167). -/
def execUsetLe (s : Bool) (d : Dst) (a : Opnd) (b : Opnd) (st : State) : Host.Outcome State Fault Refusal :=
  runWord (.usetLe s d a b) (aluAB d a b fun _ a b => fUset (· ≤ ·) a b) st

/-- USET_GT: Unsigned greater-than compare (R167). -/
def execUsetGt (s : Bool) (d : Dst) (a : Opnd) (b : Opnd) (st : State) : Host.Outcome State Fault Refusal :=
  runWord (.usetGt s d a b) (aluAB d a b fun _ a b => fUset (· > ·) a b) st

/-- USET_GE: Unsigned greater-or-equal compare (R167). -/
def execUsetGe (s : Bool) (d : Dst) (a : Opnd) (b : Opnd) (st : State) : Host.Outcome State Fault Refusal :=
  runWord (.usetGe s d a b) (aluAB d a b fun _ a b => fUset (· ≥ ·) a b) st

/-- SEL: Selects a when D is non-zero, else b (R168). -/
def execSel (s : Bool) (d : Dst) (a : Opnd) (b : Opnd) (st : State) : Host.Outcome State Fault Refusal :=
  runWord (.sel s d a b) (aluDAB d a b fun _ d a b => fSel d a b) st

/-- IADDI: Adds a sign-extended or HINT-widened immediate (R169). -/
def execIaddi (s : Bool) (d : Dst) (a : Opnd) (imm : BitVec 11) (st : State) : Host.Outcome State Fault Refusal :=
  runWord (.iaddi s d a imm) (aluWord d fun t => t.src a + immS imm t.hImm) st

/-- ANDI: ANDs with a zero-extended or HINT-widened immediate (R169). -/
def execAndi (s : Bool) (d : Dst) (a : Opnd) (imm : BitVec 11) (st : State) : Host.Outcome State Fault Refusal :=
  runWord (.andi s d a imm) (aluWord d fun t => t.src a &&& immZ imm t.hImm) st

/-- ORI: ORs with a zero-extended or HINT-widened immediate (R169). -/
def execOri (s : Bool) (d : Dst) (a : Opnd) (imm : BitVec 11) (st : State) : Host.Outcome State Fault Refusal :=
  runWord (.ori s d a imm) (aluWord d fun t => t.src a ||| immZ imm t.hImm) st

/-- XORI: XORs with a zero-extended or HINT-widened immediate (R169). -/
def execXori (s : Bool) (d : Dst) (a : Opnd) (imm : BitVec 11) (st : State) : Host.Outcome State Fault Refusal :=
  runWord (.xori s d a imm) (aluWord d fun t => t.src a ^^^ immZ imm t.hImm) st

/-- SHLI: Shifts left by an immediate amount (R170). -/
def execShli (s : Bool) (d : Dst) (a : Opnd) (n : BitVec 5) (st : State) : Host.Outcome State Fault Refusal :=
  runWord (.shli s d a n) (aluWord d fun t => fShl (t.src a) n.toNat) st

/-- SHRI: Logical right shift by an immediate amount (R170). -/
def execShri (s : Bool) (d : Dst) (a : Opnd) (n : BitVec 5) (st : State) : Host.Outcome State Fault Refusal :=
  runWord (.shri s d a n) (aluWord d fun t => fShr (t.src a) n.toNat) st

/-- SARI: Arithmetic right shift by an immediate amount (R170). -/
def execSari (s : Bool) (d : Dst) (a : Opnd) (n : BitVec 5) (st : State) : Host.Outcome State Fault Refusal :=
  runWord (.sari s d a n) (aluWord d fun t => fSar (t.src a) n.toNat) st

/-- ROLI: Rotate left by an immediate amount (R170). -/
def execRoli (s : Bool) (d : Dst) (a : Opnd) (n : BitVec 5) (st : State) : Host.Outcome State Fault Refusal :=
  runWord (.roli s d a n) (aluWord d fun t => fRol (t.src a) n.toNat) st

/-- RORI: Rotate right by an immediate amount (R170). -/
def execRori (s : Bool) (d : Dst) (a : Opnd) (n : BitVec 5) (st : State) : Host.Outcome State Fault Refusal :=
  runWord (.rori s d a n) (aluWord d fun t => fRor (t.src a) n.toNat) st

/-- MOVI: Writes a sign-extended 18-bit immediate (R171). -/
def execMovi (s : Bool) (d : Dst) (imm : BitVec 18) (st : State) : Host.Outcome State Fault Refusal :=
  runWord (.movi s d imm) (aluWord d fun _ => fMovi imm) st

/-- MOVHI: Writes IMM18·2^14 + D[13:0] (R171). -/
def execMovhi (s : Bool) (d : Dst) (imm : BitVec 18) (st : State) : Host.Outcome State Fault Refusal :=
  runWord (.movhi s d imm) (aluWord d fun t => fMovhi (t.old d) imm) st

/-- ADDP: Adds a sign-extended offset to a 64-bit address (R172). -/
def execAddp (s : Bool) (d : Dst) (a : Opnd) (b : Opnd) (st : State) : Host.Outcome State Fault Refusal :=
  runWord (.addp s d a b) (aluPair d fun t => fLeap 0 (t.pair a) (t.src b)) st

/-- ADDPS: Adds to a scratch address, wrapping the 18-bit offset (R172). -/
def execAddps (s : Bool) (d : Dst) (a : Opnd) (b : Opnd) (st : State) : Host.Outcome State Fault Refusal :=
  runWord (.addps s d a b) (aluAB d a b fun _ a b => fAddps a b) st

/-- LEAP1: Adds a scaled offset (×2) to an address (R172). -/
def execLeap1 (s : Bool) (d : Dst) (a : Opnd) (b : Opnd) (st : State) : Host.Outcome State Fault Refusal :=
  runWord (.leap1 s d a b) (aluPair d fun t => fLeap 1 (t.pair a) (t.src b)) st

/-- LEAP2: Adds a scaled offset (×4) to an address (R172). -/
def execLeap2 (s : Bool) (d : Dst) (a : Opnd) (b : Opnd) (st : State) : Host.Outcome State Fault Refusal :=
  runWord (.leap2 s d a b) (aluPair d fun t => fLeap 2 (t.pair a) (t.src b)) st

/-- LEAP3: Adds a scaled offset (×8) to an address (R172). -/
def execLeap3 (s : Bool) (d : Dst) (a : Opnd) (b : Opnd) (st : State) : Host.Outcome State Fault Refusal :=
  runWord (.leap3 s d a b) (aluPair d fun t => fLeap 3 (t.pair a) (t.src b)) st

/-- LEAP4: Adds a scaled offset (×16) to an address (R172). -/
def execLeap4 (s : Bool) (d : Dst) (a : Opnd) (b : Opnd) (st : State) : Host.Outcome State Fault Refusal :=
  runWord (.leap4 s d a b) (aluPair d fun t => fLeap 4 (t.pair a) (t.src b)) st

/-- SUBP: Subtracts two 64-bit addresses (R172). -/
def execSubp (s : Bool) (d : Dst) (a : Opnd) (b : Opnd) (st : State) : Host.Outcome State Fault Refusal :=
  runWord (.subp s d a b) (aluPair d fun t => t.pair a - t.pair b) st

end Sys2Proof.Machine
end

