-- ==== Sys2Proof/Machine/Glomer.lean ====
section
/-! DEFINITION. A Glomer word (R112 to R115): its NATIVE half with the virtual register numbers in its register fields is
one instruction word, which has its own meaning; the bundle is one of Glomer form, so that each beat takes twice the
cycles and the register limits are those of R113. -/

namespace Sys2Proof.Machine

set_option Elab.async false

/-- A word of Glomer form that is no instruction (R110, R114), or for which no bundle streams. -/
def badGlomer (s : State) : Host.Outcome State Fault Refusal :=
  match s.focus with
  | none => .fault .noBundle
  | some k => .next (badWord k s)

/-- What the instruction of a Glomer word does: the meaning of that instruction word. -/
def runNative (i : Instr) (s : State) : Host.Outcome State Fault Refusal :=
  match i with
  | .hintImm p => execHintImm p s
  | .hintOff p => execHintOff p s
  | .hintMod rov pol sat ftz rnd => execHintMod rov pol sat ftz rnd s
  | .hintPrio p => execHintPrio p s
  | .pblk c n p => execPblk c n p s
  | .bra sb disp => execBra sb disp s
  | .brz sb a disp => execBrz sb a disp s
  | .brnz sb a disp => execBrnz sb a disp s
  | .call sb l disp => execCall sb l disp s
  | .brx sb a => execBrx sb a s
  | .ret sb a => execRet sb a s
  | .callx sb d a => execCallx sb d a s
  | .nop sb => execNop sb s
  | .exit sb => execExit sb s
  | .trap sb a => execTrap sb a s
  | .syscall d a b => execSyscall d a b s
  | .bkpt sb => execBkpt sb s
  | .iflush => execIflush s
  | .join sb n => execJoin sb n s
  | .jset sb n b => execJset sb n b s
  | .jget sb d n => execJget sb d n s
  | .jleave sb n => execJleave sb n s
  | .sread sb d c => execSread sb d c s
  | .swrite sb c b => execSwrite sb c b s
  | .iadd sb d a b => execIadd sb d a b s
  | .isub sb d a b => execIsub sb d a b s
  | .iadds sb d a b => execIadds sb d a b s
  | .isubs sb d a b => execIsubs sb d a b s
  | .uadds sb d a b => execUadds sb d a b s
  | .usubs sb d a b => execUsubs sb d a b s
  | .imin sb d a b => execImin sb d a b s
  | .imax sb d a b => execImax sb d a b s
  | .umin sb d a b => execUmin sb d a b s
  | .umax sb d a b => execUmax sb d a b s
  | .iabs sb d a => execIabs sb d a s
  | .ineg sb d a => execIneg sb d a s
  | .idiff sb d a b => execIdiff sb d a b s
  | .and sb d a b => execAnd sb d a b s
  | .or sb d a b => execOr sb d a b s
  | .xor sb d a b => execXor sb d a b s
  | .andn sb d a b => execAndn sb d a b s
  | .orn sb d a b => execOrn sb d a b s
  | .xnor sb d a b => execXnor sb d a b s
  | .not sb d a => execNot sb d a s
  | .shl sb d a b => execShl sb d a b s
  | .shr sb d a b => execShr sb d a b s
  | .sar sb d a b => execSar sb d a b s
  | .rol sb d a b => execRol sb d a b s
  | .ror sb d a b => execRor sb d a b s
  | .popc sb d a => execPopc sb d a s
  | .clz sb d a => execClz sb d a s
  | .ctz sb d a => execCtz sb d a s
  | .brev sb d a => execBrev sb d a s
  | .bfe sb d a b => execBfe sb d a b s
  | .bfeu sb d a b => execBfeu sb d a b s
  | .bfi sb d a b => execBfi sb d a b s
  | .bperm sb d a b => execBperm sb d a b s
  | .bswap sb d a => execBswap sb d a s
  | .imul sb d a b => execImul sb d a b s
  | .imulhi sb d a b => execImulhi sb d a b s
  | .umulhi sb d a b => execUmulhi sb d a b s
  | .imad sb d a b => execImad sb d a b s
  | .umadw sb d a b => execUmadw sb d a b s
  | .imadw sb d a b => execImadw sb d a b s
  | .idot4 sb d a b => execIdot4 sb d a b s
  | .udot4 sb d a b => execUdot4 sb d a b s
  | .isetEq sb d a b => execIsetEq sb d a b s
  | .isetNe sb d a b => execIsetNe sb d a b s
  | .isetLt sb d a b => execIsetLt sb d a b s
  | .isetLe sb d a b => execIsetLe sb d a b s
  | .isetGt sb d a b => execIsetGt sb d a b s
  | .isetGe sb d a b => execIsetGe sb d a b s
  | .usetLt sb d a b => execUsetLt sb d a b s
  | .usetLe sb d a b => execUsetLe sb d a b s
  | .usetGt sb d a b => execUsetGt sb d a b s
  | .usetGe sb d a b => execUsetGe sb d a b s
  | .sel sb d a b => execSel sb d a b s
  | .iaddi sb d a imm => execIaddi sb d a imm s
  | .andi sb d a imm => execAndi sb d a imm s
  | .ori sb d a imm => execOri sb d a imm s
  | .xori sb d a imm => execXori sb d a imm s
  | .shli sb d a n => execShli sb d a n s
  | .shri sb d a n => execShri sb d a n s
  | .sari sb d a n => execSari sb d a n s
  | .roli sb d a n => execRoli sb d a n s
  | .rori sb d a n => execRori sb d a n s
  | .movi sb d imm => execMovi sb d imm s
  | .movhi sb d imm => execMovhi sb d imm s
  | .addp sb d a b => execAddp sb d a b s
  | .addps sb d a b => execAddps sb d a b s
  | .leap1 sb d a b => execLeap1 sb d a b s
  | .leap2 sb d a b => execLeap2 sb d a b s
  | .leap3 sb d a b => execLeap3 sb d a b s
  | .leap4 sb d a b => execLeap4 sb d a b s
  | .subp sb d a b => execSubp sb d a b s
  | .fadd sb d a b => execFadd sb d a b s
  | .fsub sb d a b => execFsub sb d a b s
  | .fmul sb d a b => execFmul sb d a b s
  | .fmin sb d a b => execFmin sb d a b s
  | .fmax sb d a b => execFmax sb d a b s
  | .fabs sb d a => execFabs sb d a s
  | .fneg sb d a => execFneg sb d a s
  | .fcopysign sb d a b => execFcopysign sb d a b s
  | .ffma sb d a b => execFfma sb d a b s
  | .ffms sb d a b => execFfms sb d a b s
  | .fdot2 sb d a b => execFdot2 sb d a b s
  | .fsetEq sb d a b => execFsetEq sb d a b s
  | .fsetNe sb d a b => execFsetNe sb d a b s
  | .fsetLt sb d a b => execFsetLt sb d a b s
  | .fsetLe sb d a b => execFsetLe sb d a b s
  | .fsetGt sb d a b => execFsetGt sb d a b s
  | .fsetGe sb d a b => execFsetGe sb d a b s
  | .fsetUn sb d a b => execFsetUn sb d a b s
  | .fclass sb d a => execFclass sb d a s
  | .frcp sb d a => execFrcp sb d a s
  | .frsq sb d a => execFrsq sb d a s
  | .fsqrt sb d a => execFsqrt sb d a s
  | .fexp2 sb d a => execFexp2 sb d a s
  | .flog2 sb d a => execFlog2 sb d a s
  | .fsin2pi sb d a => execFsin2pi sb d a s
  | .fcos2pi sb d a => execFcos2pi sb d a s
  | .ftanh sb d a => execFtanh sb d a s
  | .fdiv sb d a b => execFdiv sb d a b s
  | .hadd2Bf sb d a b => execHadd2Bf sb d a b s
  | .hsub2Bf sb d a b => execHsub2Bf sb d a b s
  | .hmul2Bf sb d a b => execHmul2Bf sb d a b s
  | .hfma2Bf sb d a b => execHfma2Bf sb d a b s
  | .hmin2Bf sb d a b => execHmin2Bf sb d a b s
  | .hmax2Bf sb d a b => execHmax2Bf sb d a b s
  | .hadd2H sb d a b => execHadd2H sb d a b s
  | .hsub2H sb d a b => execHsub2H sb d a b s
  | .hmul2H sb d a b => execHmul2H sb d a b s
  | .hfma2H sb d a b => execHfma2H sb d a b s
  | .hmin2H sb d a b => execHmin2H sb d a b s
  | .hmax2H sb d a b => execHmax2H sb d a b s
  | .cfma sb d a b => execCfma sb d a b s
  | .cfms sb d a b => execCfms sb d a b s
  | .cmul sb d a b => execCmul sb d a b s
  | .f2i sb d a => execF2i sb d a s
  | .f2u sb d a => execF2u sb d a s
  | .i2f sb d a => execI2f sb d a s
  | .u2f sb d a => execU2f sb d a s
  | .f2bf sb d a b => execF2bf sb d a b s
  | .bf2f sb d a => execBf2f sb d a s
  | .f2h sb d a b => execF2h sb d a b s
  | .h2f sb d a => execH2f sb d a s
  | .f2e4 sb d a b => execF2e4 sb d a b s
  | .e42f sb d a => execE42f sb d a s
  | .f2e5 sb d a b => execF2e5 sb d a b s
  | .e52f sb d a => execE52f sb d a s
  | .qnt sb d a b => execQnt sb d a b s
  | .dqnt sb d a b => execDqnt sb d a b s
  | .pack8 sb d a b => execPack8 sb d a b s
  | .frnd sb d a => execFrnd sb d a s
  | .shflIdx sb d a b => execShflIdx sb d a b s
  | .shflUp sb d a b => execShflUp sb d a b s
  | .shflDown sb d a b => execShflDown sb d a b s
  | .shflXor sb d a b => execShflXor sb d a b s
  | .voteAll sb d a => execVoteAll sb d a s
  | .voteAny sb d a => execVoteAny sb d a s
  | .voteBallot sb d a => execVoteBallot sb d a s
  | .wredIadd sb d a => execWredIadd sb d a s
  | .wredImax sb d a => execWredImax sb d a s
  | .wredFadd sb d a => execWredFadd sb d a s
  | .wscanIadd sb d a => execWscanIadd sb d a s
  | .wmatch sb d a => execWmatch sb d a s
  | .ld sb d b c z o pol => execLd sb d b c z o pol s
  | .st sb d b c z o pol => execSt sb d b c z o pol s
  | .lds sb d b c z o => execLds sb d b c z o s
  | .sts sb d b c z o => execSts sb d b c z o s
  | .ldm sb d b n scr pol => execLdm sb d b n scr pol s
  | .stm sb d b n scr pol => execStm sb d b n scr pol s
  | .ldc sb d b r z => execLdc sb d b r z s
  | .pref sb a => execPref sb a s
  | .clock sb d a => execClock sb d a s
  | .cunlock sb a => execCunlock sb a s
  | .cflush sb a => execCflush sb a s
  | .cclean sb a => execCclean sb a s
  | .atom d b a op => execAtom d b a op s
  | .red b a op => execRed b a op s
  | .cas d b a => execCas d b a s
  | .cas64 d b a => execCas64 d b a s
  | .fenceAcq sb c => execFenceAcq sb c s
  | .fenceRel c => execFenceRel c s
  | .fenceAcqrel c => execFenceAcqrel c s
  | .fenceSc c => execFenceSc c s
  | .qfence m => execQfence m s
  | .ctradd b a rel c => execCtradd b a rel c s
  | .ctrread sb d b c o => execCtrread sb d b c o s
  | .txbegin sb disp => execTxbegin sb disp s
  | .orelse sb disp => execOrelse sb disp s
  | .txend => execTxend s
  | .retry => execRetry s
  | .txabort a => execTxabort a s
  | .txstat sb d => execTxstat sb d s
  | .copy dt sl c y k => execCopy dt sl c y k s
  | .gather dt sl c y k => execGather dt sl c y k s
  | .scatter dt sl c y k => execScatter dt sl c y k s
  | .combine dt sl c y k => execCombine dt sl c y k s
  | .rinit a b => execRinit a b s
  | .rfill sb d a => execRfill sb d a s
  | .rfree a b => execRfree a b s
  | .rspace sb d a => execRspace sb d a s
  | .rstat sb d a => execRstat sb d a s
  | .launch a => execLaunch a s
  | .mmul bank x y p pair => execMmul bank x y p pair s
  | .mstat x p => execMstat x p s
  | .mstream bank x p pair swapf => execMstream bank x p pair swapf s
  | .mdrain sb bank x p m => execMdrain sb bank x p m s
  | .mzero sb bank p => execMzero sb bank p s
  | .ttset sb a n => execTtset sb a n s
  | .ttget sb d n => execTtget sb d n s
  | .ttclr sb n => execTtclr sb n s
  | .markpush a => execMarkpush a s
  | .markpop => execMarkpop s
  | .markevt a b => execMarkevt a b s
  | .markstat d => execMarkstat d s
  | _ => badGlomer s

/-- GLOMER_WORD: the word decoded under R114, run as its native instruction. -/
def execGlomerWord (w : BitVec 64) (s : State) : Host.Outcome State Fault Refusal :=
  match decodeGlomer w.toNat with
  | some (i, _) => runNative i s
  | none => badGlomer s

end Sys2Proof.Machine
end

