-- ==== Sys2Proof/Machine/Observe.lean ====
section
/-! DEFINITION. Sessions (R431, R432), the trace unit (R439), samples (R441), and the passes of a multi-pass session (R446 to R448). -/

namespace Sys2Proof.Machine

set_option Elab.async false

/-! ### Changes owed to a descriptor (R439, R444) -/

/-- What a session still owes to its descriptor's DROPPED and EVTOT, and to STATE, FLAGS and PASS, is written as far as that can be reached
and no token holder's lines stand in it; what is left. -/
def payDebt (s : State) (die : Nat) (e : Session) (held : Bool) : Session × State :=
  if held then (e, s)
  else
    let (e, s) :=
      if e.dropped = 0 then (e, s)
      else match fieldAdd s die e.vas (e.desc + 0xC8) e.dropped with
        | (some _, s) => ({ e with dropped := 0 }, s)
        | (none, s) => (e, s)
    let (e, s) := e.events.foldl (fun r (p : Nat × Nat) =>
      match fieldRaise r.2 die e.vas (e.desc + 0xE0 + 8 * p.1) p.2 with
      | (true, s) => ({ r.1 with events := mdel r.1.events p.1 }, s)
      | (false, s) => (r.1, s)) (e, s)
    if !e.owes then (e, s)
    else
      let (done, s) := putDesc s e false
      ({ e with owes := !done }, s)

/-- A registered session pays what it owes. -/
def paySession (s : State) (die key : Nat) : State :=
  match mget s.sessions key with
  | none => s
  | some e =>
    let (e, s) := payDebt s die e (obsHolds s key none)
    { s with sessions := mput s.sessions key e }

/-- Nothing is owed any more. -/
def Session.paid (e : Session) : Bool := e.dropped = 0 && e.events = [] && !e.owes

/-- What closed sessions owe; one that owes nothing any more is forgotten. -/
def payDebts (s : State) (die : Nat) : State :=
  s.debts.foldl (fun s e =>
    let (e', s) := payDebt s die e (tokenOn s e.vas (e.ownPage 0) none)
    { s with debts := (s.debts.map fun x => if x = e then e' else x).filter fun x => !x.paid }) s

/-- One record of a session is not written. -/
def dropRecord (s : State) (die key : Nat) : State :=
  if (mget s.sessions key).isNone then s
  else paySession { s with sessions := mmod s.sessions key {} fun e => { e with dropped := e.dropped + 1 } } die key

/-! ### Writing a record (R437, R439) -/

/-- What a write of a record comes to: written or dropped; refused as moved; it must wait. -/
inductive Wrote
  | done | moved | wait
  deriving DecidableEq, Repr

/-- A fault on a session's buffer or descriptor: it is truncated. -/
def truncate (s : State) (die key : Nat) : State := dropRecord (noteSession s key fun e => { e with stat := 2 }) die key

/-- An access of the trace unit: none, and what stands in the way; `fault`: the state in which a fault is met. -/
def traceGate (s fault : State) (die key : Nat) : Gate × Nat × State → (Nat × Nat × Nat) ⊕ (Wrote × State)
  | (.ok l pa, h, _) => .inl (l, pa, h)
  | (.no .moved, _, _) => .inr (.moved, s)
  | (.no .resetting, _, _) => .inr (.wait, s)
  | (.hold, _, _) => .inr (.wait, s)
  | (.no _, _, _) => .inr (.done, truncate fault die key)

/-- One record: room is tested, a slot is claimed, and the record is written, its first word last. -/
def writeRecord (s : State) (die : Nat) (r : TraceRec) : Wrote × State :=
  match mget s.sessions r.session with
  | none => (.done, s)
  | some e =>
    if e.stat = 2 || e.stat = 0 then (.done, dropRecord s die r.session)
    else if obsHolds s r.session none then (.wait, s)
    else
      let n := bits (e.word 8) 4 0
      match traceGate s s die r.session (agentCheck s die e.vas (e.desc + 0xB8) .rw) with
      | .inr x => x
      | .inl (l, pa, h) =>
        let written := s.ram h pa 8
        match traceGate s s die r.session (agentCheck s die e.vas (e.desc + 0xC0) .read) with
        | .inr x => x
        | .inl (_, pc, hc) =>
          if 2 ^ n ≤ written - s.ram hc pc 8 then (.done, dropRecord s die r.session)
          else
            let a := bits (e.word 0) 56 0 + 32 * (written % 2 ^ n)
            let claim (s : State) : State := rawWrite s h e.vas (e.desc + 0xB8) l pa (leBytes 8 (written + 1)) 0xFF
            match traceGate s (claim s) die r.session (agentCheck s die e.vas a .write) with
            | .inr x => x
            | .inl (lb, pb, hb) =>
              match releaseWide s die with
              | (_, false) => (.wait, s)
              | (s, true) =>
              let s := claim s
              let s := rawWrite s hb e.vas (a + 8) lb (pb + 8) (leBytes 8 r.w1 ++ leBytes 8 r.w2 ++ leBytes 8 r.w3) (2 ^ 24 - 1)
              (.done, paySession (noteWrite (rawWrite s hb e.vas a lb pb (leBytes 8 r.w0) 0xFF) hb e.vas a { die := die } (some .domain)) die r.session)

/-- An access that the record's thread made before its word is still to be performed (R256). -/
def TraceRec.early (s : State) (r : TraceRec) : Bool :=
  match r.by' with
  | some (tk, id) => s.reqs.any fun q => q.ofThread tk && q.id < id && !q.performed && q.kind ≠ .pref
  | none => false

/-- The groups of a die whose trace queue's front may be performed, with it. -/
def frontRecords (s : State) (die : Nat) : List (Nat × TraceRec) :=
  s.groups.filterMap fun p =>
    if dieOfCore (coreOfGroup p.1) ≠ die then none
    else
      match p.2.trace with
      | [] => none
      | r :: _ => if s.fenced p.1 3 r.seq || r.early s then none else some (p.1, r)

/-- Records of a session still stand in a die's trace queues. -/
def State.queuedFor (s : State) (die key : Nat) : Bool :=
  s.groups.any fun p => dieOfCore (coreOfGroup p.1) = die && p.2.trace.any fun x => x.session = key

/-- The trace unit holds a record of a session. -/
def State.holdsFor (s : State) (die key : Nat) : Bool := (s.heldRecords die).any fun p => p.2.session = key

/-- A held record may be tried: it is the first of its session; a session's CUT of STOP is behind all its records (R432). -/
def heldReady (s : State) (die : Nat) (p : Nat × TraceRec) : Bool :=
  if p.1 = 7 then !s.queuedFor die p.2.session && !s.holdsFor die p.2.session
  else ((s.heldRecords die).find? fun q => q.2.session = p.2.session) = some p

/-- A held record that is tried: the state when it has been written or dropped. -/
def tryHeld (s : State) (die : Nat) (p : Nat × TraceRec) : Option State :=
  if !heldReady s die p then none
  else
    match writeRecord s die p.2 with
    | (.done, s) => some (s.modDie die fun d => { d with traceHold := d.traceHold.erase p })
    | _ => none

/-- A record leaves a group's queue. -/
def popTrace (s : State) (gk : Nat) : State := s.modGroup gk fun g => { g with trace := g.trace.drop 1 }

/-- A record leaves its group's queue for the hold, which takes 64. -/
def holdFront (s : State) (die : Nat) (p : Nat × TraceRec) : Option State :=
  if 64 ≤ (s.heldRecords die).length then none
  else some ((popTrace s p.1).modDie die fun d => { d with traceHold := d.traceHold ++ [(0, p.2)] })

/-- A queue's front that is tried: written or dropped, or held when it is refused as moved or its session has held records. -/
def tryFront (s : State) (die : Nat) (p : Nat × TraceRec) : Option State :=
  if s.holdsFor die p.2.session then holdFront s die p
  else
    match writeRecord s die p.2 with
    | (.done, s) => some (popTrace s p.1)
    | (.moved, s) => holdFront s die p
    | (.wait, _) => none

/-- What sessions owe to their descriptors is written (R439): those of whose partition the die is the first, and closed ones. -/
def settleDebts (s : State) (die : Nat) : State :=
  payDebts (s.sessions.foldl (fun s p => if (s.members p.2.vas).headD 2048 = die then paySession s die p.1 else s) s) die

/-- TRACE_RECORD_WRITE: a held record that can be written; else a group's next record, written, dropped or held; else what is owed. -/
def execTraceRecordWrite (die : Nat) (s : State) : Host.Outcome State Fault Refusal :=
  if !s.up die then .next s
  else
    match (s.die die).traceHold.findSome? (tryHeld s die) with
    | some t => .next t
    | none =>
      match (frontRecords s die).findSome? (tryFront s die) with
      | some t => .next t
      | none => .next (settleDebts s die)

/-! ### SYSCALL TRACE (R431, R432) -/

/-- The descriptor keeps the limits of R431, with STATE and CONSUMED 0. -/
def sessionOk (e : Session) : Bool :=
  let m := e.mode
  let np := bits (e.word 8) 11 8
  e.word 0 % 4096 = 0 && e.word 0 < 2 ^ 57 && 7 ≤ bits (e.word 8) 4 0 && bits (e.word 8) 4 0 ≤ 26 && !bitOf (e.word 8) 7
    && e.word 8 < 2 ^ 16 && (if m = 1 then 2 ≤ np && np ≤ 8 else np = 0)
    && ((List.range 8).all fun k => e.word (0x10 + 8 * k) < 2 ^ 34)
    && e.word 0x80 % 128 = 0 && e.word 0x88 ≤ 256 && (m ≠ 1 || e.word 0x90 % 4096 = 0) && e.word 0x98 < 2 ^ 32 && e.word 0xB0 < 2 ^ 32
    && e.word 0xC0 = 0 && bits (e.word 0xD0) 2 0 = 0

/-- A SYSCALL of service 6 whose area names an OP; an area that breaks R432 is answered ARG. -/
def onTrace (req op : Nat) (f : Nat → Nat → Req → State → State) (s : State) : Host.Outcome State Fault Refusal :=
  onService req 6 (withArea 32 fun ws r s =>
    let w (i : Nat) : Nat := (ws[i]?).getD 0
    let o := w 0 % 256
    if o = 0 || 4 < o || 2 ^ 11 ≤ w 0 || w 2 ≠ 0 || w 3 ≠ 0 then answerSyscall s r.id errArg
    else if o ≠ op then s
    else f (r.vas * 8 + bits (w 0) 10 8) (w 1) r s) s

/-- The cores of the partition's dies latch the session's start. -/
def latchStarts (s : State) (vas key : Nat) : State :=
  let ms := s.members vas
  { s with cores := s.cores.map fun (c : Nat × Core) =>
      if ms.contains (dieOfCore c.1) then
        (c.1, { c.2 with starts := mput c.2.starts key c.2.cycles, seqs := mput c.2.seqs key 0, samples := mput c.2.samples key 0 })
      else c }

/-- TRACE_OPEN. -/
def execTraceOpen (req : Nat) (s : State) : Host.Outcome State Fault Refusal :=
  onTrace req 1 (fun key desc r s =>
    match mget s.sessions key with
    | some e =>
      if e.desc ≠ desc then answerSyscall s r.id errBusy
      else if e.stat = 1 then answerSyscall s r.id 0
      else answerSyscall s r.id errArg
    | none =>
      if desc % 256 ≠ 0 || 2 ^ 57 ≤ desc then answerSyscall s r.id errArg
      else
        match dispRead s r.die r.vas desc 256 false with
        | (.bytes bs, s) =>
          let e : Session :=
            { vas := r.vas, num := key % 8, desc := desc, words := (List.range 32).map fun i => fieldAt bs (8 * i) 8, stat := 1, pass := 1, reg := s.nextId }
          if !sessionOk e then answerSyscall s r.id errArg
          else
            let s := latchStarts { s with sessions := mput s.sessions key e, nextId := s.nextId + 1 } r.vas key
            answerSyscall (noteSession s key id) r.id 0
        | (.hold, s) => s
        | (_, s) => answerSyscall s r.id errArg) s

/-- At STOP each home logs the runs it has not ended (R452), in ascending line order. -/
def logOpenRuns (die key : Nat) (s : State) : State :=
  let s := (mgetD s.sessions key {}).runs.foldl (fun s p => logChunk s die key p.1 p.2.1 p.2.2) s
  noteSession s key fun e => { e with runs := [] }

/-- The CUT of STOP that a die's trace unit appends, with the count of the die's core 0 (R437). -/
def stopCut (key : Nat) (s : State) (d : Nat) : State :=
  let ck := coreKey d 0
  let r := traceRecord s ck key 0 {} { kind := 0x0F, label := 7 }
  (countRecord s ck key).modDie d fun x => { x with traceHold := x.traceHold ++ [(7, r)] }

/-- TRACE_STOP: the homes end their runs; STATE 3; each die's trace unit appends a CUT with reason 7 behind the queued records. -/
def execTraceStop (req : Nat) (s : State) : Host.Outcome State Fault Refusal :=
  onTrace req 2 (fun key _ r s =>
    match mget s.sessions key with
    | some e =>
      if e.stat = 3 then answerSyscall s r.id 0
      else if obsHolds s key none then s
      else
        let s := noteSession (logOpenRuns r.die key s) key fun e => { e with stat := 3 }
        let s := (s.members r.vas).foldl (stopCut key) s
        answerSyscall s r.id 0
    | none => answerSyscall s r.id 0) s

/-- TRACE_STATUS: STATE, FLAGS and PASS, with what is still owed folded in, by a closed session too. -/
def execTraceStatus (req : Nat) (s : State) : Host.Outcome State Fault Refusal :=
  onTrace req 3 (fun key desc r s =>
    match mget s.sessions key with
    | some e => answerSyscall s r.id e.status
    | none =>
      match s.debts.find? fun e => e.vas = r.vas && e.desc = desc && e.owes with
      | some e => answerSyscall s r.id e.status
      | none =>
      match dispRead s r.die r.vas (desc + 0xD0) 4 false with
      | (.bytes bs, s) => answerSyscall s r.id (leValue bs)
      | (.hold, s) => s
      | (_, s) => answerSyscall s r.id errArg) s

/-- Records of a session are still to be written, or exits of its groups to be taken into it (R432, R443, R444). -/
def State.sessionBusy (s : State) (vas key : Nat) : Bool :=
  (s.members vas).any fun d =>
    s.queuedFor d key || ((s.die d).traceHold.any fun p => p.2.session = key) || (s.die d).exits.any fun x => x.session = some key

/-- TRACE_CLOSE: a session whose STATE is not 1, once its last records are out (R432); what it owes to its descriptor stays owed. -/
def execTraceClose (req : Nat) (s : State) : Host.Outcome State Fault Refusal :=
  onTrace req 4 (fun key _ r s =>
    match mget s.sessions key with
    | some e =>
      if e.stat = 1 then answerSyscall s r.id errBusy
      else if s.sessionBusy e.vas key then s
      else answerSyscall { s with sessions := mdel s.sessions key, debts := if e.paid then s.debts else s.debts ++ [e] } r.id 0
    | none => answerSyscall s r.id 0) s

/-! ### Samples (R441) -/

/-- R312's code of a thread's state. -/
def TStat.code : TStat → Nat
  | .stream => 0 | .ret => 1 | .wait => 2 | .overflow => 3 | .joinWait => 4 | .asleep => 5 | .parked => 6 | .stopped => 7
  | .exited => 7

/-- The leader threads of a session's attached flights that are resident on a core. -/
def sampleThreads (s : State) (ck key : Nat) : List Nat :=
  ((s.groupsOn ck).filter fun gk => ((s.attached (s.flightKey gk)).map (·.1)) = some key).flatMap fun gk =>
    (s.threadsOf gk).filter fun tk => !(s.thread tk).twin

/-- The sampling periods of 2^(SPER + 8) cycles that have passed on a core since a session's start. -/
def periods (s : State) (ck : Nat) (p : Nat × Session) : Nat :=
  ((s.core ck).cycles - mgetD (s.core ck).starts p.1 0) / 2 ^ (bits (p.2.word 8) 15 12 + 8)

/-- The running session of a core that is due: a period has ended since the last one that was seen. -/
def dueSession (s : State) (ck : Nat) : Option (Nat × Session) :=
  s.sessions.find? fun p => p.2.stat = 1 && bits (p.2.word 8) 15 12 ≠ 0 && mgetD (s.core ck).samples p.1 0 < periods s ck p

/-- The head that a SAMPLE names and whether RET reaches it: of the block in which the thread streams, or at which it waits. -/
def Thread.sampleHead (t : Thread) : Nat × Bool :=
  if t.shown = .wait && t.ahead.off = t.next && t.ahead.glomer = t.glomer then (t.ahead.ord, t.viaRet) else (t.ord, t.headRet)

/-- SAMPLE_TIMER: the next thread in slot order after the one sampled last; a period that ends while the core holds no attached thread has
no sample. -/
def execSampleTimer (die core : Nat) (s : State) : Host.Outcome State Fault Refusal :=
  let ck := coreKey die core
  match dueSession s ck with
  | none => .next s
  | some (key, e) =>
    let last := (s.core ck).sampled
    let n := periods s ck (key, e)
    let s := s.modCore ck fun c => { c with samples := mput c.samples key n }
    match leastBy (fun tk => (slotOf tk + 512 - last - 1) % 512) (sampleThreads s ck key) with
    | none => .next s
    | some tk =>
      let s := s.modCore ck fun c => { c with sampled := slotOf tk }
      let t := s.thread tk
      let gk := s.groupKey tk
      let w := s.wave (waveKeyOf tk)
      let k := ck * 2 + (s.core ck).lastSlot
      let busy := !(s.lanes k).isEmpty
      let issued := (s.bundleGroups k).contains gk
      let v := (if issued then 16 else s.stallReason gk busy) + 32 * t.shown.code
      .next (emitMark s gk w
        { kind := 5, label := w.top, value := v, ord := t.sampleHead.1, off := if t.stat = .stream then t.off else 0, glomer := t.glomer
          wslot := waveKeyOf tk % 8, ret := t.sampleHead.2 })

/-! ### Passes (R446 to R448) -/

/-- Every L1 and L2 line of the partition is written back and invalidated; done when each is. -/
def flushPartition (s : State) (vas : Nat) : State × Bool :=
  (s.members vas).foldl (fun r d =>
    let (s, ok) := dropNonHome r.1 d
    let s := s.modDie d fun x => { x with l2home := x.l2home.filter fun k => k / 2 ^ 57 ≠ vas }
    (dropL1 s d fun k => k / 2 ^ 57 = vas, r.2 && ok)) (s, true)

/-- One snapshot restored; none when a home is not ready for it. A page that its home refuses with a fault is left as it is (DESIGN CHOICE,
log 121). -/
def restoreSnap (die vas base : Nat) : Option State → Nat × Nat → Option State
  | none, _ => none
  | some s, (page, i) =>
    match copyPage s die vas (base + 4096 * i) page with
    | (.ok _ _, s) => some s
    | (.no (.fault _ _), s) => some s
    | (.no (.data _ _), s) => some s
    | _ => none

/-- Every snapshot of a session restored (R448), once no token holder's lines stand in its pages (R330). -/
def restoreSnaps (s : State) (die : Nat) (e : Session) : Option State :=
  if tokenOn s e.vas (e.snaps.contains ·) none then none
  else e.snaps.zipIdx.foldl (restoreSnap die e.vas (bits (e.word 0x90) 56 0)) (some s)

/-- PASS_ADVANCE: the flight of the current pass of this registration, launched from this die, is done. After the last pass STATE is 3; else
caches are emptied, the homes restore their snapshots, and PASS rises when each has. -/
def execPassAdvance (die : Nat) (s : State) : Host.Outcome State Fault Refusal :=
  let ready (p : Nat × Session) : Bool :=
    p.2.mode = 1 && p.2.stat = 1
      && s.flights.any fun f => f.2.sessionKey = some p.1 && f.2.reg = p.2.reg && f.2.pass = p.2.pass && f.2.done && s.dispatcherOf f.1 = die
  match s.sessions.find? ready with
  | none => .next s
  | some (key, e) =>
    if !s.up die then .next s
    else if bits (e.word 8) 11 8 ≤ e.pass then .next (noteSession s key fun e => { e with stat := 3 })
    else
      match flushPartition s e.vas with
      | (_, false) => .next s
      | (s, true) =>
        match restoreSnaps s die e with
        | none => .next s
        | some s => .next (noteSession s key fun e => { e with pass := e.pass + 1 })

end Sys2Proof.Machine
end

