-- ==== Sys2Proof/Machine/Keel.lean ====
section
/-! DEFINITION. The keel (R390 to R396): its mailbox, and the eight requests. A request comes from the KMBOX of a die (source: its die
number) or from function 0 of a module m (source 2048 + m, log 28). -/

namespace Sys2Proof.Machine

set_option Elab.async false

/-! ### The mailbox (R393) -/

/-- Status codes. -/
def keelPerm : Nat := 1
def keelArg : Nat := 2
def keelBusy : Nat := 3
def keelRefused : Nat := 4
def keelNovas : Nat := 5

/-- The request stands at function 0. -/
def fromHost (src : Nat) : Bool := 2048 ≤ src

/-- The module whose keel a source reaches. -/
def srcModule (src : Nat) : Nat := if fromHost src then src - 2048 else moduleOf src

/-- The keel that a source reaches. -/
def State.keelFor (s : State) (src : Nat) : Keel := s.keel (srcModule src)
def State.modKeelFor (s : State) (src : Nat) (f : Keel → Keel) : State := s.modKeel (srcModule src) f

/-- The request's 128 bytes, if one stands there unanswered and the keel runs (R403). -/
def mailOf (s : State) (src : Nat) : Option (List Byte) :=
  let k := s.keelFor src
  if !k.verified then none
  else if fromHost src then (if k.busy && s.up (32 * srcModule src + 16) then some (k.buf.take 128) else none)
  else if (s.die src).mail && s.up src then some (s.ramBytes src (s.die src).kmbox.toNat 128)
  else none

/-- The answer: STATUS, TAG and RESULT, the rest 0. -/
def answerMail (s : State) (src : Nat) (req : List Byte) (status : Nat) (result : List Byte) : State :=
  let out := leBytes 8 (status + 2 ^ 32 * fieldAt req 4 4) ++ (result ++ List.replicate 120 0).take 120
  if fromHost src then
    { s.modKeelFor src fun k => { k with buf := k.buf.take 128 ++ out, busy := false } with host := s.host ++ [.msix 0] }
  else
    raise ((s.setRamBytes src ((s.die src).kmbox.toNat + 0x80) out).modDie src fun d => { d with mail := false }) src 3

/-- Bytes of the request from an offset on are 0. -/
def zeroFrom (req : List Byte) (o : Nat) : Bool := (req.drop o).all fun b => b = 0

/-- A request of a code: the reserved bits of its first word break it; else what it does, with its status and result; none while it must wait. -/
def onMailWait (src code : Nat) (f : List Byte → State → Option (Nat × List Byte) × State) (s : State) : Host.Outcome State Fault Refusal :=
  match mailOf s src with
  | none => .next s
  | some req =>
    let c := fieldAt req 0 1
    if c ≠ code && !(code = 1 && (c = 0 || 8 < c)) then .next s
    else if c ≠ code || fieldAt req 1 3 ≠ 0 then .next (answerMail s src req keelArg [])
    else
      match f req s with
      | (some (st, out), s) => .next (answerMail s src req st out)
      | (none, s) => .next s

/-- A request that waits for nothing. -/
def onMail (src code : Nat) (f : List Byte → State → Nat × List Byte × State) (s : State) : Host.Outcome State Fault Refusal :=
  onMailWait src code (fun req s => let (st, out, s) := f req s; (some (st, out), s)) s

/-- A request that only function 0 may make. -/
def hostOnly (src : Nat) (f : List Byte → State → Nat × List Byte × State) (req : List Byte) (s : State) : Nat × List Byte × State :=
  if fromHost src then f req s else (keelPerm, [], s)

/-- A request that only a die kernel may make. -/
def kernelOnly (src : Nat) (f : List Byte → State → Nat × List Byte × State) (req : List Byte) (s : State) : Nat × List Byte × State :=
  if fromHost src then (keelPerm, [], s) else f req s

/-! ### Partitions (R354, R356, R392) -/

/-- PCREATE: a free VAS id, 1 to 4,095; which one, the spec leaves open (log 26). -/
def execPcreate (src : Nat) (s : State) : Host.Outcome State Fault Refusal :=
  onMail src 1 (hostOnly src fun req s =>
    let free := (List.range 4095).filter fun i => !s.vasIds.contains (i + 1)
    if !zeroFrom req 8 then (keelArg, [], s)
    else if free = [] then (keelNovas, [], s)
    else
      let (i, s) := anyOf s free.length
      let v := (free[i]?).getD 0 + 1
      (0, leBytes 8 v, { s with vasIds := v :: s.vasIds })) s

/-- The die serves some partition. -/
def Die.owned (d : Die) : Bool := d.slots.any fun p => p.2.en

/-- The partitions of a package: the VAS ids that its dies serve. -/
def packageVas (s : State) (m : Nat) : List Nat :=
  ((s.dies.filter fun p => moduleOf p.1 = m).flatMap fun p => (p.2.slots.filter fun x => x.2.en).map fun x => x.2.vas).eraseDups

/-- A package that holds 16 partitions takes no other (R354). -/
def packageFull (s : State) (m vas : Nat) : Bool := 16 ≤ (packageVas s m).length && !(packageVas s m).contains vas

/-- A die gets a free slot of a partition: VAS, EN, SEQ and a fresh key 0; the fields that its kernel writes stay (R356). -/
def giveSlot (s : State) (die vas seq i : Nat) : State :=
  s.modDie die fun d => { d with slots := mmod d.slots i {} fun p => { p with vas := vas, seq := seq, en := true, keys := 1 } }

/-- The free slots of a die. -/
def Die.freeSlots (d : Die) : List Nat := (List.range 16).filter fun i => !(mgetD d.slots i {}).en

/-- PASSIGN: VAS and EN of a free slot, the sequencer, key slot 0, and the SVAS of a compute die's supervisor cores. A sequencer die that does
not serve the VAS gets a slot of it too; an I/O die that serves it already stays as it is (DEDUCED, log 131). A keel assigns the dies of its own module
(log 28). A 17th partition of a package is answered as where no slot is free (R354; DESIGN CHOICE, log 110). -/
def execPassign (src : Nat) (s : State) : Host.Outcome State Fault Refusal :=
  onMail src 2 (hostOnly src fun req s =>
    let w := fieldAt req 8 8
    let vas := bits w 11 0
    let die := bits w 22 12
    let seq := bits w 33 23
    let d := s.die die
    if 2 ^ 34 ≤ w || !zeroFrom req 16 || !s.vasIds.contains vas || moduleOf die ≠ srcModule src || d.life = .out || d.life = .lost || !isIo seq then
      (keelArg, [], s)
    else if isIo die && (d.slotOf vas).isSome then (0, [], s)
    else if (isCompute die && d.owned) || (d.slotOf vas).isSome then (keelArg, [], s)
    else
      let free := d.freeSlots
      let other := seq ≠ die && ((s.die seq).slotOf vas).isNone
      if free = [] || packageFull s (moduleOf die) vas || (other && ((s.die seq).freeSlots = [] || packageFull s (moduleOf seq) vas)) then
        (keelNovas, [], s)
      else
        let (i, s) := anyOf s free.length
        let s := (giveSlot s die vas seq ((free[i]?).getD 0)).modDie die fun d => { d with svas := if isCompute die then vas else 0 }
        if other then
          let (j, s) := anyOf s (s.die seq).freeSlots.length
          (0, [], giveSlot s seq vas seq (((s.die seq).freeSlots[j]?).getD 0))
        else (0, [], s)) s

/-- A train of a die that leaves its partition is stopped without save: its groups, saved ones too, end with END 1 and reason 6 (R396, R439). -/
def killTrain (s : State) (k : Nat) : State :=
  match (s.train k).stat with
  | .ended => s
  | _ =>
    let s := (s.train k).groups.foldl (fun s gk => killGroupFor s gk 1 6 false) s
    let s := (mgetD s.saved k []).foldl (fun s g => savedExit s k 1 6 g) s
    { s with saved := mdel s.saved k }.modTrain k fun t => { t with stat := .stopping, noSave := true, saved := false, ctxBytes := 0 }

/-- The trains of a die in a VAS that have not ended. -/
def trainsIn (s : State) (die vas : Nat) : List Nat :=
  (s.trains.filter fun p => p.2.die = die && p.2.stat ≠ .ended && (s.flight p.2.flight).vas = vas).map (·.1)

/-- Trace records of a VAS wait in the queues of trains, or in the trace unit of a die that runs (R439). -/
def traceOwed (s : State) (die vas : Nat) (ks : List Nat) : Bool :=
  s.up die && ((ks.any fun k => (s.train k).groups.any fun gk => (s.group gk).trace ≠ []) || (s.die die).traceHold.any fun p => p.2.session / 8 = vas)

/-- Registers, scratch and accumulators of a die become 0; its cores' and quads' structures are empty (R396). -/
def zeroDie (s : State) (die : Nat) : State :=
  { s with
    mem := s.mem.filter fun c => !(2 ^ 60 ≤ c.1 && dieOfCore ((c.1 - 2 ^ 60) / 2 ^ 18) = die)
    quads := s.quads.filter fun q => dieOfQuad q.1 ≠ die
    cores := s.cores.map fun (c : Nat × Core) => if dieOfCore c.1 = die then (c.1, { c.2 with l1 := [], hlb := [], words := [], knots := [] }) else c }

/-- A die that has left a VAS: its slot, keys, share, and its L2, directory and TLB (R394, R396). -/
def closeSlot (s : State) (die vas i : Nat) : State :=
  (killKeys s die fun tag => tag / 16 = vas).modDie die fun d =>
    { d with
      slots := mput d.slots i { (mgetD d.slots i {}) with en := false, keys := 0 }
      svas := if isCompute die then 0 else d.svas
      shares := mdel d.shares vas
      l2 := d.l2.filter fun p => p.1 / 2 ^ 57 ≠ vas
      l2home := d.l2home.filter fun k => k / 2 ^ 57 ≠ vas
      dir := d.dir.filter fun p => p.1 / 2 ^ 57 ≠ vas
      pins := d.pins.filter fun p => p.1 / 2 ^ 57 ≠ vas
      tlb := d.tlb.filter fun t => t.vas ≠ vas
      walks := d.walks.filter fun t => t.1 ≠ vas }

/-- PRELEASE: the trains stop, their trace records are written and the die's dirty lines go home (R41); then their ends are reported, and the die
leaves the VAS. -/
def execPrelease (src : Nat) (s : State) : Host.Outcome State Fault Refusal :=
  onMailWait src 3 (fun req s =>
    let w := fieldAt req 8 8
    let vas := bits w 11 0
    let die := bits w 22 12
    if !fromHost src then (some (keelPerm, []), s)
    else
      match (s.die die).slotOf vas with
      | none => (some (keelArg, []), s)
      | some (i, _) =>
        if 2 ^ 23 ≤ w || !zeroFrom req 16 || moduleOf die ≠ srcModule src then (some (keelArg, []), s)
        else
          let ks := trainsIn s die vas
          let s := ks.foldl killTrain s
          if traceOwed s die vas ks then (none, s)
          else
            match if s.up die then releaseWide s die else (s, true) with
            | (s, false) => (none, s)
            | (s, true) =>
              let s := ks.foldl (fun s k => (trainGone s k).modTrain k fun t => { t with groups := [] }) s
              let s := closeSlot s die vas i
              (some (0, []), if isCompute die then zeroDie s die else s)) s

/-- KEYLOAD: a fresh key; what an earlier key of the slot wrote no longer verifies (R394). -/
def execKeyload (src : Nat) (s : State) : Host.Outcome State Fault Refusal :=
  onMail src 4 (kernelOnly src fun req s =>
    let w := fieldAt req 8 8
    let vas := bits w 11 0
    let key := bits w 15 12
    match (s.die src).slotOf vas with
    | none => (keelPerm, [], s)
    | some (i, p) =>
      if 2 ^ 16 ≤ w || !zeroFrom req 16 || key = 0 then (keelArg, [], s)
      else
        let s := if bitOf p.keys key then killKeys s src (fun tag => tag = vas * 16 + key) else s
        (0, [], s.modDie src fun d => { d with slots := mput d.slots i { p with keys := setBit p.keys key } })) s

/-! ### Images (R391) -/

/-- A die's running image of a KIND: its header, SVN and digest. -/
def imageKey (kind die : Nat) : Nat := kind * 2048 + die
def Keel.image (k : Keel) (kind die : Nat) : List Byte := mgetD k.images (imageKey kind die) (List.replicate 256 0)
def Keel.svn (k : Keel) (kind die : Nat) : Nat := fieldAt (k.image kind die) 6 2
def Keel.digest (k : Keel) (kind die : Nat) : List Byte := ((k.image kind die).drop 0x10).take 48

/-- n bytes that the spec leaves open (log 2). -/
def freeBytes : Nat → State → List Byte × State
  | 0, s => ([], s)
  | n + 1, s =>
    let (k, s) := s.fresh
    let (bs, s) := freeBytes n s
    (Config.freeByte k :: bs, s)

/-- An image header's fields keep the map (R391). -/
def imageFieldsOk (h : List Byte) : Bool :=
  fieldAt h 0 4 = 0x4C45454B && 1 ≤ fieldAt h 4 1 && fieldAt h 4 1 ≤ 5 && fieldAt h 5 1 ≤ 1 && fieldAt h 12 4 = 0 && zeroFrom h 0xA0

/-- A signer's key hash is fused, and the SVN is not below the fused minimum (R391). -/
def Keel.admits (k : Keel) (h : List Byte) : Bool :=
  (fieldAt h 5 1 = 0 || k.ownerHash.isSome) && mgetD k.svnMin (fieldAt h 4 1) 0 ≤ fieldAt h 6 2

/-- An image of header h and the given body may run, where `signed` tells that its signature verifies (R391). -/
def Keel.imageGood (k : Keel) (signed : Bool) (h body : List Byte) : Bool :=
  imageFieldsOk h && k.admits h && signed && fieldAt h 8 4 = body.length && sha384 body = (h.drop 0x10).take 48

/-- The image at a physical address may run (R391). -/
def imageOk (s : State) (die pa : Nat) : Bool :=
  let h := s.ramBytes die pa 256
  (s.keelFor die).imageGood (Config.sigOk (fieldAt h 5 1) (h.take 64) ((h.drop 0x40).take 96)) h (s.ramBytes die (pa + 256) (fieldAt h 8 4))

/-- VERIFY: an image in the sail region, for a warm reset. -/
def execVerify (src : Nat) (s : State) : Host.Outcome State Fault Refusal :=
  onMail src 6 (kernelOnly src fun req s =>
    let pa := fieldAt req 8 8
    let d := s.die src
    if !zeroFrom req 0x18 || 2 ^ 11 ≤ fieldAt req 16 8 || pa < d.sailBase || d.sailBase + d.sailSize < pa + 256 then (keelArg, [], s)
    else if imageOk s src pa then (0, [], s)
    else (keelRefused, [], s)) s

/-- ENROLL: the owner key hash is fused once (a second time answered PERM, log 29). -/
def execEnroll (src : Nat) (s : State) : Host.Outcome State Fault Refusal :=
  onMail src 7 (hostOnly src fun req s =>
    if !zeroFrom req 0x38 then (keelArg, [], s)
    else if (s.keelFor src).ownerHash.isSome then (keelPerm, [], s)
    else (0, [], s.modKeelFor src fun k => { k with ownerHash := some ((req.drop 8).take 48) })) s

/-- SVNLOCK: the fused minimum rises to the running image's SVN. -/
def execSvnlock (src : Nat) (s : State) : Host.Outcome State Fault Refusal :=
  onMail src 8 (hostOnly src fun req s =>
    let kind := fieldAt req 8 8
    if !zeroFrom req 16 || kind = 0 || 5 < kind then (keelArg, [], s)
    else
      let k := s.keelFor src
      let v := max (mgetD k.svnMin kind 0) (k.svn kind (if kind = 2 then 32 * srcModule src + 16 else 0))
      (0, leBytes 8 v, s.modKeelFor src fun k => { k with svnMin := mput k.svnMin kind v })) s

/-! ### Attestation (R395) -/

/-- The dies that a report covers: of a partition, or of the device. -/
def reportDies (s : State) (vas : Nat) : List Nat := if vas = 0 then (s.dies.filter fun p => p.2.life = .up).map (·.1) else s.members vas

/-- The 512 bytes of a report's body. -/
def reportBody (s : State) (m vas : Nat) (nonce : List Byte) : List Byte :=
  let local' := (reportDies s vas).filter fun d => moduleOf d = m
  let mask := local'.foldl (fun v d => setBit v (localOf d)) 0
  let kinds := [1, 2, 3, 4, 5]
  let k := s.keel m
  let dieOf (kind : Nat) : Nat := if kind = 2 then m * 32 + 16 else 0
  let all := (reportDies s vas).flatMap fun d => (s.keel (moduleOf d)).digest 2 d
  leBytes 4 0x5454414B ++ leBytes 4 (vas + 2 ^ 12 * mask) ++ nonce ++ kinds.flatMap (fun i => k.digest i (dieOf i)) ++ sha384 all
    ++ kinds.flatMap (fun i => leBytes 2 (k.svn i (dieOf i))) ++ kinds.flatMap (fun i => leBytes 2 (mgetD k.svnMin i 0))
    ++ List.replicate 148 0

/-- ATTEST: the report and its signature, whose bytes no one outside the keel can compute (log 5). -/
def execAttest (src : Nat) (s : State) : Host.Outcome State Fault Refusal :=
  onMail src 5 (fun req s =>
    let vas := fieldAt req 8 8
    let dst := fieldAt req 0x40 8
    let d := s.die src
    let inside : Bool := fromHost src || (d.sailBase ≤ dst && dst + 608 ≤ d.sailBase + d.sailSize)
    if !zeroFrom req 0x48 || !(vas = 0 || s.vasIds.contains vas) || !inside then (keelArg, [], s)
    else
      let (sig, s) := freeBytes 96 s
      let rep := reportBody s (srcModule src) vas ((req.drop 0x10).take 48) ++ sig
      (0, leBytes 4 608, if fromHost src then { s with hostMem := Memory.write s.hostMem dst rep } else s.setRamBytes src dst rep)) s

end Sys2Proof.Machine
end

