-- ==== Sys2Proof/Machine/Recovery.lean ====
section
/-! DEFINITION. Bring-up (R27, R403), hung logic, warm reset (R424, R425), die loss (R426, R428), the scrubber (R422), router resets
(R397). -/

namespace Sys2Proof.Machine

set_option Elab.async false

/-! ### Bring-up (R403) -/

/-- The image of a KIND for a die, or for 0 where the KIND runs once, that a keel finds in its store. -/
def Keel.stored (k : Keel) (kind die : Nat) : List Byte := mgetD k.store (imageKey kind die) []

/-- The keel admits that image (R391); `signed` tells that its signature verifies. -/
def Keel.goodImage (k : Keel) (signed : Bool) (kind die : Nat) : Bool :=
  let img := k.stored kind die
  decide (fieldAt img 4 1 = kind) && k.imageGood signed (img.take 256) (img.drop 256)

/-- It starts to run. -/
def Keel.runImage (k : Keel) (kind die : Nat) : Keel := { k with images := mput k.images (imageKey kind die) ((k.stored kind die).take 256) }

/-- VAUX_GOOD: on the first module whose keel firmware does not run yet and that has some, the boot ROM verifies it (`verified`: its signature is
good); only verified firmware runs, and then the core rails rise (R404). The dispatcher, Ruirber and router firmware that the keel admits run too. -/
def execVauxGood (verified : Bool) (s : State) : Host.Outcome State Fault Refusal :=
  match (List.range 64).find? fun m => !(s.keel m).verified && (mget (s.keel m).store (imageKey 1 0)).isSome with
  | none => .next s
  | some m =>
    if !(s.keel m).goodImage verified 1 0 then .next s
    else
      .next (s.modKeel m fun k =>
        [3, 4, 5].foldl (fun k kind => if k.goodImage verified kind 0 then k.runImage kind 0 else k)
          { k.runImage 1 0 with verified := true, enable := true })

/-- A notice to every die of a list. -/
def notifyAll (s : State) (dies : List Nat) (cause die : Nat) : State := dies.foldl (fun s d => notify s d cause die 0 0) s

/-- The dies of a module that have joined. -/
def joinedOf (s : State) (m : Nat) : List Nat := (s.dies.filter fun p => moduleOf p.1 = m && p.2.life = .up).map (·.1)

/-- A die's turn to join has come: I/O die 16 of its module is the first, the other I/O dies follow, and then the compute dies. -/
def mayJoin (s : State) (die : Nat) : Bool :=
  let m := moduleOf die
  (localOf die = 16 || s.up (m * 32 + 16)) && (isIo die || [17, 18, 19].all fun i => (s.die (m * 32 + i)).life ≠ .out)

/-- DIE_JOIN: after self-test and verification of its die kernel, an image of KIND 2 (R391); `passed` tells that the die's self-test succeeds and
that the image's signature is good. A die that fails stays out and is reported as lost. -/
def execDieJoin (die : Nat) (passed : Bool) (s : State) : Host.Outcome State Fault Refusal :=
  let m := moduleOf die
  if !(s.keel m).verified || 2048 ≤ die || 20 ≤ localOf die || (s.die die).life ≠ .out || !mayJoin s die then .next s
  else if !(s.keel m).goodImage passed 2 die then .next (notifyAll (s.modDie die fun d => { d with life := .lost }) (joinedOf s m) 6 die)
  else
    let mem := if isCompute die then 48 * 2 ^ 30 else Config.ioMemory die
    let s := s.modDie die fun d =>
      { d with
        life := .up, memSize := mem, sailBase := 4096 * Config.sailBase die, sailSize := 4096 * Config.sailFrames die }
    let s := s.modKeel m fun k => k.runImage 2 die
    .next (notifyAll s (joinedOf s m) 4 die)

/-- CALIBRATION_COMPLETE: from 2 GHz to 4 GHz. -/
def execCalibrationComplete (die : Nat) (s : State) : Host.Outcome State Fault Refusal :=
  .next (if s.up die then s.modDie die fun d => { d with calib := true } else s)

/-! ### What a failing die leaves behind (R417, R425, R428) -/

/-- The partitions that a die serves, and the dies of them all. -/
def servedBy (s : State) (die : Nat) : List Nat := (((s.die die).slots.filter fun p => p.2.en).map fun p => p.2.vas).eraseDups
def peersOf (s : State) (die : Nat) : List Nat := ((servedBy s die).flatMap fun v => s.members v).eraseDups

/-- Every group of a train may be run again from its entry. -/
def openTrain (s : State) (k : Nat) : Bool :=
  let t := s.train k
  (s.flight t.flight).hdr.replay && (t.groups.all fun gk => (s.group gk).opened) && (mgetD s.saved k []).all fun g => g.group.opened

/-- The records that a group of a failing die had queued for its session, or that the die's trace unit held of it, are lost; a CUT tells it,
written by another die for a lost one (R439). It waits in the writer's trace unit, behind what that holds. -/
def cutGroup (s : State) (gk why : Nat) : State :=
  match s.attached (s.flightKey gk) with
  | none => s
  | some (key, _) =>
    let ck := coreOfGroup gk
    let die := dieOfCore ck
    let writer := if why = 5 then s.dispatcherOf (s.flightKey gk) else die
    let mine (p : Nat × TraceRec) : Bool := p.1 = 0 && p.2.group = gk
    let lost := (s.group gk).trace.length + ((s.die die).traceHold.filter mine).length
    let gid := s.gid gk
    let s := (s.modGroup gk fun g => { g with trace := [] }).modDie die fun d => { d with traceHold := d.traceHold.filter fun p => !mine p }
    holdTrace s writer ck key gid { kind := 0x0F, label := why, value := if why = 5 then 0xFFFFFFFF else lost }

/-- The same of a group that stands saved on a failing die: it runs no more. -/
def cutSaved (k why : Nat) (s : State) (sg : SavedGroup) : State :=
  match s.attached (s.train k).flight with
  | none => s
  | some (key, _) =>
    if sg.group.ended then s
    else
      let writer := if why = 5 then s.dispatcherOf (s.train k).flight else (s.train k).die
      let gid := (s.setGroup (groupKeyOf sg.core 65535) sg.group).gid (groupKeyOf sg.core 65535)
      holdTrace s writer sg.core key gid { kind := 0x0F, label := why, value := if why = 5 then 0xFFFFFFFF else sg.group.trace.length }

/-- A train of a failing die: one on its way there goes back to its launching dispatcher, and so does one that a lost die got over the
fabric and has not admitted: it is placed anew (R43); an OPEN one, of a replayable flight, is relaunched on another die; of any other the flight
faults (FLIGHT SUB 3). -/
def failTrain (why : Nat) (s : State) (k : Nat) : State :=
  let t := s.train k
  if t.stat = .ended || t.stat = .sending then s
  else if (s.flight t.flight).faulted && !t.groups.any fun gk => !(s.group gk).ended then trainGone s k
  else if t.stat = .travelling || (t.stat = .pending && !t.saved && why = 5 && t.from_ ≠ t.die) then
    s.modTrain k fun t => { t with stat := .sending }
  else if t.stat = .pending && !t.saved && openTrain s k then s.modTrain k fun _ => relaunched s k
  else
    let live := t.groups.filter fun gk => !(s.group gk).ended
    let s := live.foldl (fun s gk => cutGroup s gk why) s
    let kill (s : State) (code : Nat) : State := live.foldl (fun s gk => killGroupFor s gk code 0 false) s
    if openTrain s k && !(s.flight t.flight).faulted && t.relaunches < 3 then
      let gs := mgetD s.saved k []
      let s := gs.foldl (cutSaved k why) (freePages (kill s 3) t.groups)
      let s := (gs.map fun g => { g with group := { g.group with trace := [] } }).foldl (fun s g => savedExit s k 3 0 g) s
      { s with saved := mdel s.saved k }.modTrain k fun _ => { relaunched s k with relaunches := t.relaunches + 1 }
    else
      let sub := if openTrain s k && 3 ≤ t.relaunches then 4 else 3
      let gs := mgetD s.saved k []
      let s := gs.foldl (cutSaved k why) (kill s 2)
      let s := (gs.map fun g => { g with group := { g.group with trace := [] } }).foldl (fun s g => savedExit s k 2 0 g) s
      let s := trainGone s k
      faultFlight (s.modTrain k fun t => { t with groups := [] }) t.flight sub 0 t.t

/-- Every train of a die. -/
def failTrains (s : State) (die why : Nat) : State :=
  ((s.trains.filter fun p => p.2.die = die && p.2.stat ≠ .sending).map (·.1)).foldl (failTrain why) s

/-- The logic of a die is empty: cores, quads, bundles, requests, caches, directory, registered queues. Its routers, its sequencer,
its control registers, what its port and hold buffer keep, what its dispatcher has still to report, and the counts of cycles and records of its cores with
the trace records that it holds (R437, R439) stand (log 31, log 126). -/
def resetLogic (s : State) (die : Nat) : State :=
  let s := { s with
    cores := s.cores.map fun (p : Nat × Core) =>
      if dieOfCore p.1 ≠ die then p
      else (p.1, { cycles := p.2.cycles, seqs := p.2.seqs, starts := p.2.starts, sampled := p.2.sampled, samples := p.2.samples })
    quads := s.quads.filter fun p => dieOfQuad p.1 ≠ die
    bundles := s.bundles.filter fun p => p.1 / 256 ≠ die
    reqs := (s.reqs.filter fun (r : Req) => r.die ≠ die).map fun (r : Req) =>
      match r.phase with
      | .widening left => { r with phase := .widening (left.filter (· ≠ die)) }
      | _ => r }
  s.modDie die fun d =>
    { d with
      faults := [], fents := [], walks := [], tlb := [], l2 := [], l2home := [], pins := [], dir := [], heldIn := [], pubs := [], wakes := []
      token := none, tokenQ := [], queues := [], intake := [], todo := [], revokes := [], ranges := [], ckpt := none, combines := []
      contribs := [], partials := 0, combAdds := [], mail := false, sup := [] }

/-! ### Loss (R426) -/

/-- A die is lost: every member is told, its slots close, its router answers LOST; its trains are relaunched or their flights fault; its
partner carries on its shootdowns and the completion adds of its flights. -/
def loseDie (s : State) (die : Nat) : State :=
  let q := partnerOf die
  let old := s.die die
  let s := notifyAll s ((peersOf s die).filter (· ≠ die)) 6 die
  let s := s.modDie die fun d => { d with life := .lost, slots := d.slots.map fun p => (p.1, { p.2 with en := false }) }
  let s := resetLogic (failTrains s die 5) die
  let s := { s with trains := s.trains.map fun (p : Nat × Train) =>
      if (p.2.from_ = die ∧ p.2.stat = TrainStat.sending) then (p.1, { p.2 with from_ := q }) else p }
  let s := s.modDie q fun d => { d with shoots := d.shoots ++ old.shoots, ends := d.ends ++ old.ends, adds := d.adds ++ old.adds }
  s.modDie die fun d => { d with traceHold := [], drained := false, shoots := [], ends := [], adds := [], traps := [], exits := [], notes := [], rings := [], windows := [], hold := [], port := [] }

/-- DIE_LOSS: the keel declares a die lost. -/
def execDieLoss (die : Nat) (s : State) : Host.Outcome State Fault Refusal :=
  match (s.die die).life with
  | .out => .next s
  | .lost => .next s
  | _ => .next (loseDie s die)

/-! ### Warm reset (R425) -/

/-- DIE_LOGIC_HANG. -/
def execDieLogicHang (die : Nat) (s : State) : Host.Outcome State Fault Refusal :=
  .next (if s.up die then s.modDie die fun d => { d with life := .hung } else s)

/-- Stage 1: the router answers resetting, and every member of every partition of the die is told. -/
def startReset (s : State) (die : Nat) : State :=
  match (s.die die).life with
  | .up | .hung => notifyAll (s.modDie die fun d => { d with life := .resetting, drained := false }) (peersOf s die) 5 die
  | _ => s

/-- HEARTBEAT_TIMEOUT: the keel starts the reset. -/
def execHeartbeatTimeout (die : Nat) (s : State) : Host.Outcome State Fault Refusal := .next (startReset s die)

/-- WARM_RESET_START: at the die kernel's request, or after an error that strikes a supervisor core. -/
def execWarmResetStart (die : Nat) (s : State) : Host.Outcome State Fault Refusal := .next (startReset s die)

/-- Stages 2 to 4, once every dirty line is written back. -/
def execWarmResetDrained (die : Nat) (s : State) : Host.Outcome State Fault Refusal :=
  if (s.die die).life ≠ .resetting then .next s
  else
    match releaseWide s die with
    | (_, false) => .next s
    | (s, true) => .next ((resetLogic (failTrains s die 4) die).modDie die fun d => { d with drained := true })

/-- WARM_RESET_DRAIN_TIMEOUT: the reset becomes a loss. -/
def execWarmResetDrainTimeout (die : Nat) (s : State) : Host.Outcome State Fault Refusal :=
  .next (if (s.die die).life = .resetting then loseDie s die else s)

/-- The newest complete checkpoint of a die, and its stamp. -/
def newestBuf (s : State) (die : Nat) : Option (Nat × Nat) :=
  let (s0, d0) := bufMark s die 0
  let (s1, d1) := bufMark s die 1
  if d0 && d1 then (if count32 s1 s0 < 2 ^ 31 then some (1, s1) else some (0, s0))
  else if d0 then some (0, s0)
  else if d1 then some (1, s1)
  else none

/-- The control registers take the values that a checkpoint holds (R424). -/
def Die.restoreRegs (d : Die) (v : List Nat) (rings : AMap Ring) : Die :=
  let w (i : Nat) : Nat := (v[i]?).getD 0
  { d with
    fqBase := BitVec.ofNat 64 (w 0), fqLog := w 1, fqHead := BitVec.ofNat 32 (w 2), fqTail := BitVec.ofNat 32 (w 3)
    bsBase := BitVec.ofNat 64 (w 4), bsTail := BitVec.ofNat 32 (w 5), bsHead := BitVec.ofNat 32 (w 6), brBase := BitVec.ofNat 64 (w 7)
    cause := BitVec.ofNat 5 (w 10), kmbox := BitVec.ofNat 64 (w 11), poolBase := BitVec.ofNat 64 (w 12), poolSize := BitVec.ofNat 32 (w 13)
    qdesc := BitVec.ofNat 64 (w 14), qstat := BitVec.ofNat 8 (w 15), rings := rings }

/-- The logged messages of arrival counts from a stamp on, n of them. -/
def loggedMsgs (s : State) (die stamp n : Nat) : List Msg :=
  let base := peerBase s die + 0x1000 + 2 * bufSize (s.die die)
  (List.range n).map fun i => Msg.ofBytes (s.ramBytes (partnerOf die) (base + 64 * ((stamp + i) % 65536)) 64)

/-- A wake for every core that may watch a line of a home (R334). -/
def wakeHome (s : State) (die : Nat) : State :=
  s.cores.foldl (fun s c =>
    sendPacket s die (dieOfCore c.1) ((servedBy s (dieOfCore c.1)).headD 0) .bridle (.wake { core := c.1, key := .line 0 die, all := true })) s

/-- WARM_RESET_REJOIN: stages 5 to 7, after stage 4. When the die-kernel image no longer passes R391, without a complete checkpoint, or when the log
has overwritten a message that the replay needs, the die is lost (R424, R426). -/
def execWarmResetRejoin (die : Nat) (s : State) : Host.Outcome State Fault Refusal :=
  let busy := s.trains.any fun p => p.2.die = die && p.2.stat ≠ .ended && p.2.stat ≠ .sending && p.2.stat ≠ .travelling
  let k := s.keel (moduleOf die)
  if (s.die die).life ≠ .resetting || !(s.die die).drained || busy || !(s.die die).l2.isEmpty then .next s
  else if !k.admits (k.image 2 die) then .next (loseDie s die)
  else
    let q := partnerOf die
    let arrived := s.ram q (peerBase s die) 4
    match newestBuf s die with
    | none => .next (loseDie s die)
    | some (b, stamp) =>
      let n := count32 arrived stamp
      if peerBase s die = 0 || !s.up q || 65536 < n then .next (loseDie s die)
      else
        let d := s.die die
        let msgs := loggedMsgs s die stamp n
        let s := s.setRamBytes die d.sailBase (s.ramBytes q (peerBase s die + 0x1000 + b * bufSize d) d.sailSize)
        let s := s.modDie die fun d =>
          { (d.restoreRegs (mgetD d.images b []) (mgetD d.ringImages b [])) with
            life := .up, drained := false, brHead := BitVec.ofNat 32 stamp, brTail := BitVec.ofNat 32 stamp, inbox := msgs ++ d.inbox }
        .next (wakeHome (notifyAll s (peersOf s die) 4 die) die)

/-! ### The scrubber (R422) -/

/-- SCRUB_LINE: a line is read, corrected and rewritten; an uncorrectable one is written back poisoned; a page tag that fails is logged. -/
def execScrubLine (die pa : Nat) (s : State) : Host.Outcome State Fault Refusal :=
  if !s.up die || (s.die die).memSize ≤ pa then .next s
  else
    let k := badKey die pa
    match mgetD s.bad k 0 with
    | 1 => .next (logFinding { s with bad := mput s.bad k 3 } die pa 2 0)
    | 2 => .next (logFinding { s with bad := mput s.bad k 3 } die pa 3 0)
    | 4 => .next (logFinding { s with bad := mdel s.bad k } die pa 1 0)
    | 5 => .next (logFinding s die pa 4 0)
    | _ => .next s

/-! ### Routers (R397) -/

/-- ROUTER_RESET: on the keel's request, once the die's links have drained. -/
def execRouterReset (die : Nat) (s : State) : Host.Outcome State Fault Refusal :=
  let mine (n : Nat) : Bool := linkSrc n = die || linkDst n = die
  if !(s.die die).router || s.links.any fun p => mine p.1 && (p.2.crc || p.2.wire ≠ [] || p.2.buf ≠ []) then .next s
  else
    .next ({ s with links := s.links.map fun (p : Nat × Link) => if mine p.1 then (p.1, { p.2 with seq := 0, replays := 0 }) else p }.modDie die
      fun d => { d with router := false })

end Sys2Proof.Machine
end

