-- ==== Sys2Proof/Machine/Dispatch.lean ====
section
/-! DEFINITION. The dispatch: one arm per constructor of Instr, each a direct call of its meaning. -/

namespace Sys2Proof.Machine

/-- What one instruction does. -/
def exec (i : Instr) (s : State) : Host.Outcome State Fault Refusal :=
  match i with
  | .hintImm p => Sys2Proof.Machine.execHintImm p s
  | .hintOff p => Sys2Proof.Machine.execHintOff p s
  | .hintMod rov pol sat ftz rnd => Sys2Proof.Machine.execHintMod rov pol sat ftz rnd s
  | .hintPrio p => Sys2Proof.Machine.execHintPrio p s
  | .pblk c n p => Sys2Proof.Machine.execPblk c n p s
  | .bra sb disp => Sys2Proof.Machine.execBra sb disp s
  | .brz sb a disp => Sys2Proof.Machine.execBrz sb a disp s
  | .brnz sb a disp => Sys2Proof.Machine.execBrnz sb a disp s
  | .call sb l disp => Sys2Proof.Machine.execCall sb l disp s
  | .brx sb a => Sys2Proof.Machine.execBrx sb a s
  | .ret sb a => Sys2Proof.Machine.execRet sb a s
  | .callx sb d a => Sys2Proof.Machine.execCallx sb d a s
  | .nop sb => Sys2Proof.Machine.execNop sb s
  | .exit sb => Sys2Proof.Machine.execExit sb s
  | .trap sb a => Sys2Proof.Machine.execTrap sb a s
  | .syscall d a b => Sys2Proof.Machine.execSyscall d a b s
  | .bkpt sb => Sys2Proof.Machine.execBkpt sb s
  | .iflush => Sys2Proof.Machine.execIflush s
  | .join sb n => Sys2Proof.Machine.execJoin sb n s
  | .jset sb n b => Sys2Proof.Machine.execJset sb n b s
  | .jget sb d n => Sys2Proof.Machine.execJget sb d n s
  | .jleave sb n => Sys2Proof.Machine.execJleave sb n s
  | .sread sb d c => Sys2Proof.Machine.execSread sb d c s
  | .swrite sb c b => Sys2Proof.Machine.execSwrite sb c b s
  | .iadd sb d a b => Sys2Proof.Machine.execIadd sb d a b s
  | .isub sb d a b => Sys2Proof.Machine.execIsub sb d a b s
  | .iadds sb d a b => Sys2Proof.Machine.execIadds sb d a b s
  | .isubs sb d a b => Sys2Proof.Machine.execIsubs sb d a b s
  | .uadds sb d a b => Sys2Proof.Machine.execUadds sb d a b s
  | .usubs sb d a b => Sys2Proof.Machine.execUsubs sb d a b s
  | .imin sb d a b => Sys2Proof.Machine.execImin sb d a b s
  | .imax sb d a b => Sys2Proof.Machine.execImax sb d a b s
  | .umin sb d a b => Sys2Proof.Machine.execUmin sb d a b s
  | .umax sb d a b => Sys2Proof.Machine.execUmax sb d a b s
  | .iabs sb d a => Sys2Proof.Machine.execIabs sb d a s
  | .ineg sb d a => Sys2Proof.Machine.execIneg sb d a s
  | .idiff sb d a b => Sys2Proof.Machine.execIdiff sb d a b s
  | .and sb d a b => Sys2Proof.Machine.execAnd sb d a b s
  | .or sb d a b => Sys2Proof.Machine.execOr sb d a b s
  | .xor sb d a b => Sys2Proof.Machine.execXor sb d a b s
  | .andn sb d a b => Sys2Proof.Machine.execAndn sb d a b s
  | .orn sb d a b => Sys2Proof.Machine.execOrn sb d a b s
  | .xnor sb d a b => Sys2Proof.Machine.execXnor sb d a b s
  | .not sb d a => Sys2Proof.Machine.execNot sb d a s
  | .shl sb d a b => Sys2Proof.Machine.execShl sb d a b s
  | .shr sb d a b => Sys2Proof.Machine.execShr sb d a b s
  | .sar sb d a b => Sys2Proof.Machine.execSar sb d a b s
  | .rol sb d a b => Sys2Proof.Machine.execRol sb d a b s
  | .ror sb d a b => Sys2Proof.Machine.execRor sb d a b s
  | .popc sb d a => Sys2Proof.Machine.execPopc sb d a s
  | .clz sb d a => Sys2Proof.Machine.execClz sb d a s
  | .ctz sb d a => Sys2Proof.Machine.execCtz sb d a s
  | .brev sb d a => Sys2Proof.Machine.execBrev sb d a s
  | .bfe sb d a b => Sys2Proof.Machine.execBfe sb d a b s
  | .bfeu sb d a b => Sys2Proof.Machine.execBfeu sb d a b s
  | .bfi sb d a b => Sys2Proof.Machine.execBfi sb d a b s
  | .bperm sb d a b => Sys2Proof.Machine.execBperm sb d a b s
  | .bswap sb d a => Sys2Proof.Machine.execBswap sb d a s
  | .imul sb d a b => Sys2Proof.Machine.execImul sb d a b s
  | .imulhi sb d a b => Sys2Proof.Machine.execImulhi sb d a b s
  | .umulhi sb d a b => Sys2Proof.Machine.execUmulhi sb d a b s
  | .imad sb d a b => Sys2Proof.Machine.execImad sb d a b s
  | .umadw sb d a b => Sys2Proof.Machine.execUmadw sb d a b s
  | .imadw sb d a b => Sys2Proof.Machine.execImadw sb d a b s
  | .idot4 sb d a b => Sys2Proof.Machine.execIdot4 sb d a b s
  | .udot4 sb d a b => Sys2Proof.Machine.execUdot4 sb d a b s
  | .isetEq sb d a b => Sys2Proof.Machine.execIsetEq sb d a b s
  | .isetNe sb d a b => Sys2Proof.Machine.execIsetNe sb d a b s
  | .isetLt sb d a b => Sys2Proof.Machine.execIsetLt sb d a b s
  | .isetLe sb d a b => Sys2Proof.Machine.execIsetLe sb d a b s
  | .isetGt sb d a b => Sys2Proof.Machine.execIsetGt sb d a b s
  | .isetGe sb d a b => Sys2Proof.Machine.execIsetGe sb d a b s
  | .usetLt sb d a b => Sys2Proof.Machine.execUsetLt sb d a b s
  | .usetLe sb d a b => Sys2Proof.Machine.execUsetLe sb d a b s
  | .usetGt sb d a b => Sys2Proof.Machine.execUsetGt sb d a b s
  | .usetGe sb d a b => Sys2Proof.Machine.execUsetGe sb d a b s
  | .sel sb d a b => Sys2Proof.Machine.execSel sb d a b s
  | .iaddi sb d a imm => Sys2Proof.Machine.execIaddi sb d a imm s
  | .andi sb d a imm => Sys2Proof.Machine.execAndi sb d a imm s
  | .ori sb d a imm => Sys2Proof.Machine.execOri sb d a imm s
  | .xori sb d a imm => Sys2Proof.Machine.execXori sb d a imm s
  | .shli sb d a n => Sys2Proof.Machine.execShli sb d a n s
  | .shri sb d a n => Sys2Proof.Machine.execShri sb d a n s
  | .sari sb d a n => Sys2Proof.Machine.execSari sb d a n s
  | .roli sb d a n => Sys2Proof.Machine.execRoli sb d a n s
  | .rori sb d a n => Sys2Proof.Machine.execRori sb d a n s
  | .movi sb d imm => Sys2Proof.Machine.execMovi sb d imm s
  | .movhi sb d imm => Sys2Proof.Machine.execMovhi sb d imm s
  | .addp sb d a b => Sys2Proof.Machine.execAddp sb d a b s
  | .addps sb d a b => Sys2Proof.Machine.execAddps sb d a b s
  | .leap1 sb d a b => Sys2Proof.Machine.execLeap1 sb d a b s
  | .leap2 sb d a b => Sys2Proof.Machine.execLeap2 sb d a b s
  | .leap3 sb d a b => Sys2Proof.Machine.execLeap3 sb d a b s
  | .leap4 sb d a b => Sys2Proof.Machine.execLeap4 sb d a b s
  | .subp sb d a b => Sys2Proof.Machine.execSubp sb d a b s
  | .fadd sb d a b => Sys2Proof.Machine.execFadd sb d a b s
  | .fsub sb d a b => Sys2Proof.Machine.execFsub sb d a b s
  | .fmul sb d a b => Sys2Proof.Machine.execFmul sb d a b s
  | .fmin sb d a b => Sys2Proof.Machine.execFmin sb d a b s
  | .fmax sb d a b => Sys2Proof.Machine.execFmax sb d a b s
  | .fabs sb d a => Sys2Proof.Machine.execFabs sb d a s
  | .fneg sb d a => Sys2Proof.Machine.execFneg sb d a s
  | .fcopysign sb d a b => Sys2Proof.Machine.execFcopysign sb d a b s
  | .ffma sb d a b => Sys2Proof.Machine.execFfma sb d a b s
  | .ffms sb d a b => Sys2Proof.Machine.execFfms sb d a b s
  | .fdot2 sb d a b => Sys2Proof.Machine.execFdot2 sb d a b s
  | .fsetEq sb d a b => Sys2Proof.Machine.execFsetEq sb d a b s
  | .fsetNe sb d a b => Sys2Proof.Machine.execFsetNe sb d a b s
  | .fsetLt sb d a b => Sys2Proof.Machine.execFsetLt sb d a b s
  | .fsetLe sb d a b => Sys2Proof.Machine.execFsetLe sb d a b s
  | .fsetGt sb d a b => Sys2Proof.Machine.execFsetGt sb d a b s
  | .fsetGe sb d a b => Sys2Proof.Machine.execFsetGe sb d a b s
  | .fsetUn sb d a b => Sys2Proof.Machine.execFsetUn sb d a b s
  | .fclass sb d a => Sys2Proof.Machine.execFclass sb d a s
  | .frcp sb d a => Sys2Proof.Machine.execFrcp sb d a s
  | .frsq sb d a => Sys2Proof.Machine.execFrsq sb d a s
  | .fsqrt sb d a => Sys2Proof.Machine.execFsqrt sb d a s
  | .fexp2 sb d a => Sys2Proof.Machine.execFexp2 sb d a s
  | .flog2 sb d a => Sys2Proof.Machine.execFlog2 sb d a s
  | .fsin2pi sb d a => Sys2Proof.Machine.execFsin2pi sb d a s
  | .fcos2pi sb d a => Sys2Proof.Machine.execFcos2pi sb d a s
  | .ftanh sb d a => Sys2Proof.Machine.execFtanh sb d a s
  | .fdiv sb d a b => Sys2Proof.Machine.execFdiv sb d a b s
  | .hadd2Bf sb d a b => Sys2Proof.Machine.execHadd2Bf sb d a b s
  | .hsub2Bf sb d a b => Sys2Proof.Machine.execHsub2Bf sb d a b s
  | .hmul2Bf sb d a b => Sys2Proof.Machine.execHmul2Bf sb d a b s
  | .hfma2Bf sb d a b => Sys2Proof.Machine.execHfma2Bf sb d a b s
  | .hmin2Bf sb d a b => Sys2Proof.Machine.execHmin2Bf sb d a b s
  | .hmax2Bf sb d a b => Sys2Proof.Machine.execHmax2Bf sb d a b s
  | .hadd2H sb d a b => Sys2Proof.Machine.execHadd2H sb d a b s
  | .hsub2H sb d a b => Sys2Proof.Machine.execHsub2H sb d a b s
  | .hmul2H sb d a b => Sys2Proof.Machine.execHmul2H sb d a b s
  | .hfma2H sb d a b => Sys2Proof.Machine.execHfma2H sb d a b s
  | .hmin2H sb d a b => Sys2Proof.Machine.execHmin2H sb d a b s
  | .hmax2H sb d a b => Sys2Proof.Machine.execHmax2H sb d a b s
  | .cfma sb d a b => Sys2Proof.Machine.execCfma sb d a b s
  | .cfms sb d a b => Sys2Proof.Machine.execCfms sb d a b s
  | .cmul sb d a b => Sys2Proof.Machine.execCmul sb d a b s
  | .f2i sb d a => Sys2Proof.Machine.execF2i sb d a s
  | .f2u sb d a => Sys2Proof.Machine.execF2u sb d a s
  | .i2f sb d a => Sys2Proof.Machine.execI2f sb d a s
  | .u2f sb d a => Sys2Proof.Machine.execU2f sb d a s
  | .f2bf sb d a b => Sys2Proof.Machine.execF2bf sb d a b s
  | .bf2f sb d a => Sys2Proof.Machine.execBf2f sb d a s
  | .f2h sb d a b => Sys2Proof.Machine.execF2h sb d a b s
  | .h2f sb d a => Sys2Proof.Machine.execH2f sb d a s
  | .f2e4 sb d a b => Sys2Proof.Machine.execF2e4 sb d a b s
  | .e42f sb d a => Sys2Proof.Machine.execE42f sb d a s
  | .f2e5 sb d a b => Sys2Proof.Machine.execF2e5 sb d a b s
  | .e52f sb d a => Sys2Proof.Machine.execE52f sb d a s
  | .qnt sb d a b => Sys2Proof.Machine.execQnt sb d a b s
  | .dqnt sb d a b => Sys2Proof.Machine.execDqnt sb d a b s
  | .pack8 sb d a b => Sys2Proof.Machine.execPack8 sb d a b s
  | .frnd sb d a => Sys2Proof.Machine.execFrnd sb d a s
  | .shflIdx sb d a b => Sys2Proof.Machine.execShflIdx sb d a b s
  | .shflUp sb d a b => Sys2Proof.Machine.execShflUp sb d a b s
  | .shflDown sb d a b => Sys2Proof.Machine.execShflDown sb d a b s
  | .shflXor sb d a b => Sys2Proof.Machine.execShflXor sb d a b s
  | .voteAll sb d a => Sys2Proof.Machine.execVoteAll sb d a s
  | .voteAny sb d a => Sys2Proof.Machine.execVoteAny sb d a s
  | .voteBallot sb d a => Sys2Proof.Machine.execVoteBallot sb d a s
  | .wredIadd sb d a => Sys2Proof.Machine.execWredIadd sb d a s
  | .wredImax sb d a => Sys2Proof.Machine.execWredImax sb d a s
  | .wredFadd sb d a => Sys2Proof.Machine.execWredFadd sb d a s
  | .wscanIadd sb d a => Sys2Proof.Machine.execWscanIadd sb d a s
  | .wmatch sb d a => Sys2Proof.Machine.execWmatch sb d a s
  | .ld sb d b c z o pol => Sys2Proof.Machine.execLd sb d b c z o pol s
  | .st sb d b c z o pol => Sys2Proof.Machine.execSt sb d b c z o pol s
  | .lds sb d b c z o => Sys2Proof.Machine.execLds sb d b c z o s
  | .sts sb d b c z o => Sys2Proof.Machine.execSts sb d b c z o s
  | .ldm sb d b n scr pol => Sys2Proof.Machine.execLdm sb d b n scr pol s
  | .stm sb d b n scr pol => Sys2Proof.Machine.execStm sb d b n scr pol s
  | .ldc sb d b r z => Sys2Proof.Machine.execLdc sb d b r z s
  | .pref sb a => Sys2Proof.Machine.execPref sb a s
  | .clock sb d a => Sys2Proof.Machine.execClock sb d a s
  | .cunlock sb a => Sys2Proof.Machine.execCunlock sb a s
  | .cflush sb a => Sys2Proof.Machine.execCflush sb a s
  | .cclean sb a => Sys2Proof.Machine.execCclean sb a s
  | .atom d b a op => Sys2Proof.Machine.execAtom d b a op s
  | .red b a op => Sys2Proof.Machine.execRed b a op s
  | .cas d b a => Sys2Proof.Machine.execCas d b a s
  | .cas64 d b a => Sys2Proof.Machine.execCas64 d b a s
  | .fenceAcq sb c => Sys2Proof.Machine.execFenceAcq sb c s
  | .fenceRel c => Sys2Proof.Machine.execFenceRel c s
  | .fenceAcqrel c => Sys2Proof.Machine.execFenceAcqrel c s
  | .fenceSc c => Sys2Proof.Machine.execFenceSc c s
  | .qfence m => Sys2Proof.Machine.execQfence m s
  | .ctradd b a rel c => Sys2Proof.Machine.execCtradd b a rel c s
  | .ctrread sb d b c o => Sys2Proof.Machine.execCtrread sb d b c o s
  | .txbegin sb disp => Sys2Proof.Machine.execTxbegin sb disp s
  | .orelse sb disp => Sys2Proof.Machine.execOrelse sb disp s
  | .txend => Sys2Proof.Machine.execTxend s
  | .retry => Sys2Proof.Machine.execRetry s
  | .txabort a => Sys2Proof.Machine.execTxabort a s
  | .txstat sb d => Sys2Proof.Machine.execTxstat sb d s
  | .copy dt sl c y k => Sys2Proof.Machine.execCopy dt sl c y k s
  | .gather dt sl c y k => Sys2Proof.Machine.execGather dt sl c y k s
  | .scatter dt sl c y k => Sys2Proof.Machine.execScatter dt sl c y k s
  | .combine dt sl c y k => Sys2Proof.Machine.execCombine dt sl c y k s
  | .rinit a b => Sys2Proof.Machine.execRinit a b s
  | .rfill sb d a => Sys2Proof.Machine.execRfill sb d a s
  | .rfree a b => Sys2Proof.Machine.execRfree a b s
  | .rspace sb d a => Sys2Proof.Machine.execRspace sb d a s
  | .rstat sb d a => Sys2Proof.Machine.execRstat sb d a s
  | .launch a => Sys2Proof.Machine.execLaunch a s
  | .mmul bank x y p pair => Sys2Proof.Machine.execMmul bank x y p pair s
  | .mstat x p => Sys2Proof.Machine.execMstat x p s
  | .mstream bank x p pair swapf => Sys2Proof.Machine.execMstream bank x p pair swapf s
  | .mdrain sb bank x p m => Sys2Proof.Machine.execMdrain sb bank x p m s
  | .mzero sb bank p => Sys2Proof.Machine.execMzero sb bank p s
  | .ttset sb a n => Sys2Proof.Machine.execTtset sb a n s
  | .ttget sb d n => Sys2Proof.Machine.execTtget sb d n s
  | .ttclr sb n => Sys2Proof.Machine.execTtclr sb n s
  | .markpush a => Sys2Proof.Machine.execMarkpush a s
  | .markpop => Sys2Proof.Machine.execMarkpop s
  | .markevt a b => Sys2Proof.Machine.execMarkevt a b s
  | .markstat d => Sys2Proof.Machine.execMarkstat d s
  | .glomerWord w => Sys2Proof.Machine.execGlomerWord w s
  | .headerTake die queue => Sys2Proof.Machine.execHeaderTake die queue s
  | .launchIntake die => Sys2Proof.Machine.execLaunchIntake die s
  | .trainArrival die => Sys2Proof.Machine.execTrainArrival die s
  | .trainAdmit die => Sys2Proof.Machine.execTrainAdmit die s
  | .scratchZeroingDone die core gslot => Sys2Proof.Machine.execScratchZeroingDone die core gslot s
  | .preemptStart die => Sys2Proof.Machine.execPreemptStart die s
  | .preemptStopComplete die train => Sys2Proof.Machine.execPreemptStopComplete die train s
  | .contextSaveComplete die train => Sys2Proof.Machine.execContextSaveComplete die train s
  | .trainEnd die train => Sys2Proof.Machine.execTrainEnd die train s
  | .trainEndReport die => Sys2Proof.Machine.execTrainEndReport die s
  | .threadWaiting die core slot => Sys2Proof.Machine.execThreadWaiting die core slot s
  | .bundleSelect die core bslot => Sys2Proof.Machine.execBundleSelect die core bslot s
  | .marionetteCompare die core slot => Sys2Proof.Machine.execMarionetteCompare die core slot s
  | .pageTableWalk req => Sys2Proof.Machine.execPageTableWalk req s
  | .homeRequest req => Sys2Proof.Machine.execHomeRequest req s
  | .answerMoved req => Sys2Proof.Machine.execAnswerMoved req s
  | .answerResetting req => Sys2Proof.Machine.execAnswerResetting req s
  | .answerFault req => Sys2Proof.Machine.execAnswerFault req s
  | .requestResend req => Sys2Proof.Machine.execRequestResend req s
  | .deferredRefusal req => Sys2Proof.Machine.execDeferredRefusal req s
  | .heldNotice home => Sys2Proof.Machine.execHeldNotice home s
  | .publish die => Sys2Proof.Machine.execPublish die s
  | .publishConfirm req => Sys2Proof.Machine.execPublishConfirm req s
  | .widenAnswer req => Sys2Proof.Machine.execWidenAnswer req s
  | .faultQueueEntry die => Sys2Proof.Machine.execFaultQueueEntry die s
  | .trapRecordWrite die => Sys2Proof.Machine.execTrapRecordWrite die s
  | .exitRecordWrite die => Sys2Proof.Machine.execExitRecordWrite die s
  | .matrixEntryFront die quad entry => Sys2Proof.Machine.execMatrixEntryFront die quad entry s
  | .arbiterGrant die quad => Sys2Proof.Machine.execArbiterGrant die quad s
  | .passEnd die quad => Sys2Proof.Machine.execPassEnd die quad s
  | .pairedHoldTimeout die quad => Sys2Proof.Machine.execPairedHoldTimeout die quad s
  | .mstatPerform die quad entry => Sys2Proof.Machine.execMstatPerform die quad entry s
  | .mdrainPerform die quad entry => Sys2Proof.Machine.execMdrainPerform die quad entry s
  | .mzeroPerform die quad entry => Sys2Proof.Machine.execMzeroPerform die quad entry s
  | .operandFetchStop die quad entry => Sys2Proof.Machine.execOperandFetchStop die quad entry s
  | .streamerEntryStart die quad => Sys2Proof.Machine.execStreamerEntryStart die quad s
  | .copyGranule die quad crc => Sys2Proof.Machine.execCopyGranule die quad crc s
  | .copyFault die quad crc => Sys2Proof.Machine.execCopyFault die quad crc s
  | .copySync die quad => Sys2Proof.Machine.execCopySync die quad s
  | .combineContribution ioDie => Sys2Proof.Machine.execCombineContribution ioDie s
  | .combineEntryTimeout ioDie vas key => Sys2Proof.Machine.execCombineEntryTimeout ioDie vas key s
  | .combineResend die quad => Sys2Proof.Machine.execCombineResend die quad s
  | .combineCounterAdd die quad => Sys2Proof.Machine.execCombineCounterAdd die quad s
  | .conflictNotice die => Sys2Proof.Machine.execConflictNotice die s
  | .wakeMessage die => Sys2Proof.Machine.execWakeMessage die s
  | .solitaryTokenGrant die => Sys2Proof.Machine.execSolitaryTokenGrant die s
  | .tokenTimeout die => Sys2Proof.Machine.execTokenTimeout die s
  | .linkCrcError link => Sys2Proof.Machine.execLinkCrcError link s
  | .linkReplay link good => Sys2Proof.Machine.execLinkReplay link good s
  | .bridleSend die => Sys2Proof.Machine.execBridleSend die s
  | .bridleReceive die => Sys2Proof.Machine.execBridleReceive die s
  | .sequencerMulticast die => Sys2Proof.Machine.execSequencerMulticast die s
  | .kmsg die => Sys2Proof.Machine.execKmsg die s
  | .map die => Sys2Proof.Machine.execMap die s
  | .revoke die => Sys2Proof.Machine.execRevoke die s
  | .ack die => Sys2Proof.Machine.execAck die s
  | .commit die => Sys2Proof.Machine.execCommit die s
  | .notice die => Sys2Proof.Machine.execNotice die s
  | .fqhead die value => Sys2Proof.Machine.execFqhead die value s
  | .bstail die value => Sys2Proof.Machine.execBstail die value s
  | .brhead die value => Sys2Proof.Machine.execBrhead die value s
  | .cause die value => Sys2Proof.Machine.execCause die value s
  | .controlRegisterWrite die offset value => Sys2Proof.Machine.execControlRegisterWrite die offset value s
  | .queueRegister die qctl => Sys2Proof.Machine.execQueueRegister die qctl s
  | .queueHalt die qctl => Sys2Proof.Machine.execQueueHalt die qctl s
  | .queueRun die qctl => Sys2Proof.Machine.execQueueRun die qctl s
  | .queueUnregister die qctl => Sys2Proof.Machine.execQueueUnregister die qctl s
  | .crtail die ring value => Sys2Proof.Machine.execCrtail die ring value s
  | .descVaToVa die ring => Sys2Proof.Machine.execDescVaToVa die ring s
  | .descVaToHost die ring => Sys2Proof.Machine.execDescVaToHost die ring s
  | .descHostToVa die ring => Sys2Proof.Machine.execDescHostToVa die ring s
  | .descVaToSpar die ring => Sys2Proof.Machine.execDescVaToSpar die ring s
  | .descFrame die ring => Sys2Proof.Machine.execDescFrame die ring s
  | .descZero die ring => Sys2Proof.Machine.execDescZero die ring s
  | .descriptorEnd die ring => Sys2Proof.Machine.execDescriptorEnd die ring s
  | .resume die => Sys2Proof.Machine.execResume die s
  | .killThread die => Sys2Proof.Machine.execKillThread die s
  | .killGroup die => Sys2Proof.Machine.execKillGroup die s
  | .faultFlight die => Sys2Proof.Machine.execFaultFlight die s
  | .checkpoint die => Sys2Proof.Machine.execCheckpoint die s
  | .retryfault die => Sys2Proof.Machine.execRetryfault die s
  | .failfault die => Sys2Proof.Machine.execFailfault die s
  | .pcreate src => Sys2Proof.Machine.execPcreate src s
  | .passign src => Sys2Proof.Machine.execPassign src s
  | .prelease src => Sys2Proof.Machine.execPrelease src s
  | .keyload src => Sys2Proof.Machine.execKeyload src s
  | .attest src => Sys2Proof.Machine.execAttest src s
  | .verify src => Sys2Proof.Machine.execVerify src s
  | .enroll src => Sys2Proof.Machine.execEnroll src s
  | .svnlock src => Sys2Proof.Machine.execSvnlock src s
  | .syscallEcho req => Sys2Proof.Machine.execSyscallEcho req s
  | .syscallQreg req => Sys2Proof.Machine.execSyscallQreg req s
  | .syscallQhalt req => Sys2Proof.Machine.execSyscallQhalt req s
  | .syscallMap req frames => Sys2Proof.Machine.execSyscallMap req frames s
  | .syscallUnmap req => Sys2Proof.Machine.execSyscallUnmap req s
  | .syscallWindow req => Sys2Proof.Machine.execSyscallWindow req s
  | .traceOpen req => Sys2Proof.Machine.execTraceOpen req s
  | .traceStop req => Sys2Proof.Machine.execTraceStop req s
  | .traceStatus req => Sys2Proof.Machine.execTraceStatus req s
  | .traceClose req => Sys2Proof.Machine.execTraceClose req s
  | .traceRecordWrite die => Sys2Proof.Machine.execTraceRecordWrite die s
  | .sampleTimer die core => Sys2Proof.Machine.execSampleTimer die core s
  | .passAdvance die => Sys2Proof.Machine.execPassAdvance die s
  | .pciePostedWrite die rid fn offset data => Sys2Proof.Machine.execPciePostedWrite die rid fn offset data s
  | .pcieFetchadd die rid fn offset addend => Sys2Proof.Machine.execPcieFetchadd die rid fn offset addend s
  | .pcieUnsupportedAtomicop die rid fn offset => Sys2Proof.Machine.execPcieUnsupportedAtomicop die rid fn offset s
  | .pcieMemoryRead die rid fn offset len => Sys2Proof.Machine.execPcieMemoryRead die rid fn offset len s
  | .functionLevelReset die fn => Sys2Proof.Machine.execFunctionLevelReset die fn s
  | .sparWrite die => Sys2Proof.Machine.execSparWrite die s
  | .vauxGood verified => Sys2Proof.Machine.execVauxGood verified s
  | .dieJoin die passed => Sys2Proof.Machine.execDieJoin die passed s
  | .calibrationComplete die => Sys2Proof.Machine.execCalibrationComplete die s
  | .heartbeatTimeout die => Sys2Proof.Machine.execHeartbeatTimeout die s
  | .warmResetStart die => Sys2Proof.Machine.execWarmResetStart die s
  | .warmResetDrained die => Sys2Proof.Machine.execWarmResetDrained die s
  | .warmResetDrainTimeout die => Sys2Proof.Machine.execWarmResetDrainTimeout die s
  | .warmResetRejoin die => Sys2Proof.Machine.execWarmResetRejoin die s
  | .dieLoss die => Sys2Proof.Machine.execDieLoss die s
  | .scrubLine die pa => Sys2Proof.Machine.execScrubLine die pa s
  | .answerPerformed req => Sys2Proof.Machine.execAnswerPerformed req s
  | .syscallAnswer req value => Sys2Proof.Machine.execSyscallAnswer req value s
  | .dieLogicHang die => Sys2Proof.Machine.execDieLogicHang die s
  | .dieKernelPreempt die train => Sys2Proof.Machine.execDieKernelPreempt die train s
  | .routerReset die => Sys2Proof.Machine.execRouterReset die s
  | .cxlMemRequest die addr write => Sys2Proof.Machine.execCxlMemRequest die addr write s
  | .portModeChange die cxl => Sys2Proof.Machine.execPortModeChange die cxl s
  | .checkpointBufferComplete die => Sys2Proof.Machine.execCheckpointBufferComplete die s

end Sys2Proof.Machine
end

