-- ==== Sys2Proof/Machine/Supervisor.lean ====
section
/-! DEFINITION. What reaches the machine from the sail, the keel, the host and the world outside, one turn each (log 3): stores and loads of
a die kernel (R234, R235, R356, R379, R381, R414), the registers of supervisor cores and keel core (R20), the installation of native text (R126), requests to the keel (R393), and errors. -/

namespace Sys2Proof.Machine

set_option Elab.async false

/-! ### The matrix state of a group slot (R201, R414)

A buffer of the plane record is built from its image: the words of it that have been written through the window stand in Group.opm until MSTAT
loads the buffer anew or SWAPF exchanges the two, so that an image may be written in any order. -/

/-- The elements of a slice as packed bits, element (k, c) at place k·64 + c (log 32), and back. -/
def packSlice (p : Slice) : Nat :=
  let w := tWidth p.image
  (List.range (64 * p.depth)).foldl (fun n i => n + wrapN (mgetD p.elems i 0) w * 2 ^ (w * i)) 0
def unpackSlice (p : Slice) (v : Nat) : AMap Int :=
  let w := tWidth p.image
  ((List.range (64 * p.depth)).filter fun i => decide (i % 64 < tCols p.image - 64 * p.jb)).map fun i =>
    (i, sextN (v / 2 ^ (w * i)) w)

/-- A latch or a column scale: [15] latched, [8:0] its code. -/
def latchHalf (m : AMap Nat) (k : Nat) : Nat := match mget m k with | some v => 2 ^ 15 + v | none => 0
def putLatch (m : AMap Nat) (k v : Nat) : AMap Nat := if bitOf v 15 then mput m k (v % 2 ^ 9) else mdel m k

/-- The same of an accumulator bank's latch, whose code software may write with [15] clear too: `codes` keeps it. -/
def scaleHalf (m codes : AMap Nat) (k : Nat) : Nat := match mget m k with | some v => 2 ^ 15 + v | none => mgetD codes k 0
def putCode (codes : AMap Nat) (k v : Nat) : AMap Nat := if bitOf v 15 || v % 2 ^ 9 = 0 then mdel codes k else mput codes k (v % 2 ^ 9)

/-- Two halves of 16 bits in one word. -/
def halves (f : Nat → Nat) (i : Nat) : Nat := f i + 2 ^ 16 * f (i + 1)

/-- The word of a buffer at an offset of the ACTIVE image. -/
def sliceWord (p : Slice) (o : Nat) : Nat :=
  if o < 0x1000 then bits (packSlice p) (8 * o + 31) (8 * o)
  else if o < 0x2020 then ((p.image[(o - 0x2000) / 4]?).getD 0).toNat
  else if o = 0x2040 then p.k0 + 2 ^ 16 * p.depth + 2 ^ 24 * (p.jb % 2 ^ 8)
  else if o = 0x2044 then p.jb / 2 ^ 8
  else halves (latchHalf p.scales) ((o - 0x4100) / 2)

/-- The buffer that an image gives: an all-zero tether image is an empty one. -/
def bufferOf (rd : Nat → Nat) : Option Slice :=
  let im := (List.range 8).map fun i => BitVec.ofNat 32 (rd (0x2000 + 4 * i))
  if im.all fun x => x = 0 then none
  else
    let p : Slice :=
      { image := im, k0 := bits (rd 0x2040) 15 0, depth := bits (rd 0x2040) 23 16, jb := bits (rd 0x2040) 31 24 + 2 ^ 8 * bits (rd 0x2044) 1 0 }
    let v := (List.range 1024).foldl (fun v i => v + rd (4 * i) * 2 ^ (32 * i)) 0
    let half (c : Nat) : Nat := rd (0x4100 + c / 2 * 4) / 2 ^ (16 * (c % 2)) % 2 ^ 16
    some { p with elems := unpackSlice p v, scales := (List.range 64).foldl (fun m c => putLatch m c (half c)) [] }

/-- Where a word of the image belongs: to SHADOW or ACTIVE, and its offset in the ACTIVE image; none for what is not a buffer's. -/
def bufferAt (loc : Nat) : Option (Bool × Nat) :=
  if loc < 0x1000 then some (false, loc) else if loc < 0x2000 then some (true, loc - 0x1000)
  else if loc < 0x2020 then some (false, loc) else if loc < 0x2040 then some (true, loc - 0x20)
  else if loc < 0x2048 then some (false, loc) else if loc < 0x2050 then some (true, loc - 8)
  else if 0x4100 ≤ loc && loc < 0x4180 then some (false, loc) else if 0x4180 ≤ loc && loc < 0x4200 then some (true, loc - 0x80)
  else none

/-- The bits of a word of a buffer that hold something; the others read 0 (R7, R414). -/
def bufMask (o : Nat) : Word := if o = 0x2044 then 3 else if 0x4100 ≤ o then 0x81FF81FF else 0xFFFFFFFF

/-- The key under which Group.opm keeps a word of a buffer. -/
def opmKey (sh : Bool) (o : Nat) : Nat := 2 ^ 18 * sh.toNat + o

/-- A word of a buffer of a group, as it was written or as the buffer gives it. -/
def Group.bufWord (g : Group) (sh : Bool) (o : Nat) : Nat :=
  match mget g.opm (opmKey sh o) with
  | some w => w.toNat
  | none => ((if sh then g.shadow else g.active).map fun p => sliceWord p o).getD 0

/-- A buffer with one word written. Every word of the image as it stood is kept, so that a later one may say what it means. -/
def Group.putBuf (g : Group) (sh : Bool) (o : Nat) (w : Word) : Group :=
  let offs := (List.range 1024).map (4 * ·) ++ (List.range 8).map (0x2000 + 4 * ·) ++ [0x2040, 0x2044] ++ (List.range 32).map (0x4100 + 4 * ·)
  let kept := offs.foldl (fun m x => mput m (opmKey sh x) (BitVec.ofNat 32 (g.bufWord sh x))) g.opm
  let g := { g with opm := mput kept (opmKey sh o) (w &&& bufMask o) }
  let p := bufferOf (g.bufWord sh)
  if sh then { g with shadow := p } else { g with active := p }

/-- One word of the matrix state of a group slot, read; offsets that the image does not list read 0. -/
def matrixWordAt (s : State) (gk loc : Nat) : Nat :=
  let g := s.group gk
  let q := s.quad (quadOfCore (coreOfGroup gk))
  match bufferAt loc with
  | some (sh, o) => g.bufWord sh o
  | none =>
    if loc = 0x2050 then (decide (g.swapDone ≠ [])).toNat
    else if 0x2100 ≤ loc && loc < 0x4100 then
      let o := (loc - 0x2100) % 0x800
      match g.banks[(loc - 0x2100) / 0x800]? with
      | none => 0
      | some b =>
        if o < 0x200 then halves (fun i => mgetD q.count (b * 256 + i) 0) (o / 2)
        else if o < 0x400 then halves (fun i => scaleHalf q.rscale q.rcodes (b * 256 + i)) ((o - 0x200) / 2)
        else if o < 0x480 then halves (fun i => scaleHalf q.cscale q.ccodes (b * 64 + i)) ((o - 0x400) / 2)
        else 0
    else 0

/-- One word of the matrix state of a group slot, written; offsets that the image does not list ignore it. -/
def putMatrix (s : State) (gk loc : Nat) (w : Word) : State :=
  let v := w.toNat
  let g := s.group gk
  let q := quadOfCore (coreOfGroup gk)
  let two (f : State → Nat → Nat → State) (i : Nat) : State := f (f s i (v % 2 ^ 16)) (i + 1) (v / 2 ^ 16)
  match bufferAt loc with
  | some (sh, o) => s.setGroup gk (g.putBuf sh o w)
  | none =>
    if loc = 0x2050 then s.setGroup gk { g with swapDone := if bitOf v 0 then (if g.swapDone = [] then [anySwap] else g.swapDone) else [] }
    else if 0x2100 ≤ loc && loc < 0x4100 then
      let o := (loc - 0x2100) % 0x800
      match g.banks[(loc - 0x2100) / 0x800]? with
      | none => s
      | some b =>
        if o < 0x200 then two (fun s i v => s.modQuad q fun q => { q with count := mput q.count (b * 256 + i) v }) (o / 2)
        else if o < 0x400 then
          two (fun s i v => s.modQuad q fun q => { q with rscale := putLatch q.rscale (b * 256 + i) v, rcodes := putCode q.rcodes (b * 256 + i) v }) ((o - 0x200) / 2)
        else if o < 0x480 then
          two (fun s i v => s.modQuad q fun q => { q with cscale := putLatch q.cscale (b * 64 + i) v, ccodes := putCode q.ccodes (b * 64 + i) v }) ((o - 0x400) / 2)
        else s
    else s

/-! ### The die-view windows of the OPM (R234, R235) -/

/-- The register that a place of the register store backs (R46, R234): its thread and number. -/
def registerAt (s : State) (ck loc : Nat) : Option (Nat × Nat) :=
  let (gran, reg, lane) := (loc / 2048, loc % 2048 / 256, loc % 256 / 4)
  let half := 2 * gran + lane / 32
  (List.range 8).findSome? fun w =>
    match (s.wave (ck * 8 + w)).granules.findIdx? (· = half) with
    | none => none
    | some i =>
      let tk := threadKey ck (w * 64 + lane)
      if s.waveWidth tk = 32 then some (threadKey ck (w * 64 + lane % 32), 8 * i + reg) else some (tk, 8 * (i / 2) + reg)

/-- What an aligned word of a window of a core's die view names. -/
inductive DieSpot
  | scratch (key : Nat) | acc (quad key : Nat) | reg (tk n : Nat) | matrix (gk loc : Nat) | nothing
  deriving DecidableEq, Repr

/-- The place that an aligned LOC names; a location that backs nothing holds nothing. -/
def dieSpot (s : State) (die core win loc : Nat) : DieSpot :=
  let ck := coreKey die core
  if 128 ≤ core then .nothing
  else if win = 0 then (if loc < 196608 then .scratch (scrKey ck loc) else .nothing)
  else if win = 1 then (if loc < 2 ^ 18 then .acc (quadOfCore ck) (loc / 2 ^ 16 * 16384 + loc % 2 ^ 16 / 4) else .nothing)
  else if win = 2 then
    if 2 ^ 18 ≤ loc then .nothing
    else
      match registerAt s ck loc with
      | some (tk, n) => if n = 0 || (mget s.threads tk).isNone then .nothing else .reg tk n
      | none => .nothing
  else if win = 3 && loc < 2 ^ 21 && (mget s.groups (groupKeyOf ck (bits loc 20 18))).isSome then .matrix (groupKeyOf ck (bits loc 20 18)) (loc % 2 ^ 18)
  else .nothing

/-- The access waits (R235): for what streams into a bank, or is being performed on it; for a pass of the group. -/
def DieSpot.waits (s : State) : DieSpot → Bool
  | .acc qk key => accBusy s qk (key / 16384) 0
  | .matrix gk _ =>
    (s.quad (quadOfCore (coreOfGroup gk))).table.any fun e => e.group = gk && (e.stat = .stream || accBusy s (quadOfCore (coreOfGroup gk)) (bankOf s e) 0)
  | _ => false

/-- A word of the die view read, and written. -/
def DieSpot.read (s : State) : DieSpot → Nat
  | .scratch key => leValue (Memory.read s.mem key 4)
  | .acc qk key => s.accWord qk key
  | .reg tk n => (mgetD (s.thread tk).regs n 0).toNat
  | .matrix gk loc => matrixWordAt s gk loc
  | .nothing => 0
def DieSpot.write (s : State) (w : Nat) : DieSpot → State
  | .scratch key => { s with mem := Memory.write s.mem key (leBytes 4 w) }
  | .acc qk key => setAccWord s qk key w
  | .reg tk n => (noteLoaded s tk [n]).modThread tk fun t => { t with regs := mput t.regs n (BitVec.ofNat 32 w) }
  | .matrix gk loc => putMatrix s gk loc (BitVec.ofNat 32 w)
  | .nothing => s

/-- The aligned words that n bytes from a location on touch. -/
def wordsAt (loc n : Nat) : List Nat := (List.range ((loc % 4 + n + 3) / 4)).map fun i => loc / 4 * 4 + 4 * i

/-- Bytes read through the die view; none while one must wait. -/
def opmRead (s : State) (die core win loc n : Nat) : Option (List Byte) :=
  let spots := (wordsAt loc n).map (dieSpot s die core win)
  if spots.any fun p => p.waits s then none else some (((spots.flatMap fun p => leBytes 4 (p.read s)).drop (loc % 4)).take n)

/-- A word with the bytes laid over it that fall into it: the bytes begin at `loc`, the word at `a`. -/
def overWord (old a loc : Nat) (bs : List Byte) : Nat :=
  leValue ((leBytes 4 old).zipIdx.map fun p => if loc ≤ a + p.2 then (bs[a + p.2 - loc]?).getD p.1 else p.1)

/-- Bytes written through the die view; none while one must wait. -/
def opmWrite (s : State) (die core win loc : Nat) (bs : List Byte) : Option State :=
  let ws := wordsAt loc bs.length
  if ws.any fun a => (dieSpot s die core win a).waits s then none
  else
    some (ws.foldl (fun s a =>
      let p := dieSpot s die core win a
      p.write s (overWord (p.read s) a loc bs)) s)

/-! ### Supervisor cores and the keel core (R13, R20)

What an instruction of RV64GC or RV32 does to its core's own registers stands in the RISC-V manual and not in this spec: a turn gives the core
its registers, its program counter, its mode and its CSRs (log 109). What a supervisor core does to the machine are the stores below, its loads,
and the events of the die kernel. -/

/-- A supervisor core's own state changes while the die's kernel runs; x0 stays 0. -/
def setSup (s : State) (die core : Nat) (c : SupCore) : State :=
  if kernelUp s die && core < 4 then s.modDie die fun d => { d with sup := mput d.sup core { c with x := mdel c.x 0 } } else s

/-- A trap of a supervisor core, by the RISC-V manual (PRESUMED, log 139): the cause, the value and the pc are saved, the interrupt enable is
stacked, and the pc goes to the vector of the mode that takes the trap, here the mode that the core is in. -/
def SupCore.trap (c : SupCore) (cause tval : Nat) : SupCore :=
  let base := if c.machine then 0x300 else 0x100
  let (ie, pie, pp) : Nat × Nat × Nat := if c.machine then (3, 7, 3 * 2 ^ 11) else (1, 5, 2 ^ 8)
  let st := (mgetD c.csr 0x300 0).toNat
  let st := st - 2 ^ ie * (bitOf st ie).toNat - 2 ^ pie * (bitOf st pie).toNat + 2 ^ pie * (bitOf st ie).toNat
  let st := if c.machine then st - 2 ^ 11 * bits st 12 11 + pp else if bitOf st 8 then st else st + pp
  let vec := (mgetD c.csr (base + 5) 0).toNat
  let pc := vec / 4 * 4 + (if vec % 4 = 1 && bitOf cause 63 then 4 * (cause % 2 ^ 63) else 0)
  { c with
    csr := mput (mput (mput (mput c.csr 0x300 (BitVec.ofNat 64 st)) (base + 0x41) c.pc) (base + 0x42) (BitVec.ofNat 64 cause)) (base + 0x43) (BitVec.ofNat 64 tval)
    pc := BitVec.ofNat 64 pc }
def supTrap (s : State) (die core cause tval : Nat) : State :=
  s.modDie die fun d => { d with sup := mmod d.sup core {} fun c => c.trap cause tval }

/-- A load (5) or a store (7) that R379 refuses: the core takes an access fault, and nothing is performed. -/
def accessFault (s : State) (die core addr : Nat) (store : Bool) : State := supTrap s die core (if store then 7 else 5) addr

/-- The supervisor external interrupt stands while a CAUSE bit does (R381): a core in supervisor mode takes it when its interrupts are enabled
(sstatus.SIE, sie.SEIE), one in machine mode does not (PRESUMED, log 139). -/
def supInterrupt (s : State) (die core : Nat) : State :=
  let d := s.die die
  let c := mgetD d.sup core {}
  let csr (n : Nat) : Nat := (mgetD c.csr n 0).toNat
  if kernelUp s die && core < 4 && d.cause ≠ 0 && !c.machine && bitOf (csr 0x300) 1 && bitOf (csr 0x304) 9 then supTrap s die core (2 ^ 63 + 9) 0 else s

/-- A control register's value (R381, R401); a write-only register and what the map does not list read 0 (R6). -/
def readReg (d : Die) (die off : Nat) : Nat :=
  let ring (e : Nat) : Ring := mgetD d.rings e {}
  if off = 0x000 then d.fqBase.toNat else if off = 0x008 then d.fqLog else if off = 0x010 then d.fqHead.toNat
  else if off = 0x018 then d.fqTail.toNat else if off = 0x020 then d.bsBase.toNat else if off = 0x028 then d.bsTail.toNat
  else if off = 0x030 then d.bsHead.toNat else if off = 0x038 then d.brBase.toNat else if off = 0x040 then d.brHead.toNat
  else if off = 0x048 then d.brTail.toNat else if off = 0x050 then d.cause.toNat else if off = 0x058 then d.kmbox.toNat
  else if off = 0x060 then d.poolBase.toNat else if off = 0x068 then d.poolSize.toNat else if off = 0x070 then d.qdesc.toNat
  else if off = 0x080 then d.qstat.toNat
  else if 0x100 ≤ off && off < 0x100 + 0x20 * ringCount die then
    let r := ring ((off - 0x100) / 0x20)
    match (off - 0x100) % 0x20 with
    | 0x00 => r.base.toNat
    | 0x08 => r.log + 2 ^ 16 * r.vas
    | 0x10 => r.tail.toNat
    | 0x18 => r.head.toNat
    | _ => 0
  else if isIo die && 0x400 ≤ off && off < 0x600 && off % 8 = 0 then (mgetD d.admits ((off - 0x400) / 8) 0).toNat
  else 0

/-- The bytes that a load of a supervisor core gets (R379): none while it must wait; `some none` for an access fault, after which nothing is
performed. -/
def supBytes (s : State) (die : Nat) (src : SupSrc) (addr n : Nat) : Option (Option (List Byte) × State) :=
  let d := s.die die
  match src with
  | .memory => some (if d.sailBase ≤ addr && addr + n ≤ d.sailBase + d.sailSize then some (s.ramBytes die addr n) else none, s)
  | .register => some (some (leBytes n (readReg d die addr)), s)
  | .opm core win => (opmRead s die core win addr n).map fun bs => (some bs, s)
  | .window =>
    if d.svas = 0 || 128 < addr % 128 + n then some (none, s)
    else
      match agentRead s die d.svas addr n .read with
      | (.done (.performed bs), s) => some (some bs, s)
      | (.done .moved, _) => none
      | (.done .resetting, _) => none
      | (.hold, _) => none
      | (.done _, s) => some (none, s)

/-- A load of a supervisor core: the bytes, zero-extended, enter its register; or it takes an access fault. -/
def supLoad (s : State) (die core rd : Nat) (src : SupSrc) (addr n : Nat) : Option State :=
  if !kernelUp s die || 4 ≤ core || 8 < n || rd = 0 || 32 ≤ rd then some s
  else
    (supBytes s die src addr n).map fun r =>
      match r.1 with
      | some bs =>
        r.2.modDie die fun d => { d with sup := mmod d.sup core {} fun c => { c with x := mput c.x rd (BitVec.ofNat 64 (leValue bs)) } }
      | none => accessFault r.2 die core addr false

/-! ### Stores of a die kernel (R356, R379) -/

/-- Bytes stored into the die's sail region; elsewhere the core takes an access fault and nothing is done. -/
def sailStore (s : State) (die core pa : Nat) (bs : List Byte) : State :=
  let d := s.die die
  if !kernelUp s die then s
  else if d.sailBase ≤ pa && pa + bs.length ≤ d.sailBase + d.sailSize then s.setRamBytes die pa bs
  else accessFault s die core pa true

/-- Bytes of one line stored through the partition window, under the SVAS: made as a plain store of a thread of the die, which waits where that
waits; or the core takes an access fault (R379). -/
def windowWrite (s : State) (die core va : Nat) (bs : List Byte) : Option State :=
  let v := (s.die die).svas
  if !kernelUp s die then some s
  else if v = 0 || 128 < va % 128 + bs.length then some (accessFault s die core va true)
  else
    match agentWrite s die v va bs with
    | (.done (.performed _), s) => some s
    | (.done .moved, _) => none
    | (.done .resetting, _) => none
    | (.hold, _) => none
    | (.done _, s) => some (accessFault s die core va true)

/-- The fields of a slot that its die kernel writes, while EN is 1. -/
def writeSlot (s : State) (die slot root seq mirBase : Nat) : State :=
  match mget (s.die die).slots slot with
  | none => s
  | some p =>
    if kernelUp s die && p.en then
      s.modDie die fun d =>
        { d with slots := mput d.slots slot { p with root := root % 2 ^ 40, seq := seq % 2 ^ 11, mirBase := mirBase % 2 ^ 48 / 4096 * 4096 } }
    else s

/-- Native text installed for the live threads of a flight that has only Glomer text, with the native offset of the head of each knot ordinal
(R126, log 96). -/
def installNative (s : State) (fk base size : Nat) (heads : List Nat) : State :=
  match mget s.flights fk with
  | none => s
  | some f =>
    if kernelUp s f.die && f.glomer && f.natSize = 0 then
      s.modFlight fk fun f => { f with swap := true, natBase := base, natSize := size, heads := heads }
    else s

/-! ### The host (R393) -/

/-- A request written to function 0 of a module's die 16; a second one is answered BUSY and has no effect. -/
def hostMail (s : State) (module : Nat) (bs : List Byte) : State :=
  let req := (bs ++ List.replicate 256 0).take 256
  if (s.keel module).busy then
    { s.modKeel module fun k => { k with buf := k.buf.take 128 ++ (leBytes 8 (keelBusy + 2 ^ 32 * fieldAt req 4 4) ++ List.replicate 120 0) } with
      host := s.host ++ [.msix 0] }
  else s.modKeel module fun k => { k with buf := req, busy := true }

/-! ### Errors (R419, R420) -/

/-- A line error appears, or goes: 0 none. -/
def lineError (s : State) (die pa code : Nat) : State :=
  { s with bad := if code = 0 then mdel s.bad (badKey die pa) else mput s.bad (badKey die pa) code }

/-- An uncorrectable error in the 64 bits of a core's scratch that hold a byte. -/
def scratchError (s : State) (ck off : Nat) : State :=
  if off < 196608 then { s with bad := mput s.bad (cellBad (scrKey ck off)) 1 } else s

/-- An uncorrectable error in a non-home line that a die's L2 holds. -/
def cacheError (s : State) (die key : Nat) : State :=
  s.modDie die fun d => { d with l2 := match mget d.l2 key with | some e => mput d.l2 key { e with bad := 1 } | none => d.l2 }

/-- An uncorrectable error in a line that a core's L1 holds. -/
def l1Error (s : State) (ck key : Nat) : State :=
  s.modCore ck fun c => if (mget c.l1 key).isSome then { c with l1Bad := key :: c.l1Bad.filter (· ≠ key) } else c

/-- An uncorrectable error in a store that a group's ballast holds. -/
def ballastError (s : State) (gk place : Nat) : State :=
  match (s.group gk).ballast[place]? with
  | some b => s.modGroup gk fun g => { g with ballast := setNth g.ballast place { b with bad := true } }
  | none => s

/-- The check channel of an accumulator element goes bad (R140). -/
def accError (s : State) (qk key : Nat) : State :=
  s.modQuad qk fun q => { q with acc := mmod q.acc key {} fun r => { r with chk := (r.chk + 1) % 59 } }

/-- A corrupted entry of the wake table wakes a thread of it; one of the block table re-queues its threads (R419): they become waiting anew, at
the same head. -/
def tableError (s : State) (ck slot : Nat) : State :=
  let s := wakeThread s (threadKey ck slot)
  match (s.core ck).table.find? fun e => bitOf e.vec slot with
  | some e =>
    let tks := threadsIn ck e.vec
    tks.foldl placeThread (tks.foldl unplace s)
  | none => s

/-- The parity of a register goes bad. -/
def parityError (s : State) (ck slot reg : Nat) : State :=
  if reg = 0 then s else s.modCore ck fun c => { c with parity := (slot, reg) :: c.parity }

/-! ### What the L2, the directory and the keel do of themselves -/

/-- An eviction from a die's L2: a pinned line stays (R241). -/
def evictLine (s : State) (die key : Nat) : State :=
  if (mgetD (s.die die).pins key []) = [] then (dropLine s die key).1 else s

/-- A directory entry leaves its die's directory: its watches are woken (R334). -/
def unwatch (s : State) (die key : Nat) : State :=
  let ws := (mgetD (s.die die).dir key {}).watches
  if ws = [] then s
  else
    ws.foldl (fun s w =>
      sendPacket s die w.die (key / 2 ^ 57) .bridle (.wake { core := w.core, slot := w.slot, key := .line (key % 2 ^ 57) 0 }))
      (s.modDie die fun d => { d with dir := mmod d.dir key {} fun e => { e with watches := [] } })

/-- The keel gives a partition a part of an I/O die's capacity tier (R354): one that lies inside it and meets no other partition's. -/
def giveShare (s : State) (die vas base size : Nat) : State :=
  let d := s.die die
  let free : Bool := d.shares.all fun p => p.1 = vas || base + size ≤ p.2.1 || p.2.1 + p.2.2 ≤ base
  if isIo die && (s.keel (moduleOf die)).verified && base + size ≤ d.memSize && free then s.modDie die fun d => { d with shares := mput d.shares vas (base, size) }
  else s

/-! ### A turn -/

/-- What a turn other than an instruction does; none when it must wait. -/
def runTurn (s : State) : Turn → Option State
  | .event _ | .issue _ _ => some s
  | .kernelStore die core pa bs => some (sailStore s die core pa bs)
  | .hostStore a bs => some { s with hostMem := Memory.write s.hostMem a bs }
  | .keelRequest m bs => some (hostMail s m bs)
  | .evict die key => some (evictLine s die key)
  | .tick ck n => some (if s.up (dieOfCore ck) then s.elapse ck n [] none else s)
  | .parity ck slot reg => some (parityError s ck slot reg)
  | .memError die pa code => some (lineError s die pa code)
  | .scratchError ck off => some (scratchError s ck off)
  | .cacheError die key => some (cacheError s die key)
  | .l1Error ck key => some (l1Error s ck key)
  | .ballastError gk place => some (ballastError s gk place)
  | .accError qk key => some (accError s qk key)
  | .tableError ck slot => some (tableError s ck slot)
  | .install fk base size heads => some (installNative s fk base size heads)
  | .slotWrite die slot root seq mb => some (writeSlot s die slot root seq mb)
  | .windowStore die core va bs => windowWrite s die core va bs
  | .opmStore die core win loc bs => if kernelUp s die then opmWrite s die core win loc bs else some s
  | .sparArrive die p => some (if s.up die && isIo die then s.modDie die fun d => { d with spar := d.spar ++ [p] } else s)
  | .hdm die base size => some (if isIo die then s.modDie die fun d => { d with hdmBase := base, hdmSize := size } else s)
  | .routerRequest die => some (s.modDie die fun d => { d with router := true })
  | .forward load store => some (forwardLoad s load store)
  | .unwatch die key => some (unwatch s die key)
  | .flitSend n => some ((flitSend s n).getD s)
  | .flitTake n => some ((flitTake s n).getD s)
  | .portRetry die => some (if s.up die && isIo die then settlePort s die else s)
  | .share die vas base size => some (giveShare s die vas base size)
  | .supCore die core c => some (setSup s die core c)
  | .supLoad die core rd src addr n => supLoad s die core rd src addr n
  | .supIrq die core => some (supInterrupt s die core)
  | .image m key bs => some (s.modKeel m fun k => { k with store := mput k.store key bs })
  | .keelCore m c => some (s.modKeel m fun k => { k with core := { c with x := mdel c.x 0 } })

end Sys2Proof.Machine
end

