-- ==== Sys2Proof/Machine/Schedule.lean ====
section
/-! DEFINITION. What a step does next (log 3): the first of the turns; else the next word of the bundle in focus; else, by default, a
packet of the fabric that can move on, or the first of the device's own events that changes anything, or the next word of a bundle. -/

namespace Sys2Proof.Machine

set_option Elab.async false

/-! ### Words -/

/-- The next word of a bundle, and whether it ends the block. -/
def State.nextWord (s : State) (k : Nat) : Option (Nat × Bool) := (s.bundle k).code[(s.bundle k).pos]?

/-- The instruction of the next word of the bundle in slot k, decoded in the bundle's form (R86, R112). -/
def State.nextInstr (s : State) (k : Nat) : Option Instr :=
  match s.nextWord k with
  | none => none
  | some (w, _) => if (s.bundle k).glomer then some (.glomerWord (BitVec.ofNat 64 w)) else decodeWord w

/-- The next word of a bundle runs; a word that is no instruction traps (R110); a bundle without words ends, but one that still waits for
them does not. -/
def runBundle (k : Nat) (s : State) : Host.Outcome State Fault Refusal :=
  match s.nextInstr k with
  | some i => exec i { s with focus := some k, turnCore := k / 2 }
  | none =>
    .next (if (s.nextWord k).isSome then badWord k s
      else if (s.bundle k).fetching then { s with focus := none }
      else { s with bundles := mdel s.bundles k, focus := none })

/-! ### The default (log 3) -/

/-- What an event does. -/
abbrev Move := State → Host.Outcome State Fault Refusal

/-- What waits at an I/O die's port and in its hold buffer is tried again (R378). -/
def portMove (die : Nat) : Move := fun s => .next (if s.up die && isIo die then settlePort s die else s)

/-- Events of one die that the state may be ready for. -/
def dieEvents (s : State) (p : Nat × Die) : List Move :=
  let (d, v) := p
  let qk (i : Nat) := d * 32 + i
  let quads := ((List.range 32).filter fun i => (mget s.quads (qk i)).isSome)
  (v.queues.map fun q => execHeaderTake d q.1)
    ++ [execLaunchIntake d, execTrainArrival d, execTrainAdmit d, execTrainEndReport d, execHeldNotice d, execPublish d,
      execFaultQueueEntry d, execTrapRecordWrite d, execExitRecordWrite d, execConflictNotice d, execWakeMessage d,
      execSolitaryTokenGrant d, execBridleSend d, execBridleReceive d, execSequencerMulticast d, execKmsg d, execMap d,
      execRevoke d, execAck d, execCommit d, execNotice d, execTraceRecordWrite d, execResume d, execKillThread d, execKillGroup d,
      execFaultFlight d, execRetryfault d, execFailfault d, execCombineContribution d, execSparWrite d, execWarmResetDrained d,
      execPreemptStart d, execTokenTimeout d, execPassAdvance d, portMove d]
    ++ (v.rings.flatMap fun r =>
      [execDescVaToVa d r.1, execDescVaToHost d r.1, execDescHostToVa d r.1, execDescVaToSpar d r.1, execDescFrame d r.1,
        execDescZero d r.1, execDescriptorEnd d r.1])
    ++ quads.flatMap fun i =>
      ((s.quad (qk i)).table.flatMap fun e =>
        [execMatrixEntryFront d i e.id, execMstatPerform d i e.id, execMdrainPerform d i e.id, execMzeroPerform d i e.id,
          execOperandFetchStop d i e.id])
        ++ [execArbiterGrant d i, execPassEnd d i, execStreamerEntryStart d i, execCopyGranule d i .good, execCopyFault d i .good,
          execCopySync d i, execCombineResend d i, execCombineCounterAdd d i]

/-- Events of one train. -/
def trainEvents (p : Nat × Train) : List Move :=
  [execPreemptStopComplete p.2.die p.1, execContextSaveComplete p.2.die p.1, execTrainEnd p.2.die p.1]

/-- Events of one thread, and of a core's bundle slots. -/
def threadEvents (tk : Nat) : List Move :=
  let (d, c) := (dieOfThread tk, coreOfThread tk % 128)
  [execThreadWaiting d c (slotOf tk), execMarionetteCompare d c (slotOf tk)]
def coreEvents (ck : Nat) : List Move :=
  [execBundleSelect (dieOfCore ck) (ck % 128) 0, execBundleSelect (dieOfCore ck) (ck % 128) 1]

/-- A SYSCALL of a number that names no service is answered by default; the sail's own services are not (log 3). -/
def unserved (id : Nat) : Move := fun s =>
  match s.asked id with
  | some r => if 7 ≤ r.service && r.service < 2 ^ 31 then execSyscallAnswer id (some 0) s else .next s
  | none => .next s

/-- What a die kernel does for a SYSCALL by itself; MAP asks other kernels for frames, and is a turn. -/
def callEvents (id : Nat) : List Move :=
  [execSyscallEcho id, execSyscallQreg id, execSyscallQhalt id, execSyscallUnmap id, execSyscallWindow id, execTraceOpen id, execTraceStop id,
    execTraceStatus id, execTraceClose id, unserved id]

/-- Events of one request. -/
def reqEvents (r : Req) : List Move :=
  [execPageTableWalk r.id, execHomeRequest r.id, execAnswerPerformed r.id, execAnswerMoved r.id, execAnswerResetting r.id, execAnswerFault r.id,
    execDeferredRefusal r.id, execRequestResend r.id, execPublishConfirm r.id, execWidenAnswer r.id]
    ++ if r.kind = .syscall then callEvents r.id else []

/-- Events that a clock brings about: they come last. -/
def timedEvents (s : State) : List Move :=
  (s.cores.map fun p => execSampleTimer (dieOfCore p.1) (p.1 % 128))
    ++ s.quads.map fun p => execPairedHoldTimeout (p.1 / 32) (p.1 % 32)

/-- The cores, beginning behind the one whose word ran last. -/
def coresInTurn (s : State) : List Nat :=
  let (a, b) := (s.cores.map Prod.fst).partition fun c => s.turnCore < c
  a ++ b

/-- The device's own events that the state may be ready for, in the order in which the default tries them. -/
def State.ownEvents (s : State) : List Move :=
  (s.threads.flatMap fun p => threadEvents p.1) ++ s.reqs.flatMap reqEvents
    ++ (s.groups.flatMap fun p => if p.2.zeroing = 0 then [] else
        [execScratchZeroingDone (dieOfCore (coreOfGroup p.1)) (coreOfGroup p.1 % 128) (p.1 % 65536)])
    ++ s.dies.flatMap (dieEvents s) ++ s.trains.flatMap trainEvents ++ (coresInTurn s).flatMap coreEvents

/-- The first of a list of events that changes the state runs. -/
def firstEffect : List Move → State → Option (Host.Outcome State Fault Refusal)
  | [], _ => none
  | f :: r, s =>
    match f s with
    | .next t => if t = s then firstEffect r s else some (.next t)
    | o => some o

/-- The bundle slot that issues next: of the first core, in turn, that holds a bundle able to issue (R65). -/
def nextSlot (s : State) : Option Nat :=
  let cs := (s.bundles.map fun p => p.1 / 2).eraseDups
  let (a, b) := cs.partition fun c => s.turnCore < c
  (a ++ b).findSome? fun ck => pickFocus ck s

/-! ### A step -/

/-- With no turn: the focused bundle; else what moves in the fabric; else an event, so that a free slot selects before a word runs (R58);
else a word; else an event that a clock brings about. -/
def runDefault (s : State) : Host.Outcome State Fault Refusal :=
  match s.focus with
  | some k => if (mget s.bundles k).isSome then runBundle k s else .next { s with focus := none }
  | none =>
    match fabricStep s with
    | some s => .next s
    | none =>
      match firstEffect s.ownEvents s with
      | some o => o
      | none =>
        match nextSlot s with
        | some k => runBundle k s
        | none => (firstEffect (timedEvents s) s).getD (.next s)

/-- One turn. A turn that must wait goes behind the others; a slot's turn waits while the other stands between a HINT word and its
instruction (R64), and that instruction issues. -/
def runOneTurn (t : Turn) (s : State) : Host.Outcome State Fault Refusal :=
  match t with
  | .event i => if i.isEvent then exec i s else .next s
  | .issue core slot =>
    if s.midWord (2 * core + (1 - slot)) then runBundle (2 * core + (1 - slot)) { s with turns := t :: s.turns }
    else if slot < 2 && (mget s.bundles (2 * core + slot)).isSome then runBundle (2 * core + slot) s
    else .next s
  | t =>
    match runTurn s t with
    | some s => .next s
    | none => .next { s with turns := s.turns ++ [t] }

/-- What the next step does. -/
def runNext (s : State) : Host.Outcome State Fault Refusal :=
  match s.turns with
  | [] => runDefault s
  | t :: r => runOneTurn t { s with turns := r }

end Sys2Proof.Machine
end

