-- ==== Sys2Proof/Machine/Step.lean ====
section
/-! DEFINITION. One step of the machine, and the placing of one instruction where a step fetches. -/

namespace Sys2Proof.Machine

set_option Elab.async false

/-- One step: the next turn, word or event (log 3). -/
def step (s : State) : Host.Outcome State Fault Refusal := runNext s

/-- The state with one instruction as the next word of bundle slot 0 of core 0 of die 0 (log 13). -/
def State.withFetchWord (s : State) (nbits w : Nat) : State := s.placeWord nbits w

end Sys2Proof.Machine
end

