-- ==== Sys2Proof/Safety.lean ====
section
/-! DEFINITION. What counts as a safe run, and the terms in which claims speak of one instruction word: what must hold for a word to have
its own effect, and what may change beside it. -/

namespace Sys2Proof.Safety

set_option Elab.async false

open Sys2Proof.Machine

/-- The outcome is a next state. -/
def Goes (o : Host.Outcome State Fault Refusal) : Prop := ∃ t, o = .next t

/-- n steps from a state each give a next state. -/
def Safe : Nat → State → Prop
  | 0, _ => True
  | n + 1, s => ∃ t, step s = .next t ∧ Safe n t

end Sys2Proof.Safety

namespace Sys2Proof.Machine

/-! ### What no word of the own lanes touches -/

/-- A group without its stall counters (R442). -/
def Group.bare (g : Group) : Group := { g with stalls := [] }

/-- A core without what every streaming word moves: the slot that issued last, the counters (R445), the replay queues, the bad
registers and which of them were loaded (R420). -/
def Core.bare (c : Core) : Core := { c with lastSlot := 0, events := [], cycles := 0, replay := [], parity := [], loaded := [] }

/-- The state without what the frame of a word moves: the focus, the core of the turn, cores, groups, threads and bundles. -/
def State.rest (s : State) : State :=
  { s with focus := none, turnCore := 0, cores := [], groups := [], threads := [], bundles := [] }

/-! ### The end of a word -/

/-- If the word at a bundle's place is the last of the streamed code, it ends the block (R50): what a block of at most 64 words means. -/
def State.fitsBlock (s : State) (k : Nat) : Prop :=
  (s.bundle k).code.length ≤ (s.bundle k).pos + 1 → (((s.bundle k).code[(s.bundle k).pos]?).map (·.2)).getD true = true

/-- What the end of a word leaves of a lane: past the word, and on its way to the next head after the block's last word. -/
def lastLane (b : Bundle) (i : Instr) (t : Thread) : Thread :=
  if b.code.length ≤ b.pos + 1 then { t.past i with stat := .ret, sEnd := (info i).s, gLeft := 0, gPat := 0 } else t.past i

/-- Nothing keeps a word of the bundle in slot k from its own effect: the bundle is in focus; the word is legal there (R111); no register
of the core has a parity error (R420); its lanes are distinct threads; and no lane is inside a transaction where R324 forbids the word. -/
structure Ready (i : Instr) (k : Nat) (s : State) : Prop where
  focus : s.focus = some k
  legal : s.subAt k i = 0
  parity : (s.core (k / 2)).parity = []
  distinct : (s.bundle k).lanes.Nodup
  fits : s.fitsBlock k
  tx : (info i).tx = .free ∨ ∀ tk ∈ s.lanes k, (s.thread tk).tx = []

/-! ### The frame of a word -/

/-- Beside what `mid` has that `s` has not, a word of the bundle in slot k changes nothing but threads of its lanes, its bundle's place, and
what every word moves. -/
structure Around (k : Nat) (s mid t : State) : Prop where
  rest : t.rest = mid.rest
  groups : ∀ g, (t.group g).bare = (mid.group g).bare
  cores : ∀ c, (t.core c).bare = (mid.core c).bare
  threads : ∀ tk, tk ∉ s.lanes k → t.thread tk = mid.thread tk
  bundles : ∀ j, j ≠ k → t.bundle j = mid.bundle j

/-- A thread without what every word moves (R70, R102, R104): its place, its window, the pending hints, the guard, the boost. -/
def Thread.still (t : Thread) : Thread :=
  { t with
    stat := .ret, off := 0, win := [], sMust := false, sEnd := false, boost := 0, hImm := none, hOff := none, hRnd := none,
    hFtz := none, hSat := false, hPol := none, hPrio := none, gLeft := 0, gPat := 0 }

/-- The same without its registers. -/
def Thread.stillNoRegs (t : Thread) : Thread := { t.still with regs := [], wrote := [] }

/-- A lane has moved past a word that is no hint: one word further, its hints used up, the guard one word shorter; it goes on
streaming, or to the next head when the word was the block's last. -/
structure Passed (last : Bool) (old new : Thread) : Prop where
  off : new.off = old.off + 1
  stat : new.stat = if last then .ret else old.stat
  hints : new.hImm = none ∧ new.hOff = none ∧ new.hRnd = none ∧ new.hFtz = none ∧ new.hSat = false ∧ new.hPol = none ∧ new.hPrio = none
  guard : new.gLeft = (if last then 0 else old.gLeft - 1) ∧ new.gPat = (if last then 0 else old.gPat / 2)
  boost : new.boost = if old.on then old.hPrio.getD old.boost else old.boost

/-- The word at the bundle's place is the last of its block. -/
def State.atLast (s : State) (k : Nat) : Bool := (s.bundle k).code.length ≤ (s.bundle k).pos + 1

/-- The word of a destination that lands in register r: none outside the destination, none for v0 and for the transient destination,
which discard (R71, R88). -/
def landsAt (d : Dst) (r : Nat) : Option Nat :=
  match d with
  | .reg n => if r ≠ 0 ∧ n ≤ r then some (r - n) else none
  | .trans => none

/-- An ALU-class word has written the words `vals` to the destination d of a lane (R67): each register of the destination holds its word,
every other register what it held; the window has the result first (R70). Where the guard was off (R104), no register changes, and the
window has what the destination held (R73). Nothing else of the thread changes. -/
structure Result (last : Bool) (d : Dst) (vals : List Word) (old new : Thread) : Prop where
  passed : Passed last old new
  reg : ∀ r, new.reg r = if old.on then ((landsAt d r).bind fun i => vals[i]?).getD (old.reg r) else old.reg r
  win : new.win = some (if old.on then vals else old.oldWords d vals.length) :: old.win
  frame : new.stillNoRegs = old.stillNoRegs

/-- The ALU-class word i, of destination d, gives each lane the words `f` of the thread as it stood before the word, and does nothing
else. -/
def AluResult (i : Instr) (d : Dst) (f : Thread → List Word) : Prop :=
  ∀ (k : Nat) (s : State), Ready i k s →
    ∃ t, exec i s = .next t ∧ Around k s s t ∧
      ∀ tk ∈ s.lanes k, Result (s.atLast k) d (f (s.thread tk)) (s.thread tk) (t.thread tk)

/-! ### Words that ask something of the memory system -/

/-- A die without the faults that wait to be entered into its fault queue (R370). -/
def Die.noFaults (d : Die) : Die := { d with faults := [] }

/-- A core without what streaming words move and without its L1 (R239). -/
def Core.calm (c : Core) : Core := { c.bare with l1 := [] }

/-- A group without its stall counters and its ballast (R415). -/
def Group.calm (g : Group) : Group := { g.bare with ballast := [], opened := true }

/-- A thread without what making a request moves: its state, the effects kept for hashes and comparison (R83, R451), the signal of a
release fence (R245), traps found (R410), results on their way (R68). -/
def Thread.noAsks (t : Thread) : Thread :=
  { t with stat := .ret, stores := [], sends := [], relSig := none, cands := [], pend := [], lvq := [] }

/-- A thread without that and without what every word moves: its registers, its modes, its transactions and all else remain. -/
def Thread.calm (t : Thread) : Thread := t.noAsks.still

/-- The state without its dies, cores, groups, threads, bundles, requests and links: every memory, page tags, errors, quads, waves, flights,
trains, saved contexts, sessions, keel and host remain. -/
def State.aside (s : State) : State :=
  { s with
    focus := none, turnCore := 0, nextId := 0, dies := [], cores := [], groups := [], threads := [], bundles := [], reqs := [], links := [] }

/-- The links of t are those of s, but for packets of requests, numbered from n on, that have joined them (R24, R314). -/
def Forwarded (n : Nat) (s t : State) : Prop :=
  ∀ l, ∃ more, t.link l = { s.link l with buf := (s.link l).buf ++ more } ∧ ∀ p ∈ more, ∃ id, n ≤ id ∧ p.body = .req id

/-- A word of the bundle in slot k has only asked: it has added requests, and taken traps where a lane's checks failed. No memory, no
register, no control register and nothing of another bundle has changed; each lane that has found no trap is past the word. -/
structure OnlyAsked (k : Nat) (s t : State) : Prop where
  aside : t.aside = s.aside
  dies : ∀ d, (t.die d).noFaults = (s.die d).noFaults
  cores : ∀ c, (t.core c).calm = (s.core c).calm
  groups : ∀ g, (t.group g).calm = (s.group g).calm
  threads : ∀ tk, (t.thread tk).calm = (s.thread tk).calm
  regs : ∀ tk r, (t.thread tk).reg r = (s.thread tk).reg r
  bundles : ∀ j, j ≠ k → t.bundle j = s.bundle j
  links : Forwarded s.nextId s t
  reqs : ∃ new, t.reqs = s.reqs ++ new ∧ ∀ r ∈ new, s.nextId ≤ r.id
  lanes : ∀ tk ∈ s.lanes k, (t.thread tk).cands = (s.thread tk).cands →
    Passed (s.atLast k) (s.thread tk) (t.thread tk) ∧ (t.thread tk).win = none :: (s.thread tk).win

end Sys2Proof.Machine
end

