-- ==== Sys2Proof/Certificates/Slice0/Obligations.lean ====
section
/-! DEFINITION. The statements for the provers. The terms they share stand in Safety.lean and in the namespace Sys2Proof.Claims. -/

namespace Sys2Proof.Claims

open Sys2Proof Sys2Proof.Machine

/-- The word whose bit i is `f i`. -/
def eachBit (f : Nat → Bool) : Word := (BitVec.ofBoolListLE ((List.range 32).map f)).setWidth 32

/-- One row of an opcode table: the words of well-formed instructions of the row have the major and the minor that the table gives, and
the instruction writes the words `f` of each lane's thread to its destination, and does nothing else. -/
def Row (major minor : Nat) (i : Instr) (d : Dst) (f : Thread → List Word) : Prop :=
  (i.wf = true → bits i.word 30 25 = major ∧ bits i.word 3 0 = minor) ∧ AluResult i d f

/-- What is sent to a die has come there, or a packet that carries it is on its way. -/
def Sent (t : State) (dst : Nat) (b : Body) (here : Prop) : Prop := here ∨ ∃ p ∈ t.packets, p.dst = dst ∧ p.body = b

end Sys2Proof.Claims

open Sys2Proof Sys2Proof.Machine Sys2Proof.Claims

/-! ### Integer words (R158 to R172) -/

/-- R158: the thirteen instructions of IARITH, their words' major and minor, and their results. -/
def Sys2Proof.Claims.IntegerArithmetic : Prop :=
  ∀ (s : Bool) (d : Dst) (a b : Opnd),
    Row 0x0A 0 (.iadd s d a b) d (fun t => [t.src a + t.src b]) ∧
    Row 0x0A 1 (.isub s d a b) d (fun t => [t.src a - t.src b]) ∧
    Row 0x0A 2 (.iadds s d a b) d (fun t => [BitVec.ofInt 32 (max (-2 ^ 31) (min (2 ^ 31 - 1) ((t.src a).toInt + (t.src b).toInt)))]) ∧
    Row 0x0A 3 (.isubs s d a b) d (fun t => [BitVec.ofInt 32 (max (-2 ^ 31) (min (2 ^ 31 - 1) ((t.src a).toInt - (t.src b).toInt)))]) ∧
    Row 0x0A 4 (.uadds s d a b) d (fun t => [BitVec.ofNat 32 (min ((t.src a).toNat + (t.src b).toNat) (2 ^ 32 - 1))]) ∧
    Row 0x0A 5 (.usubs s d a b) d (fun t => [BitVec.ofInt 32 (max (((t.src a).toNat : Int) - (t.src b).toNat) 0)]) ∧
    Row 0x0A 6 (.imin s d a b) d (fun t => [BitVec.ofInt 32 (min (t.src a).toInt (t.src b).toInt)]) ∧
    Row 0x0A 7 (.imax s d a b) d (fun t => [BitVec.ofInt 32 (max (t.src a).toInt (t.src b).toInt)]) ∧
    Row 0x0A 8 (.umin s d a b) d (fun t => [BitVec.ofNat 32 (min (t.src a).toNat (t.src b).toNat)]) ∧
    Row 0x0A 9 (.umax s d a b) d (fun t => [BitVec.ofNat 32 (max (t.src a).toNat (t.src b).toNat)]) ∧
    Row 0x0A 10 (.iabs s d a) d (fun t => [BitVec.ofInt 32 (if (t.src a).toInt < 0 then -(t.src a).toInt else (t.src a).toInt)]) ∧
    Row 0x0A 11 (.ineg s d a) d (fun t => [BitVec.ofInt 32 (-(t.src a).toInt)]) ∧
    Row 0x0A 12 (.idiff s d a b) d (fun t =>
      [BitVec.ofInt 32 (max ((t.src a).toInt - (t.src b).toInt) ((t.src b).toInt - (t.src a).toInt))])

/-- R159 and R168: LOGIC works bit by bit; SEL chooses by its destination's old value. -/
def Sys2Proof.Claims.BitwiseLogicAndSelect : Prop :=
  ∀ (s : Bool) (d : Dst) (a b : Opnd),
    Row 0x0B 0 (.and s d a b) d (fun t => [eachBit fun i => (t.src a).getLsbD i && (t.src b).getLsbD i]) ∧
    Row 0x0B 1 (.or s d a b) d (fun t => [eachBit fun i => (t.src a).getLsbD i || (t.src b).getLsbD i]) ∧
    Row 0x0B 2 (.xor s d a b) d (fun t => [eachBit fun i => (t.src a).getLsbD i != (t.src b).getLsbD i]) ∧
    Row 0x0B 3 (.andn s d a b) d (fun t => [eachBit fun i => (t.src a).getLsbD i && !(t.src b).getLsbD i]) ∧
    Row 0x0B 4 (.orn s d a b) d (fun t => [eachBit fun i => (t.src a).getLsbD i || !(t.src b).getLsbD i]) ∧
    Row 0x0B 5 (.xnor s d a b) d (fun t => [eachBit fun i => (t.src a).getLsbD i == (t.src b).getLsbD i]) ∧
    Row 0x0B 6 (.not s d a) d (fun t => [eachBit fun i => !(t.src a).getLsbD i]) ∧
    Row 0x0F 10 (.sel s d a b) d (fun t => [if t.old d = 0 then t.src b else t.src a])

/-- R160: shifts by a register amount. -/
def Sys2Proof.Claims.ShiftsByRegister : Prop :=
  ∀ (s : Bool) (d : Dst) (a b : Opnd),
    Row 0x0C 0 (.shl s d a b) d (fun t => [BitVec.ofNat 32 ((t.src a).toNat * 2 ^ (t.src b).toNat)]) ∧
    Row 0x0C 1 (.shr s d a b) d (fun t => [BitVec.ofNat 32 ((t.src a).toNat / 2 ^ (t.src b).toNat)]) ∧
    Row 0x0C 2 (.sar s d a b) d (fun t => [BitVec.ofInt 32 ((t.src a).toInt / ((2 ^ min (t.src b).toNat 31 : Nat) : Int))]) ∧
    Row 0x0C 3 (.rol s d a b) d (fun t => [eachBit fun i => (t.src a).getLsbD ((i + 32 - (t.src b).toNat % 32) % 32)]) ∧
    Row 0x0C 4 (.ror s d a b) d (fun t => [eachBit fun i => (t.src a).getLsbD ((i + (t.src b).toNat % 32) % 32)])

/-- R161, R162, R163, R164: counts, reversals, bit fields and byte permutes. -/
def Obligations.BitFieldsAndBytes : Prop :=
  ∀ (s : Bool) (d : Dst) (a b : Opnd),
    Row 0x0D 0 (.popc s d a) d (fun t => [BitVec.ofNat 32 ((List.range 32).countP fun i => (t.src a).getLsbD i)]) ∧
    Row 0x0D 1 (.clz s d a) d (fun t => [BitVec.ofNat 32 (((List.range 32).takeWhile fun i => !(t.src a).getLsbD (31 - i)).length)]) ∧
    Row 0x0D 2 (.ctz s d a) d (fun t => [BitVec.ofNat 32 (((List.range 32).takeWhile fun i => !(t.src a).getLsbD i).length)]) ∧
    Row 0x0D 3 (.brev s d a) d (fun t => [eachBit fun i => (t.src a).getLsbD (31 - i)]) ∧
    Row 0x0D 8 (.bswap s d a) d (fun t => [eachBit fun i => (t.src a).getLsbD (8 * (3 - i / 8) + i % 8)]) ∧
    Row 0x0D 4 (.bfe s d a b) d (fun t =>
      [let pos := bits (t.src b).toNat 4 0
       let len := min (bits (t.src b).toNat 13 8) 32
       eachBit fun i => decide (0 < len) && (t.src a).getLsbD (min (pos + min i (len - 1)) 31)]) ∧
    Row 0x0D 5 (.bfeu s d a b) d (fun t =>
      [let pos := bits (t.src b).toNat 4 0
       let len := min (bits (t.src b).toNat 13 8) 32
       eachBit fun i => decide (i < len) && (t.src a).getLsbD (pos + i)]) ∧
    Row 0x0D 6 (.bfi s d a b) d (fun t =>
      [let pos := bits (t.src b).toNat 4 0
       let len := min (bits (t.src b).toNat 13 8) 32
       eachBit fun i => if pos ≤ i ∧ i < pos + len then (t.src a).getLsbD (i - pos) else (t.old d).getLsbD i]) ∧
    Row 0x0D 7 (.bperm s d a b) d (fun t =>
      [eachBit fun i =>
        let c := bits (t.src b).toNat (4 * (i / 8) + 3) (4 * (i / 8))
        let byte := c % 8
        let from8 : Nat → Bool := fun j => if byte < 4 then (t.src a).getLsbD (8 * byte + j) else (t.old d).getLsbD (8 * (byte - 4) + j)
        if c < 8 then from8 (i % 8) else from8 7])

/-- R165, R166: multiplies and four-element dot products. -/
def Sys2Proof.Claims.Multiplies : Prop :=
  ∀ (s : Bool) (d : Dst) (a b : Opnd),
    Row 0x0E 0 (.imul s d a b) d (fun t => [BitVec.ofNat 32 ((t.src a).toNat * (t.src b).toNat)]) ∧
    Row 0x0E 1 (.imulhi s d a b) d (fun t => [BitVec.ofInt 32 ((t.src a).toInt * (t.src b).toInt / 4294967296)]) ∧
    Row 0x0E 2 (.umulhi s d a b) d (fun t => [BitVec.ofNat 32 ((t.src a).toNat * (t.src b).toNat / 4294967296)]) ∧
    Row 0x0E 3 (.imad s d a b) d (fun t => [BitVec.ofNat 32 ((t.old d).toNat + (t.src a).toNat * (t.src b).toNat)]) ∧
    Row 0x0E 4 (.umadw s d a b) d (fun t => pairWords (BitVec.ofNat 64 ((t.oldPair d).toNat + (t.src a).toNat * (t.src b).toNat))) ∧
    Row 0x0E 5 (.imadw s d a b) d (fun t => pairWords (BitVec.ofInt 64 ((t.oldPair d).toInt + (t.src a).toInt * (t.src b).toInt))) ∧
    Row 0x0E 6 (.idot4 s d a b) d (fun t =>
      [let e (x : Word) (i : Nat) : Int := (x.extractLsb' (8 * i) 8).toInt
       let p (i : Nat) : Int := e (t.src a) i * e (t.src b) i
       let sum := (t.old d).toInt + p 0 + p 1 + p 2 + p 3
       BitVec.ofInt 32 (if t.hSat then max (-2 ^ 31) (min (2 ^ 31 - 1) sum) else sum)]) ∧
    Row 0x0E 7 (.udot4 s d a b) d (fun t =>
      [let e (x : Word) (i : Nat) : Nat := (x.extractLsb' (8 * i) 8).toNat
       let p (i : Nat) : Nat := e (t.src a) i * e (t.src b) i
       let sum := (t.old d).toNat + p 0 + p 1 + p 2 + p 3
       BitVec.ofNat 32 (if t.hSat then min sum (2 ^ 32 - 1) else sum)])

/-- R167: a comparison writes 1 when its relation holds and 0 when it does not. -/
def Sys2Proof.Claims.IntegerCompares : Prop :=
  ∀ (s : Bool) (d : Dst) (a b : Opnd),
    Row 0x0F 0 (.isetEq s d a b) d (fun t => [if t.src a = t.src b then 1 else 0]) ∧
    Row 0x0F 1 (.isetNe s d a b) d (fun t => [if t.src a = t.src b then 0 else 1]) ∧
    Row 0x0F 2 (.isetLt s d a b) d (fun t => [if (t.src a).toInt < (t.src b).toInt then 1 else 0]) ∧
    Row 0x0F 3 (.isetLe s d a b) d (fun t => [if (t.src a).toInt ≤ (t.src b).toInt then 1 else 0]) ∧
    Row 0x0F 4 (.isetGt s d a b) d (fun t => [if (t.src b).toInt < (t.src a).toInt then 1 else 0]) ∧
    Row 0x0F 5 (.isetGe s d a b) d (fun t => [if (t.src b).toInt ≤ (t.src a).toInt then 1 else 0]) ∧
    Row 0x0F 6 (.usetLt s d a b) d (fun t => [if (t.src a).toNat < (t.src b).toNat then 1 else 0]) ∧
    Row 0x0F 7 (.usetLe s d a b) d (fun t => [if (t.src a).toNat ≤ (t.src b).toNat then 1 else 0]) ∧
    Row 0x0F 8 (.usetGt s d a b) d (fun t => [if (t.src b).toNat < (t.src a).toNat then 1 else 0]) ∧
    Row 0x0F 9 (.usetGe s d a b) d (fun t => [if (t.src b).toNat ≤ (t.src a).toNat then 1 else 0])

/-- R169, R170, R171: the immediate forms; a pending HINT IMM widens the immediate of the first four. -/
def Obligations.ImmediateForms : Prop :=
  ∀ (s : Bool) (d : Dst) (a : Opnd) (imm : BitVec 11) (n : BitVec 5) (wide : BitVec 18),
    let wideImm (p : BitVec 21) : Word := BitVec.ofNat 32 (p.toNat * 2 ^ 11 + imm.toNat)
    let sImm (t : Thread) : Word := match t.hImm with | some p => wideImm p | none => BitVec.ofInt 32 imm.toInt
    let zImm (t : Thread) : Word := match t.hImm with | some p => wideImm p | none => BitVec.ofNat 32 imm.toNat
    AluResult (.iaddi s d a imm) d (fun t => [t.src a + sImm t]) ∧
    AluResult (.andi s d a imm) d (fun t => [t.src a &&& zImm t]) ∧
    AluResult (.ori s d a imm) d (fun t => [t.src a ||| zImm t]) ∧
    AluResult (.xori s d a imm) d (fun t => [t.src a ^^^ zImm t]) ∧
    AluResult (.shli s d a n) d (fun t => [BitVec.ofNat 32 ((t.src a).toNat * 2 ^ n.toNat)]) ∧
    AluResult (.shri s d a n) d (fun t => [BitVec.ofNat 32 ((t.src a).toNat / 2 ^ n.toNat)]) ∧
    AluResult (.sari s d a n) d (fun t => [BitVec.ofInt 32 ((t.src a).toInt / ((2 ^ n.toNat : Nat) : Int))]) ∧
    AluResult (.roli s d a n) d (fun t => [eachBit fun i => (t.src a).getLsbD ((i + 32 - n.toNat) % 32)]) ∧
    AluResult (.rori s d a n) d (fun t => [eachBit fun i => (t.src a).getLsbD ((i + n.toNat) % 32)]) ∧
    AluResult (.movi s d wide) d (fun _ => [BitVec.ofInt 32 wide.toInt]) ∧
    AluResult (.movhi s d wide) d (fun t => [BitVec.ofNat 32 (wide.toNat * 2 ^ 14 + (t.old d).toNat % 2 ^ 14)])

/-- R172: address arithmetic, on pairs modulo 2^64 and on scratch addresses within their 18 bits. -/
def Sys2Proof.Claims.AddressArithmetic : Prop :=
  ∀ (s : Bool) (d : Dst) (a b : Opnd),
    Row 0x18 0 (.addp s d a b) d (fun t => pairWords (BitVec.ofInt 64 ((t.pair a).toNat + (t.src b).toInt))) ∧
    Row 0x18 1 (.addps s d a b) d (fun t =>
      [BitVec.ofNat 32 (bits (t.src a).toNat 31 18 * 2 ^ 18 + (bits (t.src a).toNat 17 0 + (t.src b).toNat) % 2 ^ 18)]) ∧
    Row 0x18 2 (.leap1 s d a b) d (fun t => pairWords (BitVec.ofInt 64 ((t.pair a).toNat + (t.src b).toInt * 2))) ∧
    Row 0x18 3 (.leap2 s d a b) d (fun t => pairWords (BitVec.ofInt 64 ((t.pair a).toNat + (t.src b).toInt * 4))) ∧
    Row 0x18 4 (.leap3 s d a b) d (fun t => pairWords (BitVec.ofInt 64 ((t.pair a).toNat + (t.src b).toInt * 8))) ∧
    Row 0x18 5 (.leap4 s d a b) d (fun t => pairWords (BitVec.ofInt 64 ((t.pair a).toNat + (t.src b).toInt * 16))) ∧
    Row 0x18 6 (.subp s d a b) d (fun t => pairWords (BitVec.ofInt 64 (((t.pair a).toNat : Int) - (t.pair b).toNat)))

/-- R158, R167: IARITH and ISET. -/
def Obligations.IntegerArithmeticAndCompares : Prop := Sys2Proof.Claims.IntegerArithmetic ∧ Sys2Proof.Claims.IntegerCompares

/-- R159, R160, R168: LOGIC, SEL and SHIFT. -/
def Obligations.LogicSelectAndShifts : Prop := Sys2Proof.Claims.BitwiseLogicAndSelect ∧ Sys2Proof.Claims.ShiftsByRegister

/-- R165, R166, R172: IMULT and ADDR. -/
def Obligations.MultipliesAndAddresses : Prop := Sys2Proof.Claims.Multiplies ∧ Sys2Proof.Claims.AddressArithmetic

/-! ### Floating point (R128 to R132, R157, R173 to R191) -/

namespace Sys2Proof.Claims

/-- The magnitude of a format's code without its sign, as significand and exponent, with the exponent range unbounded above (R130). -/
def magnitude (f : Fmt) (n : Nat) : Nat × Int :=
  if n / 2 ^ f.fbits = 0 then (n, 1 - (f.bias : Int) - f.fbits)
  else (2 ^ f.fbits + n % 2 ^ f.fbits, ((n / 2 ^ f.fbits : Nat) : Int) - f.bias - f.fbits)

/-- How c · m · 2^e stands to p/q, q > 0. -/
def compareTo (c : Nat) (x : Nat × Int) (p q : Nat) : Ordering :=
  if 0 ≤ x.2 then compare (c * x.1 * 2 ^ x.2.toNat * q) p else compare (c * x.1 * q) (p * 2 ^ (-x.2).toNat)

/-- The rounding mode, FTZ and SAT in force for a thread's next word (R130, R131, R132): those of a HINT MOD word, else the thread's. -/
def inForce (t : Thread) : FMode := { rnd := t.hRnd.getD t.rnd, ftz := t.hFtz.getD t.ftz, sat := t.hSat }

/-- The value of an FP32 operand, under FTZ if it is in force (R132). -/
def value (t : Thread) (x : Word) : FVal := fp32.val (inForce t).ftz x.toNat

/-- The exact sum of terms rounded once into FP32 (R157). -/
def once (t : Thread) (terms : List FVal) : Word := w32 (fp32.sum (inForce t) terms)

/-- An FP32 operand as FMIN and FMAX write it: a subnormal becomes a zero of its sign under FTZ (R174). -/
def flushed (t : Thread) (x : Word) : Word := if (inForce t).ftz && bits x.toNat 30 23 = 0 then x &&& 0x80000000#32 else x

end Sys2Proof.Claims

/-- R128, R130: one rounding. For every format, mode and exact magnitude p/q the rounded code n or n + 1 encloses it, chosen by the mode; a
magnitude above the largest finite value becomes what the table of R130 gives. -/
def Obligations.RoundingIsExactlyOnce : Prop :=
  ∀ f ∈ [fp32, bf16, fp16, e5m2, e4m3], ∀ (mode : Rnd) (sat neg : Bool) (p q : Nat), 0 < q →
    ∃ n : Nat,
      compareTo 1 (magnitude f n) p q ≠ .gt ∧ compareTo 1 (magnitude f (n + 1)) p q = .gt ∧
      (let inexact : Bool := compareTo 1 (magnitude f n) p q = .lt
       let (m0, e0) := magnitude f n
       let (m1, e1) := magnitude f (n + 1)
       let lo := min e0 e1
       -- the middle between the two, times two
       let mid : Nat × Int := (m0 * 2 ^ (e0 - lo).toNat + m1 * 2 ^ (e1 - lo).toNat, lo)
       let up : Bool := match mode with
         | .rne => compareTo 1 mid (2 * p) q = .lt || (compareTo 1 mid (2 * p) q = .eq && n % 2 = 1)
         | .rz => false
         | .ru => !neg && inexact
         | .rd => neg && inexact
       let code := if up then n + 1 else n
       let sign := if neg then 2 ^ (f.ebits + f.fbits) else 0
       f.roundRat mode sat false neg p q =
         if code ≤ f.maxCode then sign + code
         else if sat || (match mode with | .rne => false | .rz => true | .ru => neg | .rd => !neg) then sign + f.maxCode
         else if f.ieee then sign + f.infCode else f.nan)

/-- R157: the special values of a sum of terms, in the table's order, and otherwise the exact sum. -/
def Sys2Proof.Claims.SumOfTerms : Prop :=
  ∀ (mode : Rnd) (ts : List FVal),
    (FVal.nan ∈ ts → sumTerms mode ts = .nan) ∧
    (FVal.inf true ∈ ts → FVal.inf false ∈ ts → sumTerms mode ts = .nan) ∧
    (∀ s, FVal.nan ∉ ts → FVal.inf s ∈ ts → FVal.inf (!s) ∉ ts → sumTerms mode ts = .inf s) ∧
    (∀ (finite : List (Bool × Nat × Nat)) (lo : Int), ts = finite.map (fun x => FVal.num x.1 x.2.1 (lo + x.2.2)) →
      let exact : Int := (finite.map fun x => (if x.1 then -1 else 1) * ((x.2.1 * 2 ^ x.2.2 : Nat) : Int)).sum
      (exact = 0 → ts ≠ [] → (∀ s, (∀ x ∈ finite, x.1 = s ∧ x.2.1 = 0) → ∃ e, sumTerms mode ts = .num s 0 e) ∧
        ((∃ x ∈ finite, x.2.1 ≠ 0 ∨ ∃ y ∈ finite, x.1 ≠ y.1) → ∃ e, sumTerms mode ts = .num (mode = .rd) 0 e)) ∧
      (exact ≠ 0 → ∃ (m : Nat) (e : Int), sumTerms mode ts = .num (exact < 0) m e ∧
        (m : Int) * ((2 ^ (e - min e lo).toNat : Nat) : Int) = exact.natAbs * ((2 ^ (lo - min e lo).toNat : Nat) : Int)))

/-- R173, R174, R175: FP32 addition, subtraction and multiplication, minimum and maximum, and the sign operations. -/
def Sys2Proof.Claims.FloatArithmetic : Prop :=
  ∀ (s : Bool) (d : Dst) (a b : Opnd),
    Row 0x19 0 (.fadd s d a b) d (fun t => [once t [value t (t.src a), value t (t.src b)]]) ∧
    Row 0x19 1 (.fsub s d a b) d (fun t => [once t [value t (t.src a), (value t (t.src b)).neg]]) ∧
    Row 0x19 2 (.fmul s d a b) d (fun t => [once t [(value t (t.src a)).mul (value t (t.src b))]]) ∧
    Row 0x19 3 (.fmin s d a b) d (fun t =>
      [if (value t (t.src a)).isNan && (value t (t.src b)).isNan then 0x7FC00000
       else if (value t (t.src a)).isNan then flushed t (t.src b)
       else if (value t (t.src b)).isNan then flushed t (t.src a)
       else if (value t (t.src b)).lt true (value t (t.src a)) then flushed t (t.src b) else flushed t (t.src a)]) ∧
    Row 0x19 4 (.fmax s d a b) d (fun t =>
      [if (value t (t.src a)).isNan && (value t (t.src b)).isNan then 0x7FC00000
       else if (value t (t.src a)).isNan then flushed t (t.src b)
       else if (value t (t.src b)).isNan then flushed t (t.src a)
       else if (value t (t.src a)).lt true (value t (t.src b)) then flushed t (t.src b) else flushed t (t.src a)]) ∧
    Row 0x19 5 (.fabs s d a) d (fun t => [eachBit fun i => i ≠ 31 && (t.src a).getLsbD i]) ∧
    Row 0x19 6 (.fneg s d a) d (fun t => [eachBit fun i => (t.src a).getLsbD i != (i = 31)]) ∧
    Row 0x19 7 (.fcopysign s d a b) d (fun t => [eachBit fun i => if i = 31 then (t.src b).getLsbD 31 else (t.src a).getLsbD i])

/-- R176, R177: the fused forms round once. -/
def Sys2Proof.Claims.FusedMultiplyAdd : Prop :=
  ∀ (s : Bool) (d : Dst) (a b : Opnd),
    Row 0x1A 0 (.ffma s d a b) d (fun t => [once t [value t (t.old d), (value t (t.src a)).mul (value t (t.src b))]]) ∧
    Row 0x1A 1 (.ffms s d a b) d (fun t => [once t [value t (t.old d), ((value t (t.src a)).mul (value t (t.src b))).neg]]) ∧
    Row 0x1A 2 (.fdot2 s d a b) d (fun t =>
      [let e (x : Word) (i : Nat) : FVal := bf16.val (inForce t).ftz (bits x.toNat (16 * i + 15) (16 * i))
       once t [value t (t.old d), (e (t.src a) 0).mul (e (t.src b) 0), (e (t.src a) 1).mul (e (t.src b) 1)]])

/-- R178, R179: comparisons give 1 or 0, NaN compares unequal to everything; FCLASS sets one bit of ten. -/
def Obligations.FloatComparesAndClass : Prop :=
  ∀ (s : Bool) (d : Dst) (a b : Opnd),
    let num (t : Thread) : Bool := !(value t (t.src a)).isNan && !(value t (t.src b)).isNan
    let lt (t : Thread) : Bool := (value t (t.src a)).lt false (value t (t.src b))
    let gt (t : Thread) : Bool := (value t (t.src b)).lt false (value t (t.src a))
    let one (c : Bool) : List Word := [if c then 1 else 0]
    Row 0x1B 0 (.fsetEq s d a b) d (fun t => one (num t && !lt t && !gt t)) ∧
    Row 0x1B 1 (.fsetNe s d a b) d (fun t => one (!num t || lt t || gt t)) ∧
    Row 0x1B 2 (.fsetLt s d a b) d (fun t => one (num t && lt t)) ∧
    Row 0x1B 3 (.fsetLe s d a b) d (fun t => one (num t && !gt t)) ∧
    Row 0x1B 4 (.fsetGt s d a b) d (fun t => one (num t && gt t)) ∧
    Row 0x1B 5 (.fsetGe s d a b) d (fun t => one (num t && !lt t)) ∧
    Row 0x1B 6 (.fsetUn s d a b) d (fun t => one (!num t)) ∧
    Row 0x1B 7 (.fclass s d a) d (fun t =>
      let neg := (t.src a).getLsbD 31
      let ex := bits (t.src a).toNat 30 23
      let fr := bits (t.src a).toNat 22 0
      let kind : Nat :=
        if ex = 255 ∧ fr ≠ 0 then (if fr < 2 ^ 22 then 8 else 9)
        else if ex = 255 then (if neg then 0 else 7)
        else if ex ≠ 0 then (if neg then 1 else 6)
        else if fr ≠ 0 then (if neg then 2 else 5)
        else if neg then 3 else 4
      [BitVec.ofNat 32 (2 ^ kind)])

namespace Sys2Proof.Claims

/-- Two magnitudes compared, their product, and the middle between a code's value and the next one's. -/
def dyCompare (x y : Nat × Int) : Ordering :=
  let lo := min x.2 y.2
  compare (x.1 * 2 ^ (x.2 - lo).toNat) (y.1 * 2 ^ (y.2 - lo).toNat)
def dyMul (x y : Nat × Int) : Nat × Int := (x.1 * y.1, x.2 + y.2)
def middle (n : Nat) : Nat × Int :=
  let (m0, e0) := magnitude fp32 n
  let (m1, e1) := magnitude fp32 (n + 1)
  let lo := min e0 e1
  (m0 * 2 ^ (e0 - lo).toNat + m1 * 2 ^ (e1 - lo).toNat, lo - 1)

/-- The word w is the FP32 rounding (R131) of a positive value that lies inside the finite range, `side v` telling how v stands to it. -/
def RoundedBy (rnd : Rnd) (side : Nat × Int → Ordering) (w : Word) : Prop :=
  ∃ n : Nat, side (magnitude fp32 n) ≠ .gt ∧ side (magnitude fp32 (n + 1)) = .gt ∧
    let up : Bool := match rnd with
      | .rne => side (middle n) = .lt || (side (middle n) = .eq && n % 2 = 1)
      | .ru => side (magnitude fp32 n) = .lt
      | .rz | .rd => false
    w.toNat = if up then n + 1 else n

/-- The magnitude m · 2^e is n times 2^-k. -/
def isTimes (k : Nat) (m : Nat) (e : Int) (n : Nat) : Prop := dyCompare (m, e) (n, -(k : Int)) = .eq

/-- A quotient of finite magnitudes, the second not zero, rounded once. -/
def quotient (m : FMode) (neg : Bool) (x y : Nat × Int) : Word :=
  w32 (if y.2 ≤ x.2 then fp32.roundRat m.rnd m.sat m.ftz neg (x.1 * 2 ^ (x.2 - y.2).toNat) y.1
    else fp32.roundRat m.rnd m.sat m.ftz neg x.1 (y.1 * 2 ^ (y.2 - x.2).toNat))

/-- A zero, and an infinity under SAT or not (R181), of a sign. -/
def zeroOf (neg : Bool) : Word := if neg then 0x80000000 else 0
def infOf (m : FMode) (neg : Bool) : Word := (if m.sat then 0x7F7FFFFF else 0x7F800000) ||| zeroOf neg

/-- R180: the nine words of FSPEC run and write the model's function of their operands. -/
def SpecialWords : Prop :=
  ∀ (s : Bool) (d : Dst) (a b : Opnd),
    Row 0x1C 0 (.frcp s d a) d (fun t => [fFrcp (inForce t) (t.src a)]) ∧
    Row 0x1C 1 (.frsq s d a) d (fun t => [fFrsq (inForce t) (t.src a)]) ∧
    Row 0x1C 2 (.fsqrt s d a) d (fun t => [fFsqrt (inForce t) (t.src a)]) ∧
    Row 0x1C 3 (.fexp2 s d a) d (fun t => [fFexp2 (inForce t) (t.src a)]) ∧
    Row 0x1C 4 (.flog2 s d a) d (fun t => [fFlog2 (inForce t) (t.src a)]) ∧
    Row 0x1C 5 (.fsin2pi s d a) d (fun t => [fFsin2pi (inForce t) (t.src a)]) ∧
    Row 0x1C 6 (.fcos2pi s d a) d (fun t => [fFcos2pi (inForce t) (t.src a)]) ∧
    Row 0x1C 7 (.ftanh s d a) d (fun t => [fFtanh (inForce t) (t.src a)]) ∧
    Row 0x1C 8 (.fdiv s d a b) d (fun t => [fFdiv (inForce t) (t.src a) (t.src b)])

/-- R181: the table of special values, and the exact results of the transcendental functions. -/
def SpecialValues : Prop :=
  ∀ m : FMode,
    let nan : Word := 0x7FC00000
    let one : Word := 0x3F800000
    let both (f : FMode → Word → Word) (lo nz pz hi : Word) : Prop :=
      f m 0xFF800000 = lo ∧ f m 0x80000000 = nz ∧ f m 0 = pz ∧ f m 0x7F800000 = hi
    (∀ x : Word, (fp32.val m.ftz x.toNat).isNan = true → ∀ f ∈ [fFrcp, fFrsq, fFsqrt, fFexp2, fFlog2, fFsin2pi, fFcos2pi, fFtanh], f m x = nan) ∧
    both fFrcp (zeroOf true) (infOf m true) (infOf m false) 0 ∧
    both fFrsq nan (infOf m true) (infOf m false) 0 ∧
    both fFsqrt nan (zeroOf true) 0 (infOf m false) ∧
    both fFexp2 0 one one (infOf m false) ∧
    both fFlog2 nan (infOf m true) (infOf m true) (infOf m false) ∧
    both fFsin2pi nan (zeroOf true) 0 nan ∧
    both fFcos2pi nan one one nan ∧
    both fFtanh 0xBF800000 (zeroOf true) 0 one ∧
    fFlog2 m one = 0 ∧
    -- magnitudes of 2^22 or more are multiples of 1/2
    (∀ x : Word, 149 ≤ bits x.toNat 30 23 → bits x.toNat 30 23 ≤ 254 →
      fFsin2pi m x = zeroOf (x.getLsbD 31) ∧
      ∃ (n : Nat) (neg : Bool) (k : Nat) (e : Int), fp32.val m.ftz x.toNat = .num neg k e ∧ isTimes 1 k e n ∧
        fFcos2pi m x = if n % 2 = 1 then 0xBF800000 else one) ∧
    (∀ (x : Word) (neg : Bool) (k : Nat) (e : Int), fp32.val m.ftz x.toNat = .num neg k e →
      (k = 0 → ∀ f ∈ [fFrcp, fFrsq, fFsqrt, fFexp2, fFlog2, fFsin2pi, fFcos2pi, fFtanh], f m x = f m (zeroOf neg)) ∧
      (neg = true → k ≠ 0 → fFrsq m x = nan ∧ fFsqrt m x = nan ∧ fFlog2 m x = nan) ∧
      (∀ n, isTimes 1 k e n → fFsin2pi m x = zeroOf neg ∧ fFcos2pi m x = if n % 2 = 1 then 0xBF800000 else one) ∧
      (∀ n, isTimes 2 k e n → n % 2 = 1 → fFcos2pi m x = 0 ∧ fFsin2pi m x = if decide (n % 4 = 3) = neg then one else 0xBF800000) ∧
      (∀ n, isTimes 0 k e n → n ≤ 126 → fFexp2 m x = BitVec.ofInt 32 ((127 + if neg then -(n : Int) else n) * 2 ^ 23)))

/-- R180: reciprocals, roots and quotients of finite operands are the exact value rounded once; FDIV follows IEEE 754 division. -/
def QuotientsAndRoots : Prop :=
  ∀ m : FMode,
    (∀ (x : Word) (neg : Bool) (k : Nat) (e : Int), fp32.val m.ftz x.toNat = .num neg (k + 1) e →
      fFrcp m x = quotient m neg (1, 0) (k + 1, e) ∧
      (neg = false →
        RoundedBy m.rnd (fun v => dyCompare (dyMul v v) (k + 1, e)) (fFsqrt m x) ∧
        RoundedBy m.rnd (fun v => dyCompare (dyMul (dyMul v v) (k + 1, e)) (1, 0)) (fFrsq m x))) ∧
    (∀ x y : Word,
      let nan : Word := 0x7FC00000
      match fp32.val m.ftz x.toNat, fp32.val m.ftz y.toNat with
      | .nan, _ | _, .nan => fFdiv m x y = nan
      | .inf _, .inf _ => fFdiv m x y = nan
      | .inf n, .num o _ _ => fFdiv m x y = infOf m (n != o)
      | .num n _ _, .inf o => fFdiv m x y = zeroOf (n != o)
      | .num n k e, .num o j g =>
        fFdiv m x y =
          if j = 0 then (if k = 0 then nan else infOf m (n != o)) else quotient m (n != o) (k, e) (j, g))

end Sys2Proof.Claims

/-- R180, R181: every word of FSPEC completes; the special values are those of the table; quotients, reciprocals and roots are the exact
value rounded once, and exact results of the other functions stand. The transcendental functions at other operands are the model's
evaluation (log 8): of those this says that they are written, not which word. -/
def Obligations.SpecialFunctions : Prop :=
  Sys2Proof.Claims.SpecialWords ∧ Sys2Proof.Claims.SpecialValues ∧ Sys2Proof.Claims.QuotientsAndRoots

/-- R182, R183: the packed forms work element by element in their format; a complex result's parts are decided independently. -/
def Obligations.PackedAndComplex : Prop :=
  ∀ (s : Bool) (d : Dst) (a b : Opnd),
    let el (x : Word) (i : Nat) : Nat := bits x.toNat (16 * i + 15) (16 * i)
    let both (g : Nat → Nat) : List Word := [BitVec.ofNat 32 (g 0 + 65536 * g 1)]
    let add (f : Fmt) (t : Thread) := both fun i => f.add (inForce t) (el (t.src a) i) (el (t.src b) i)
    let sub (f : Fmt) (t : Thread) := both fun i => f.sub (inForce t) (el (t.src a) i) (el (t.src b) i)
    let mul (f : Fmt) (t : Thread) := both fun i => f.mul (inForce t) (el (t.src a) i) (el (t.src b) i)
    let fma (f : Fmt) (t : Thread) := both fun i => f.fma (inForce t) (el (t.old d) i) (el (t.src a) i) (el (t.src b) i)
    let mn (f : Fmt) (t : Thread) := both fun i => f.minNum (inForce t).ftz (el (t.src a) i) (el (t.src b) i)
    let mx (f : Fmt) (t : Thread) := both fun i => f.maxNum (inForce t).ftz (el (t.src a) i) (el (t.src b) i)
    (Row 0x1D 0 (.hadd2Bf s d a b) d (add bf16) ∧ Row 0x1D 1 (.hsub2Bf s d a b) d (sub bf16) ∧ Row 0x1D 2 (.hmul2Bf s d a b) d (mul bf16) ∧
      Row 0x1D 3 (.hfma2Bf s d a b) d (fma bf16) ∧ Row 0x1D 4 (.hmin2Bf s d a b) d (mn bf16) ∧ Row 0x1D 5 (.hmax2Bf s d a b) d (mx bf16)) ∧
    (Row 0x1D 8 (.hadd2H s d a b) d (add fp16) ∧ Row 0x1D 9 (.hsub2H s d a b) d (sub fp16) ∧ Row 0x1D 10 (.hmul2H s d a b) d (mul fp16) ∧
      Row 0x1D 11 (.hfma2H s d a b) d (fma fp16) ∧ Row 0x1D 12 (.hmin2H s d a b) d (mn fp16) ∧ Row 0x1D 13 (.hmax2H s d a b) d (mx fp16)) ∧
    (let re (t : Thread) (x : Dword) : FVal := value t (x.extractLsb' 0 32)
     let im (t : Thread) (x : Dword) : FVal := value t (x.extractLsb' 32 32)
     let A (t : Thread) := t.pair a
     let B (t : Thread) := t.pair b
     let D (t : Thread) := t.oldPair d
     Row 0x1E 0 (.cfma s d a b) d (fun t =>
       [once t [re t (D t), (re t (A t)).mul (re t (B t)), ((im t (A t)).mul (im t (B t))).neg],
        once t [im t (D t), (re t (A t)).mul (im t (B t)), (im t (A t)).mul (re t (B t))]]) ∧
     Row 0x1E 1 (.cfms s d a b) d (fun t =>
       [once t [re t (D t), ((re t (A t)).mul (re t (B t))).neg, (im t (A t)).mul (im t (B t))],
        once t [im t (D t), ((re t (A t)).mul (im t (B t))).neg, ((im t (A t)).mul (re t (B t))).neg]]) ∧
     Row 0x1E 2 (.cmul s d a b) d (fun t =>
       [once t [(re t (A t)).mul (re t (B t)), ((im t (A t)).mul (im t (B t))).neg],
        once t [(re t (A t)).mul (im t (B t)), (im t (A t)).mul (re t (B t))]]))

/-- R184 to R189, R191: conversions. -/
def Sys2Proof.Claims.Conversions : Prop :=
  ∀ (s : Bool) (d : Dst) (a b : Opnd),
    let lowHalf (t : Thread) : Nat := bits (t.src a).toNat 15 0
    let lowByte (t : Thread) : Nat := bits (t.src a).toNat 7 0
    let into (f : Fmt) (t : Thread) (x : Word) : Nat := f.round (inForce t).rnd (inForce t).sat (inForce t).ftz (value t x)
    let into8 (f : Fmt) (t : Thread) (x : Word) : Nat := f.round (inForce t).rnd (inForce t).sat false (fp32.val false x.toNat)
    let shifted (t : Thread) (lo hi : Nat) : List Word := [BitVec.ofNat 32 (hi * 2 ^ 24 + lo * 2 ^ 16 + bits (t.old d).toNat 31 16)]
    let toInt (t : Thread) (lo hi : Int) : Word :=
      match value t (t.src a) with
      | .nan => 0
      | .inf n => BitVec.ofInt 32 (if n then lo else hi)
      | .num n m e => BitVec.ofInt 32 (max lo (min hi (roundInt (inForce t).rnd n m e)))
    let sat8 (x : Word) : Nat := (BitVec.ofInt 8 (max (-128) (min 127 x.toInt))).toNat
    Row 0x1F 0 (.f2i s d a) d (fun t => [toInt t (-2147483648) 2147483647]) ∧
    Row 0x1F 1 (.f2u s d a) d (fun t => [toInt t 0 4294967295]) ∧
    Row 0x1F 2 (.i2f s d a) d (fun t =>
      [w32 (fp32.roundRat (inForce t).rnd false false ((t.src a).toInt < 0) (t.src a).toInt.natAbs 1)]) ∧
    Row 0x1F 3 (.u2f s d a) d (fun t => [w32 (fp32.roundRat (inForce t).rnd false false false (t.src a).toNat 1)]) ∧
    Row 0x1F 4 (.f2bf s d a b) d (fun t => [BitVec.ofNat 32 (into bf16 t (t.src a) + 65536 * into bf16 t (t.src b))]) ∧
    Row 0x1F 5 (.bf2f s d a) d (fun t => [w32 (fp32.round .rne false false (bf16.val (inForce t).ftz (lowHalf t)))]) ∧
    Row 0x1F 6 (.f2h s d a b) d (fun t => [BitVec.ofNat 32 (into fp16 t (t.src a) + 65536 * into fp16 t (t.src b))]) ∧
    Row 0x1F 7 (.h2f s d a) d (fun t => [w32 (fp32.round .rne false false (fp16.val (inForce t).ftz (lowHalf t)))]) ∧
    Row 0x1F 8 (.f2e4 s d a b) d (fun t => shifted t (into8 e4m3 t (t.src a)) (into8 e4m3 t (t.src b))) ∧
    Row 0x1F 9 (.e42f s d a) d (fun t => [w32 (fp32.round .rne false false (e4m3.val false (lowByte t)))]) ∧
    Row 0x1F 10 (.f2e5 s d a b) d (fun t => shifted t (into8 e5m2 t (t.src a)) (into8 e5m2 t (t.src b))) ∧
    Row 0x1F 11 (.e52f s d a) d (fun t => [w32 (fp32.round .rne false false (e5m2.val false (lowByte t)))]) ∧
    Row 0x1F 13 (.dqnt s d a b) d (fun t =>
      let sc := bits (t.src b).toNat 8 0
      if sc / 2 = 0 then [0]
      else if sc / 2 = 255 then [0x7FC00000]
      else [once t [(FVal.num ((t.src a).toInt < 0) (t.src a).toInt.natAbs 0).mul (.num false (2 + sc % 2) ((sc / 2 : Nat) - 128))]]) ∧
    Row 0x1F 14 (.pack8 s d a b) d (fun t => shifted t (sat8 (t.src a)) (sat8 (t.src b))) ∧
    Row 0x1F 15 (.frnd s d a) d (fun t =>
      match value t (t.src a) with
      | .nan => [0x7FC00000]
      | .inf _ => [t.src a]
      | .num n m e =>
        if 0 ≤ e then [t.src a]
        else [w32 (fp32.roundRat .rne false false n (roundInt (inForce t).rnd n m e).natAbs 1)])

/-- R157, R173 to R177: FARITH and FFMA, and the sums that they round once. -/
def Obligations.FloatArithmeticAndFusedMultiplyAdd : Prop := Sys2Proof.Claims.SumOfTerms ∧ Sys2Proof.Claims.FloatArithmetic ∧ Sys2Proof.Claims.FusedMultiplyAdd

/-! ### Hints, guards and control flow (R101 to R106, R342 to R351) -/

namespace Sys2Proof.Claims

/-- The word i, of destination d, gives each lane the words that `f` computes from the state, the lane's key and its thread, and does
nothing else. -/
def LaneResult (i : Instr) (d : Dst) (f : State → Nat → Thread → List Word) : Prop :=
  ∀ (k : Nat) (s : State), Ready i k s →
    ∃ t, exec i s = .next t ∧ Around k s s t ∧
      ∀ tk ∈ s.lanes k, Result (s.atLast k) d (f s tk (s.thread tk)) (s.thread tk) (t.thread tk)

/-- A lane past a word without a destination that has made `mid` of it. -/
structure Moved (last : Bool) (mid old new : Thread) : Prop where
  passed : Passed last old new
  win : new.win = none :: old.win
  frame : new.still = mid.still

/-- The word i makes `f` of each lane for which the guard is on, and does nothing else. -/
def LaneEffect (i : Instr) (f : Thread → Thread) : Prop :=
  ∀ (k : Nat) (s : State), Ready i k s →
    ∃ t, exec i s = .next t ∧ Around k s s t ∧
      ∀ tk ∈ s.lanes k, Moved (s.atLast k) (if (s.thread tk).on then f (s.thread tk) else s.thread tk) (s.thread tk) (t.thread tk)

/-- The bytes of a word of the thread's form. -/
def wordSize (t : Thread) : Nat := if t.glomer then 8 else 4

/-- The code offset of the word after the thread's current one, and a B-format destination: that offset plus the displacement, in words of
the form (R94, R342). -/
def wordAfter (t : Thread) : Int := t.head + wordSize t * (t.off + 1)
def target (t : Thread) (disp : BitVec 18) : Nat := (BitVec.ofInt 32 (wordAfter t + wordSize t * disp.toInt)).toNat

/-- The pending hints of a thread (R102). -/
def pending (t : Thread) :=
  (t.hImm, t.hOff, t.hRnd, t.hFtz, t.hSat, t.hPol, t.hPrio)

/-- A HINT word makes `f` of the pending hints of each lane for which the guard is on (R102, R103); it uses up no place of a guard and
has no place in the forwarding window (R70, R104). -/
def HintEffect (i : Instr) (f : Thread → Thread) : Prop :=
  ∀ (k : Nat) (s : State), Ready i k s →
    ∃ t, exec i s = .next t ∧ Around k s s t ∧
      ∀ tk ∈ s.lanes k,
        let old := s.thread tk
        let new := t.thread tk
        pending new = pending (if old.on then f old else old) ∧ new.off = old.off + 1 ∧ new.win = old.win ∧ new.still = old.still ∧
          new.boost = old.boost ∧ new.gLeft = (if s.atLast k then 0 else old.gLeft) ∧ new.gPat = (if s.atLast k then 0 else old.gPat)

/-- A call: the link in destination d, and the way that `dest` gives. -/
def CallEffect (i : Instr) (d : Dst) (dest : Thread → Nat) : Prop :=
  ∀ (k : Nat) (s : State), Ready i k s →
    ∃ t, exec i s = .next t ∧ Around k s s t ∧
      ∀ tk ∈ s.lanes k,
        let old := s.thread tk
        let new := t.thread tk
        let link : List Word := [BitVec.ofInt 32 (wordAfter old)]
        Passed (s.atLast k) old new ∧
          (∀ r, new.reg r = if old.on then ((landsAt d r).bind fun i => link[i]?).getD (old.reg r) else old.reg r) ∧
          new.win = some (if old.on then link else old.oldWords d 1) :: old.win ∧
          new.stillNoRegs = (if old.on then { old with next := dest old } else old).stillNoRegs

end Sys2Proof.Claims

/-- R102, R104: the HINT words prepare the next word; PBLK reads its condition once and guards the words after it. -/
def Sys2Proof.Claims.HintsAndGuards : Prop :=
  (∀ p, HintEffect (.hintImm p) fun t => { t with hImm := some p }) ∧
  (∀ p, HintEffect (.hintOff p) fun t => { t with hOff := some p }) ∧
  (∀ rov pol sat ftz rnd, HintEffect (.hintMod rov pol sat ftz rnd) fun t =>
    { t with hRnd := if rov then some rnd else none, hFtz := some ftz, hSat := sat, hPol := pol }) ∧
  (∀ p, HintEffect (.hintPrio p) fun t => { t with hPrio := some p }) ∧
  (∀ (c : Opnd) (n : Nat) (p : BitVec 8) (k : Nat) (s : State), Ready (.pblk c n p) k s →
    ∃ t, exec (.pblk c n p) s = .next t ∧ Around k s s t ∧
      ∀ tk ∈ s.lanes k,
        let old := s.thread tk
        let new := t.thread tk
        new.off = old.off + 1 ∧ new.win = none :: old.win ∧ pending new = (none, none, none, none, false, none, none) ∧
          new.gLeft = (if s.atLast k then 0 else n) ∧ new.gPat = (if s.atLast k then 0 else p.toNat) ∧
          new.boost = old.hPrio.getD old.boost ∧ new.gCond = decide (old.src c ≠ 0) ∧ new.still = { old with gCond := decide (old.src c ≠ 0) }.still)

/-- R104: a guarded word acts for a thread when its pattern bit and the condition agree; without a guard every word acts. -/
def Sys2Proof.Claims.GuardRule : Prop :=
  ∀ t : Thread,
    (t.gLeft = 0 → t.on = true) ∧
    (t.gLeft ≠ 0 → (t.on = true ↔ (t.gPat % 2 = 1 ∧ t.gCond = true) ∨ (t.gPat % 2 = 0 ∧ t.gCond = false)))

/-- R342, R343: control transfers. A transfer that is not taken leaves the thread's next head, the word behind the block, as it stands. -/
def Obligations.ControlTransfers : Prop :=
  ∀ (s : Bool) (d l : Dst) (a : Opnd) (disp : BitVec 18),
    LaneEffect (.bra s disp) (fun t => { t with next := target t disp }) ∧
    LaneEffect (.brz s a disp) (fun t => if t.src a = 0 then { t with next := target t disp } else t) ∧
    LaneEffect (.brnz s a disp) (fun t => if t.src a = 0 then t else { t with next := target t disp }) ∧
    CallEffect (.call s l disp) l (fun t => target t disp) ∧
    LaneEffect (.brx s a) (fun t => { t with next := (t.src a).toNat }) ∧
    LaneEffect (.ret s a) (fun t => { t with next := (t.src a).toNat, viaRet := true }) ∧
    CallEffect (.callx s d a) d (fun t => (t.src a).toNat)

/-- R345, R346: NOP has no effect; EXIT ends its block; TRAP and BKPT note a trap to be taken at the next head, behind those that engines have
found for earlier blocks (R410), and the first of a block stands. -/
def Obligations.NopExitTrapBkpt : Prop :=
  ∀ (s : Bool) (a : Opnd),
    let later (ti : TrapInfo) (t : Thread) : Thread :=
      let old := t.deferred.toList ++ t.owed
      let all := old ++ [{ ti with off := t.off, ord := t.ord, defer := true }]
      if ∃ x ∈ old, x.kind = .trap ∨ x.kind = .brk then t else { t with deferred := all.head?, owed := all.tail }
    LaneEffect (.nop s) id ∧
    LaneEffect (.exit s) (fun t => { t with bend := .exit }) ∧
    LaneEffect (.trap s a) (fun t => later { kind := .trap, detail := (t.src a).toNat } t) ∧
    LaneEffect (.bkpt s) (later { kind := .brk })

/-- R127, R351: SREAD reads the thread's identity and modes; SWRITE sets its defaults. -/
def Obligations.SpecialRegisters : Prop :=
  (∀ (sb : Bool) (d : Dst) (c : SReg),
    LaneResult (.sread sb d c) d fun s tk t =>
      let fl := s.flightOf tk
      let h := fl.hdr
      let g := s.groupOf tk
      let T := (s.train g.train).t
      let f1 := (s.wave (waveKeyOf tk)).f1
      let fs := [tk % 64, f1, g.f2, T % h.e3, T / h.e3 % h.e4, T / (h.e3 * h.e4)]
      let wid := packFields h.widths fs
      [BitVec.ofNat 32 (match c with
        | .lane => tk % 64
        | .waveIx => f1
        | .widLo => wid
        | .widHi => wid / 2 ^ 32
        | .field0 => tk % 64
        | .field1 => f1
        | .field2 => g.f2
        | .field3 => T % h.e3
        | .field4 => T / h.e3 % h.e4
        | .field5 => T / (h.e3 * h.e4)
        | .waveW => if h.narrow then 32 else 64
        | .flight => fl.die * 2 ^ 21 + fl.seq % 2 ^ 21
        | .seed => h.seed
        | .argLo => h.args
        | .argHi => h.args / 2 ^ 32
        | .prio => h.prio % 8 + 16 * t.hPrio.getD t.boost)]) ∧
  (∀ (sb : Bool) (b : Opnd),
    LaneEffect (.swrite sb .round b) (fun t =>
      { t with rnd := match (t.src b).toNat % 4 with | 0 => .rne | 1 => .rz | 2 => .ru | _ => .rd }) ∧
    LaneEffect (.swrite sb .ftz b) (fun t => { t with ftz := (t.src b).toNat % 2 = 1 }))

/-- R192 to R196: the shuffles, votes, reductions, scan and match of a wave bundle, computed from its active lanes as they stood before
the word. -/
def Sys2Proof.Claims.CrossLaneWords : Prop :=
  ∀ (sb : Bool) (d : Dst) (a b : Opnd) (k : Nat) (s : State), (s.bundle k).waveBundle = true →
    let W := match s.lanes k with | tk :: _ => (if (s.flightOf tk).hdr.narrow then 32 else 64) | [] => 64
    let active : List Nat := s.active k
    let A (tk : Nat) : Word := (s.thread tk).src a
    let B (tk : Nat) : Nat := ((s.thread tk).src b).toNat
    -- the a of lane j, or the reading lane's own
    let from? (tk j : Nat) : Word :=
      if W ≤ j then A tk else match active.find? fun u => u % 64 = j with | some u => A u | none => A tk
    let mask (p : Nat → Bool) : List Word := pairWords (BitVec.ofNat 64 (((active.filter p).map fun u => 2 ^ (u % 64)).sum))
    let gives (i : Instr) (f : Nat → List Word) : Prop :=
      Ready i k s → ∃ t, exec i s = .next t ∧ Around k s s t ∧
        ∀ tk ∈ s.lanes k, Result (s.atLast k) d (f tk) (s.thread tk) (t.thread tk)
    gives (.shflIdx sb d a b) (fun tk => [from? tk (B tk)]) ∧
    gives (.shflUp sb d a b) (fun tk => [if tk % 64 < B tk then A tk else from? tk (tk % 64 - B tk)]) ∧
    gives (.shflDown sb d a b) (fun tk => [from? tk (tk % 64 + B tk)]) ∧
    gives (.shflXor sb d a b) (fun tk => [from? tk (Nat.xor (tk % 64) (B tk))]) ∧
    gives (.voteAll sb d a) (fun _ => [if ∀ u ∈ active, A u ≠ 0 then 1 else 0]) ∧
    gives (.voteAny sb d a) (fun _ => [if ∃ u ∈ active, A u ≠ 0 then 1 else 0]) ∧
    gives (.voteBallot sb d a) (fun _ => mask fun u => A u ≠ 0) ∧
    gives (.wredIadd sb d a) (fun _ => [BitVec.ofNat 32 ((active.map fun u => (A u).toNat).sum)]) ∧
    gives (.wscanIadd sb d a) (fun tk => [BitVec.ofNat 32 (((active.filter fun u => u % 64 < tk % 64).map fun u => (A u).toNat).sum)]) ∧
    gives (.wmatch sb d a) (fun tk => mask fun u => A u = A tk) ∧
    gives (.wredImax sb d a) (fun _ => [match active.map fun u => (A u).toInt with | [] => 0 | x :: r => BitVec.ofInt 32 (r.foldl max x)]) ∧
    gives (.wredFadd sb d a) (fun _ =>
      [match active.map A with
       | [] => 0
       | x :: r => r.foldl (fun v y => w32 (fp32.sum { rnd := .rne, ftz := false, sat := false } [fp32.val false v.toNat, fp32.val false y.toNat])) x])

namespace Sys2Proof.Claims

/-- A finite FP32 word in units of 2^-149, and the SC9 value of a code from 2 to 509 in the same units (R135). -/
def units (x : Word) : Int :=
  let v := magnitude fp32 (bits x.toNat 30 0)
  (if x.getLsbD 31 then -1 else 1) * (v.1 * 2 ^ (v.2 + 149).toNat : Nat)
def scaleUnits (sc : Nat) : Nat := (2 + sc % 2) * 2 ^ (sc / 2 + 21)

/-- R144: the random word of a seed and an index. -/
def randomWord (seed idx : Word) : Nat :=
  let fold (n : Nat) (x : Word) : Word := x ^^^ BitVec.ofNat 32 (x.toNat / 2 ^ n)
  (fold 16 (fold 15 (fold 16 (seed ^^^ idx * 0x9E3779B9) * 0x7FEB352D) * 0x846CA68B)).toNat

/-- R190: the scale of a half whose active lanes hold the words `as`, Q the largest magnitude of the element format. -/
def ScaleOf (as : List Word) (Q : Nat) (sc : Nat) : Prop :=
  if ∃ x ∈ as, bits x.toNat 30 23 = 255 then sc = 0x1FE
  else if ∀ x ∈ as, units x = 0 then sc = 0
  else 2 ≤ sc ∧ sc ≤ 509 ∧ (∀ x ∈ as, (units x).natAbs ≤ Q * scaleUnits sc) ∧
    (sc = 2 ∨ ∃ x ∈ as, Q * scaleUnits (sc - 1) < (units x).natAbs)

/-- R190: the element of a word u of such a half: the exact quotient rounded, to nearest even or with the random word r, and clamped. -/
def ElementOf (u : Int) (S Q : Nat) (stochastic : Bool) (r : Nat) (q : Int) : Prop :=
  ∃ v : Int, q = max (-(Q : Int)) (min Q v) ∧
    if stochastic then v = u / S + (if r * S < (u % S).toNat * 2 ^ 32 then 1 else 0)
    else 2 * (u - v * S).natAbs ≤ S ∧ (2 * (u - v * S).natAbs = S → v % 2 = 0)

/-- R190: QNT of a wave bundle. Each half of the wave is quantised by the control word of its lowest active lane: an element and the half's
scale for each active lane; format 3 traps every active lane of its half, and nothing of that half is written. -/
def Quantise : Prop :=
  ∀ (sb : Bool) (d : Dst) (a b : Opnd) (k : Nat) (s : State), Ready (.qnt sb d a b) k s → (s.bundle k).waveBundle = true →
    ∃ t, exec (.qnt sb d a b) s = .next t ∧ Around k s s t ∧
      ∀ h : Nat,
        let half := (s.active k).filter fun tk => tk % 64 / 32 = h
        let ctl : Nat := match half with | tk :: _ => ((s.thread tk).src b).toNat | [] => 0
        let Q : Nat := match ctl % 4 with | 0 => 127 | 1 => 31 | _ => 7
        let as := half.map fun tk => (s.thread tk).src a
        ∃ sc : Nat, (half ≠ [] → ctl % 4 ≠ 3 → ScaleOf as Q sc) ∧
          ∀ tk ∈ s.lanes k, tk % 64 / 32 = h →
            if tk ∈ half ∧ ctl % 4 = 3 then
              t.thread tk =
                { s.thread tk with
                  stat := .ret
                  cands := { kind := .illegal, sub := 9, off := (s.thread tk).off, ord := (s.thread tk).ord } :: (s.thread tk).cands }
            else
              ∃ q : Int,
                (tk ∈ half → if sc = 0x1FE ∨ sc = 0 then q = 0
                  else ElementOf (units ((s.thread tk).src a)) (scaleUnits sc) Q (bits ctl 2 2 = 1)
                    (randomWord (BitVec.ofNat 32 (s.flightOf tk).hdr.seed) (BitVec.ofNat 32 (s.wid tk))) q) ∧
                Result (s.atLast k) d [BitVec.ofInt 32 q, BitVec.ofNat 32 sc] (s.thread tk) (t.thread tk)

/-- R77, R192: outside a wave bundle a cross-lane word gives every lane for which it is switched on an illegal-convergence trap, and nothing
is written. -/
def CrossLaneNeedsWaveBundle : Prop :=
  ∀ (sb : Bool) (d : Dst) (a b : Opnd) (k : Nat) (s : State), (s.bundle k).waveBundle = false →
    ∀ i ∈ [Instr.shflIdx sb d a b, .shflUp sb d a b, .shflDown sb d a b, .shflXor sb d a b, .voteAll sb d a, .voteAny sb d a,
        .voteBallot sb d a, .wredIadd sb d a, .wredImax sb d a, .wredFadd sb d a, .wscanIadd sb d a, .wmatch sb d a, .qnt sb d a b],
      Ready i k s →
      ∃ t, exec i s = .next t ∧ t.rest = s.rest ∧
        (∀ tk ∈ s.active k, t.thread tk =
          { s.thread tk with
            stat := .ret
            cands := { kind := .converge, off := (s.thread tk).off, ord := (s.thread tk).ord } :: (s.thread tk).cands }) ∧
        (∀ tk r, (t.thread tk).reg r = (s.thread tk).reg r) ∧
        ∀ tk, tk ∉ s.lanes k → t.thread tk = s.thread tk

end Sys2Proof.Claims

/-- R111: a word that is illegal where it stands gives every lane of its bundle an illegal-instruction trap with its SUB, and does nothing
else. -/
def Sys2Proof.Claims.IllegalWordTraps : Prop :=
  ∀ (i : Instr) (k : Nat) (s : State), i.isEvent = false → (∀ w, i ≠ .glomerWord w) → s.focus = some k → s.subAt k i ≠ 0 →
    (s.bundle k).lanes.Nodup →
    ∃ t, exec i s = .next t ∧ t.rest = s.rest ∧
      (∀ tk ∈ s.lanes k, t.thread tk =
        { s.thread tk with
          stat := .ret
          cands :=
            { kind := .illegal, sub := s.subAt k i, off := (s.thread tk).off, ord := (s.thread tk).ord } :: (s.thread tk).cands }) ∧
      ∀ tk, tk ∉ s.lanes k → t.thread tk = s.thread tk

/-- R324: inside a transaction a word that the rule forbids traps: the threads that are inside, or every thread of the bundle. -/
def Sys2Proof.Claims.ForbiddenInTransactions : Prop :=
  ∀ (i : Instr) (k : Nat) (s : State), i.isEvent = false → (∀ w, i ≠ .glomerWord w) → s.focus = some k → s.subAt k i = 0 →
    (s.core (k / 2)).parity = [] → (s.bundle k).lanes.Nodup →
    ∀ tk ∈ s.active k, (s.thread tk).tx ≠ [] → (info i).tx ≠ .free →
      ∃ t, exec i s = .next t ∧ (t.thread tk).stat ≠ .stream ∧
        { kind := .illegal, sub := 7, off := (s.thread tk).off, ord := (s.thread tk).ord } ∈ (t.thread tk).cands

/-- R420: a register with a parity error that a lane reads, and whose last writer stands in no replay queue, gives that lane a PARITY trap. -/
def Sys2Proof.Claims.ParityTraps : Prop :=
  ∀ (i : Instr) (k : Nat) (s : State) (tk r : Nat), i.isEvent = false → (∀ w, i ≠ .glomerWord w) → s.focus = some k → s.subAt k i = 0 →
    (s.bundle k).lanes.Nodup → tk ∈ s.active k → (s.core (k / 2)).parity = [(tk % 512, r)] → r ∈ readRegs i →
    (s.core (k / 2)).replay = [] →
      ∃ t, exec i s = .next t ∧ (t.thread tk).stat ≠ .stream ∧
        { kind := .parity, detail := r, off := (s.thread tk).off, ord := (s.thread tk).ord } ∈ (t.thread tk).cands

/-- R50: a block whose 64th word does not end it makes its threads trap behind that word. -/
def Obligations.BlockOf64Words : Prop :=
  ∀ (k : Nat) (s : State) (w : Nat), s.focus = some k → s.subAt k (.nop false) = 0 → (s.core (k / 2)).parity = [] →
    (s.bundle k).lanes.Nodup → (s.bundle k).code.length = (s.bundle k).pos + 1 → (s.bundle k).code[(s.bundle k).pos]? = some (w, false) →
    ∃ t, exec (.nop false) s = .next t ∧
      ∀ tk ∈ s.lanes k, (t.thread tk).stat = .ret ∧
        (t.thread tk).cands =
          { kind := .illegal, sub := 4, off := (s.thread tk).off + 1, ord := (s.thread tk).ord } :: (s.thread tk).cands

/-- R102, R103, R104: hints, and the guards of PBLK. -/
def Obligations.HintsAndPredication : Prop := Sys2Proof.Claims.HintsAndGuards ∧ Sys2Proof.Claims.GuardRule

/-- R77, R192 to R196: the cross-lane words in a wave bundle, and their trap outside one. -/
def Obligations.CrossLaneOperations : Prop := Sys2Proof.Claims.CrossLaneWords ∧ Sys2Proof.Claims.CrossLaneNeedsWaveBundle

/-- R184 to R191: conversions, QNT and DQNT. -/
def Obligations.ConversionsAndQuantise : Prop := Sys2Proof.Claims.Conversions ∧ Sys2Proof.Claims.Quantise

/-- R111, R324, R420: words that trap before they run. That SUB 7 stands before a convergence trap is the model's reading (log 40). -/
def Obligations.WordsThatTrap : Prop := Sys2Proof.Claims.IllegalWordTraps ∧ Sys2Proof.Claims.ForbiddenInTransactions ∧ Sys2Proof.Claims.ParityTraps

/-! ### Words of the memory system (R231 to R280, R345 to R353) -/

namespace Sys2Proof.Claims

/-- The effective address of a global access, modulo 2^64, and of a scratch access, modulo 2^32, with the offset of a HINT OFF word (R102). -/
def globalAddr (b : Opnd) (t : Thread) : Nat :=
  (((t.pair b).toNat : Int) + (match t.hOff with | some o => o.toInt | none => 0) |>.emod (2 ^ 64)).toNat
def scratchAddr (b : Opnd) (t : Thread) : Nat :=
  (((t.src b).toNat : Int) + (match t.hOff with | some o => o.toInt | none => 0) |>.emod (2 ^ 32)).toNat

/-- The trap of a lane whose accesses begin at ea + o for each o of a list (R233, R263): an access with one of bits [63:57] set, then a
misaligned address. -/
def globalCheck (wr : Bool) (align : Nat) (offs : List Nat) (tk ea : Nat) : Option TrapInfo :=
  match offs.find? fun o => 2 ^ 57 ≤ ea + o with
  | some o => some { kind := .page, sub := 6, va := (ea + o) % 2 ^ 57, detail := wr.toNat + 2 * dieOfThread tk }
  | none => if ea % align = 0 then none else some { kind := .align, va := ea }

/-- The trap of a lane's scratch access of n bytes (R231, R233). -/
def scratchCheck (n align : Nat) (s : State) (tk ea : Nat) : Option TrapInfo :=
  if 2 ^ 26 ≤ ea ∨ s.scratchGroup (s.groupKey tk) ea = none ∨ s.scratchSize (s.groupKey tk) < ea % 2 ^ 18 + n then
    some { kind := .scrBound, va := ea }
  else if ea % align = 0 then none
  else some { kind := .align, va := ea }

/-- What a word has found for a thread: nothing, or one trap of the word at which the thread stood. -/
def Found (old new : Thread) : Option TrapInfo → Prop
  | none => new.cands = old.cands
  | some ti => ∃ who, new.cands = { ti with off := old.off, ord := old.ord, who := who } :: old.cands

/-- The word i completes and only asks; an active lane for which `check` finds a trap takes it; for any other active lane, `E` holds of the
states before and after. A lane under a guard that is off finds nothing. -/
def Asks (i : Instr) (check : State → Nat → Option TrapInfo) (E : State → State → Nat → Prop) : Prop :=
  ∀ (k : Nat) (s : State), Ready i k s → ∃ t, exec i s = .next t ∧ OnlyAsked k s t ∧
    ((∀ tk ∈ s.active k, (s.thread tk).twin = true) → t.reqs = s.reqs) ∧
    ∀ tk ∈ s.lanes k,
      Found (s.thread tk) (t.thread tk) (if (s.thread tk).on then check s tk else none) ∧
        ((s.thread tk).on = true → check s tk = none → E s t tk)

/-- There is a new request of the thread. -/
def NewReq (s t : State) (tk : Nat) (p : Req → Prop) : Prop :=
  ∃ r ∈ t.reqs, s.nextId ≤ r.id ∧ r.ofThread tk = true ∧ r.die = dieOfThread tk ∧ r.vas = s.vasOf tk ∧ p r

/-- A leader's lane has made a request of its word; a marionette leader's waits for its twin where `waits` (R83). -/
def LeaderAsks (s t : State) (tk : Nat) (waits : Bool) (p : Req → Prop) : Prop :=
  (s.thread tk).twin = false → NewReq s t tk fun r =>
    r.off = (s.thread tk).off ∧ r.ord = (s.thread tk).ord ∧
      r.waitTwin = (if waits && (s.flightOf tk).hdr.marionette then [tk % 512] else []) ∧ p r

/-- A twin's lane takes what its load-value queue holds for the word (R81). -/
def TwinTakes (s t : State) (tk : Nat) : Prop :=
  (s.thread tk).twin = true →
    (t.thread tk).pend =
      (s.thread tk).pend ++ (((s.thread tk).lvq.filter fun e => e.1 = (s.thread tk).blockNo && e.2.off = (s.thread tk).off).map (·.2))

/-- A destination w registers further on. -/
def dstAfter (w : Nat) : Dst → Dst
  | .reg n => .reg (n + w)
  | .trans => .trans

/-- The single-copy atomic parts of an access: their offsets and sizes (R242). -/
def parts (z : Size) : List (Nat × Size) := if z = .b128 then [(0, .b64), (8, .b64)] else [(0, z)]

/-- A store of the bytes `data` at va by a lane (R83, R244, R329, R415): noted for the store hash; a leader's becomes a request at once
when it is ordered, transactional, or made outside replayable and marionette flights; else it waits in the ballast of its group, or, while the
ballast has no room or an earlier store of the thread waits for room, in the load-store unit. -/
def Stores (s t : State) (tk : Nat) (o : MemOrder) (c : Scope) (pol : CPol) (va : Nat) (z : Size) (data : List Byte) : Prop :=
  let th := s.thread tk
  let h := (s.flightOf tk).hdr
  { off := th.off, op := 0, addr := va, size := data.length, data := data : Effect } ∈ (t.thread tk).stores ∧
    (th.twin = false →
      if th.tx ≠ [] ∨ o ≠ .plain ∨ (h.marionette = false ∧ h.replay = false) then
        NewReq s t tk fun r =>
          r.kind = .store ∧ r.va = va ∧ r.size = z ∧ r.order = o ∧ r.scope = c ∧ r.pol = th.hPol.getD pol ∧ r.tx = decide (th.tx ≠ []) ∧
            r.off = th.off ∧ r.lanes = [{ slot := tk % 512, data := wordsOf 2 (leValue data) }]
      else
        (∃ b ∈ (t.groupOf tk).ballast, s.nextId ≤ b.id ∧ b.addr = va ∧ b.data = data ∧ b.thread = tk ∧ b.held = h.marionette) ∨
        ((t.ballastRoom tk data.length = false ∨ ∃ q ∈ t.reqs, q.ofThread tk = true ∧ ∃ held, q.kind = .join held) ∧
          NewReq s t tk fun r =>
            r.kind = .join h.marionette ∧ r.va = va ∧ r.size = z ∧ r.pol = th.hPol.getD pol ∧ r.off = th.off ∧
              r.lanes = [{ slot := tk % 512, data := wordsOf 2 (leValue data) }]))

/-- The words of one aggregated request (R271): every active leader's lane of one wave with the same address is in it. -/
def Joined (k : Nat) (s t : State) (tk : Nat) (b : Opnd) (p : Req → Prop) (data expect : List Word) : Prop :=
  (s.thread tk).twin = false → NewReq s t tk fun r =>
    r.va = globalAddr b (s.thread tk) ∧ p r ∧
      (∃ l ∈ r.lanes, l.slot = tk % 512 ∧ l.data = data ∧ l.expect = expect) ∧
      ∀ u ∈ s.active k, (s.thread u).twin = false → waveKeyOf u = waveKeyOf tk → globalAddr b (s.thread u) = globalAddr b (s.thread tk) →
        r.ofThread u = true

/-- The destination of a pair: code 0 discards (R89). -/
def pairAt (d : Dst) : Dst := if d = .reg 0 then .trans else d

/-- An aggregated word: completion, traps, and one request for each wave and address. -/
def Aggregates (i : Instr) (b : Opnd) (n : Nat) (p : Req → Prop) (data expect : Thread → List Word) : Prop :=
  ∀ (k : Nat) (s : State), Ready i k s → ∃ t, exec i s = .next t ∧ OnlyAsked k s t ∧
    ((∀ tk ∈ s.active k, (s.thread tk).twin = true) → t.reqs = s.reqs) ∧
    ∀ tk ∈ s.lanes k,
      let th := s.thread tk
      let check := globalCheck true n [0] tk (globalAddr b th)
      Found th (t.thread tk) (if th.on then check else none) ∧
        (th.on = true → check = none → Joined k s t tk b p (data th) (expect th) ∧ TwinTakes s t tk)

end Sys2Proof.Claims

/-- R233, R242, R263, R266, R268, R269: LD, LDC and LDM of global memory ask for each single-copy atomic part at its address. -/
def Obligations.GlobalLoads : Prop :=
  (∀ (sb : Bool) (d : Dst) (b : Opnd) (c : Scope) (z : Size) (o : MemOrder) (pol : CPol),
    Asks (.ld sb d b c z o pol)
      (fun s tk => globalCheck false z.bytes ((parts z).map (·.1)) tk (globalAddr b (s.thread tk)))
      (fun s t tk => TwinTakes s t tk ∧ ∀ p ∈ parts z, LeaderAsks s t tk false fun r =>
        r.kind = .load ∧ r.va = globalAddr b (s.thread tk) + p.1 ∧ r.size = p.2 ∧ r.dst = dstAfter (p.1 / 4) d ∧ r.order = o ∧ r.scope = c ∧
          r.pol = (s.thread tk).hPol.getD pol ∧ r.tx = decide ((s.thread tk).tx ≠ []))) ∧
  (∀ (sb : Bool) (d : Dst) (b : Opnd) (n : Nat) (z : Size),
    Asks (.ldc sb d b n z)
      (fun s tk => globalCheck false z.bytes ((parts z).map (·.1)) tk (globalAddr b (s.thread tk)))
      (fun s t tk => TwinTakes s t tk ∧ ∀ p ∈ parts z, LeaderAsks s t tk false fun r =>
        r.kind = .load ∧ r.va = globalAddr b (s.thread tk) + p.1 ∧ r.size = p.2 ∧ r.dst = dstAfter (p.1 / 4) d ∧ r.order = .plain ∧
          r.reads = n ∧ r.tx = decide ((s.thread tk).tx ≠ []))) ∧
  (∀ (sb : Bool) (d : Dst) (b : Opnd) (n : Nat) (pol : CPol),
    Asks (.ldm sb d b n false pol)
      (fun s tk => globalCheck false 4 ((List.range n).map (4 * ·)) tk (globalAddr b (s.thread tk)))
      (fun s t tk => ∀ j < n, LeaderAsks s t tk false fun r =>
        r.kind = .load ∧ r.va = globalAddr b (s.thread tk) + 4 * j ∧ r.size = .b32 ∧ r.dst = dstAfter j d ∧ r.order = .plain ∧
          r.pol = (s.thread tk).hPol.getD pol ∧ r.tx = decide ((s.thread tk).tx ≠ [])))

/-- R233, R242, R263, R266, R268, R415: ST and STM of global memory. -/
def Obligations.GlobalStores : Prop :=
  (∀ (sb : Bool) (d b : Opnd) (c : Scope) (z : Size) (o : MemOrder) (pol : CPol),
    Asks (.st sb d b c z o pol)
      (fun s tk => globalCheck true z.bytes ((parts z).map (·.1)) tk (globalAddr b (s.thread tk)))
      (fun s t tk => ∀ p ∈ parts z,
        let bytes := leBytes z.bytes (ofWords ((s.thread tk).srcWords d z.width))
        Stores s t tk o c pol (globalAddr b (s.thread tk) + p.1) p.2 ((bytes.drop p.1).take p.2.bytes))) ∧
  (∀ (sb : Bool) (d b : Opnd) (n : Nat) (pol : CPol),
    Asks (.stm sb d b n false pol)
      (fun s tk => globalCheck true 4 ((List.range n).map (4 * ·)) tk (globalAddr b (s.thread tk)))
      (fun s t tk => ∀ j < n, ∀ v, ((s.thread tk).runWords d n)[j]? = some v →
        Stores s t tk .plain .wave pol (globalAddr b (s.thread tk) + 4 * j) .b32 (leBytes 4 v.toNat)))

/-- R271 to R274, R279: ATOM, RED, CAS, CAS64 and CTRADD make one request for each wave and address. -/
def Obligations.AggregatedWords : Prop :=
  ∀ (d : Dst) (b a : Opnd),
    let size (op : AtomOp) : Size := if op.width = 2 then .b64 else .b32
    let dst (op : AtomOp) : Dst := if op.width = 2 then pairAt d else d
    (∀ op : AtomOp, Aggregates (.atom d b a op) b (size op).bytes
      (fun r => r.kind = .rmw op true ∧ r.size = size op ∧ r.dst = dst op) (fun t => t.srcWords a op.width) fun _ => []) ∧
    (∀ op : AtomOp, Aggregates (.red b a op) b (size op).bytes
      (fun r => r.kind = .rmw op false ∧ r.size = size op) (fun t => t.srcWords a op.width) fun _ => []) ∧
    Aggregates (.cas d b a) b 4 (fun r => r.kind = .cas false ∧ r.size = .b32 ∧ r.dst = d) (fun t => [t.src a]) (fun t => [t.old d]) ∧
    Aggregates (.cas64 d b a) b 8 (fun r => r.kind = .cas true ∧ r.size = .b64 ∧ r.dst = pairAt d)
      (fun t => t.srcWords a 2) (fun t => pairWords (t.oldPair d)) ∧
    ∀ (rel : Bool) (c : Scope), Aggregates (.ctradd b a rel c) b 8
      (fun r => r.kind = .ctrAdd ∧ r.scope = c ∧ r.order = if rel then .acqRel else .plain) (fun t => t.srcWords a 2) fun _ => []

/-- R276, R277, R280, R347, R348, R353: counter reads, fences and the words of SYS that make a request. -/
def Sys2Proof.Claims.FencesAndCalls : Prop :=
  (∀ (sb : Bool) (d : Dst) (b : Opnd) (c : Scope) (o : Bool),
    Asks (.ctrread sb d b c o) (fun s tk => globalCheck false 8 [0] tk (globalAddr b (s.thread tk)))
      (fun s t tk => TwinTakes s t tk ∧ LeaderAsks s t tk false fun r =>
        r.kind = .ctrRead ∧ r.va = globalAddr b (s.thread tk) ∧ r.size = .b64 ∧ r.dst = d ∧ r.scope = c ∧
          r.order = if o then .acqRel else .plain)) ∧
  (∀ (sb : Bool) (c : Scope), Asks (.fenceAcq sb c) (fun _ _ => none)
    (fun s t tk => LeaderAsks s t tk false fun r => r.kind = .fence 0 ∧ r.scope = c ∧ r.late = false)) ∧
  (∀ (c : Scope),
    Asks (.fenceRel c) (fun _ _ => none)
      (fun s t tk => LeaderAsks s t tk true fun r => r.kind = .fence 1 ∧ r.scope = c ∧ r.late = true) ∧
    Asks (.fenceAcqrel c) (fun _ _ => none)
      (fun s t tk => LeaderAsks s t tk true fun r => r.kind = .fence 2 ∧ r.scope = c ∧ r.late = true) ∧
    Asks (.fenceSc c) (fun _ _ => none)
      (fun s t tk => LeaderAsks s t tk true fun r => r.kind = .fence 3 ∧ r.scope = c ∧ r.late = true)) ∧
  (∀ m : BitVec 4, Asks (.qfence m) (fun _ _ => none)
    (fun s t tk => LeaderAsks s t tk true fun r => r.kind = .qfence m.toNat ∧ r.late = true)) ∧
  (∀ (d : Dst) (a b : Opnd), Asks (.syscall d a b) (fun _ _ => none)
    (fun s t tk => TwinTakes s t tk ∧ LeaderAsks s t tk true fun r =>
      r.kind = .syscall ∧ r.dst = d ∧ r.late = true ∧
        r.lanes = [{ slot := tk % 512, data := [(s.thread tk).src a, (s.thread tk).src b] }])) ∧
  Asks .iflush (fun _ _ => none) (fun s t tk => LeaderAsks s t tk false fun r => r.kind = .iflush ∧ r.late = true) ∧
  (∀ a : Opnd, Asks (.launch a) (fun s tk => globalCheck false 128 [0] tk ((s.thread tk).pair a).toNat)
    (fun s t tk => LeaderAsks s t tk true fun r => r.kind = .launch ∧ r.va = ((s.thread tk).pair a).toNat ∧ r.late = true))

/-- R233, R241, R270: the cache words; PREF traps on no address, CUNLOCK takes the flight's pin off the line and never faults. -/
def Sys2Proof.Claims.CacheWords : Prop :=
  (∀ (sb : Bool) (a : Opnd), Asks (.pref sb a) (fun _ _ => none)
    (fun s t tk => ((s.thread tk).pair a).toNat < 2 ^ 57 →
      LeaderAsks s t tk false fun r => r.kind = .pref ∧ r.va = ((s.thread tk).pair a).toNat ∧ r.pol = (s.thread tk).hPol.getD .dflt)) ∧
  (∀ (sb : Bool) (d : Dst) (a : Opnd), Asks (.clock sb d a) (fun s tk => globalCheck false 1 [0] tk ((s.thread tk).pair a).toNat)
    (fun s t tk => TwinTakes s t tk ∧
      LeaderAsks s t tk false fun r => r.kind = .clock ∧ r.va = ((s.thread tk).pair a).toNat ∧ r.dst = d)) ∧
  (∀ (sb : Bool) (a : Opnd),
    Asks (.cflush sb a) (fun s tk => globalCheck false 1 [0] tk ((s.thread tk).pair a).toNat)
      (fun s t tk => LeaderAsks s t tk false fun r => r.kind = .flush ∧ r.va = ((s.thread tk).pair a).toNat) ∧
    Asks (.cclean sb a) (fun s tk => globalCheck false 1 [0] tk ((s.thread tk).pair a).toNat)
      (fun s t tk => LeaderAsks s t tk false fun r => r.kind = .clean ∧ r.va = ((s.thread tk).pair a).toNat)) ∧
  ∀ (sb : Bool) (a : Opnd) (k : Nat) (s : State), Ready (.cunlock sb a) k s →
    ∃ t, exec (.cunlock sb a) s = .next t ∧ Around k s { s with dies := t.dies } t ∧
      (∀ tk ∈ s.lanes k, Moved (s.atLast k) (s.thread tk) (s.thread tk) (t.thread tk)) ∧
      (∀ d, { t.die d with pins := [] } = { s.die d with pins := [] }) ∧
      ∀ d line flight, flight ∈ mgetD (t.die d).pins line [] ↔
        flight ∈ mgetD (s.die d).pins line [] ∧
          ∀ tk ∈ s.active k, (s.thread tk).twin = false → dieOfThread tk = d → s.flightKey (s.groupKey tk) = flight →
            s.vasOf tk * 2 ^ 57 + ((s.thread tk).pair a).toNat / 128 * 128 ≠ line

/-- R241, R270, R276, R277, R280, R347, R348, R353: fences, calls of the device, and the words that work on caches. -/
def Obligations.FencesCallsAndCacheWords : Prop := Sys2Proof.Claims.FencesAndCalls ∧ Sys2Proof.Claims.CacheWords

/-! ### Scratch, joins, transactions, reels, tethers, engines and trace marks (R74 to R78, R150, R203 to R209, R267, R282 to R297, R319,
R338, R339, R433 to R435) -/

namespace Sys2Proof.Claims

/-- The value that a load of a size yields from its bytes (R266). -/
def loaded (z : Size) (bs : List Byte) : List Word :=
  let v := leValue bs
  match z with
  | .s8 => [(BitVec.ofNat 8 v).signExtend 32]
  | .s16 => [(BitVec.ofNat 16 v).signExtend 32]
  | .b64 => [BitVec.ofNat 32 v, BitVec.ofNat 32 (v / 2 ^ 32)]
  | _ => [BitVec.ofNat 32 v]

/-- Nothing holds back the scratch accesses of the bundle's lanes: leaders outside marionette flights with no request, no held store. -/
def ScratchFree (k : Nat) (s : State) : Prop :=
  (∀ q ∈ s.reqs, q.id < s.nextId) ∧ ∀ tk ∈ s.active k, (s.thread tk).twin = false ∧ (s.flightOf tk).hdr.marionette = false ∧ (s.groupOf tk).ballast = [] ∧
    (s.thread tk).first ≤ s.nextId ∧ (s.thread tk).early = [] ∧ ∀ q ∈ s.reqs, q.ofThread tk = false

/-- A scratch load of words without an uncorrectable error (R419): each active lane whose address passes the checks has the results on their way that `res` gives from its bytes. -/
def ScratchLoad (i : Instr) (b : Opnd) (n align : Nat) (res : List Byte → List Pend) : Prop :=
  ∀ (k : Nat) (s : State), Ready i k s → ScratchFree k s →
    (∀ tk ∈ s.active k, ∀ j < n, mget s.bad (cellBad (s.scratchAt (s.groupKey tk) (scratchAddr b (s.thread tk) + j))) = none) →
    ∃ t, exec i s = .next t ∧ Around k s { s with nextId := t.nextId } t ∧
      ∀ tk ∈ s.lanes k,
        let old := s.thread tk
        let new := t.thread tk
        let ea := scratchAddr b old
        let bytes := (List.range n).map fun j => Memory.get s.mem (s.scratchAt (s.groupKey tk) (ea + j))
        let check := if old.on then scratchCheck n align s tk ea else none
        match check with
        | some ti => new = { old with stat := .ret, cands := { ti with off := old.off, ord := old.ord } :: old.cands }
        | none =>
          Moved (s.atLast k)
            { old with pend := old.pend ++ (if old.on then (res bytes).map fun p => { p with off := old.off } else []) } old new

/-- The cells that the active lanes of a scratch store write, in order: `data` gives each lane's bytes. -/
def scratchCells (b : Opnd) (n align : Nat) (data : Thread → List Byte) (k : Nat) (s : State) : List (Nat × Byte) :=
  (s.active k).flatMap fun tk =>
    let ea := scratchAddr b (s.thread tk)
    if scratchCheck n align s tk ea = none then
      (data (s.thread tk)).zipIdx.map fun p => (s.scratchAt (s.groupKey tk) (ea + p.2), p.1)
    else []

/-- A thread whose ordered scratch stores are held back by nothing: it has found no trap, and no MDRAIN or MZERO of it is posted (R208,
R267). -/
def DrainFree (s : State) (tk : Nat) : Prop :=
  (s.thread tk).cands = [] ∧ ∀ e ∈ (s.quad (quadOfCore (coreOfThread tk))).table,
    (e.op = .mdrain ∨ e.op = .mzero) → e.core = coreOfThread tk → (tk % 512) ∉ e.lanes

/-- A scratch store: memory changes at the cells written, where the last write stands, and nowhere else; no error appears, and one goes only
with the word rewritten. A release or SC store, and the signal of a release fence, is a commit point of a replayable group (R232, R416). -/
def ScratchStore (i : Instr) (ordered : Bool) (b : Opnd) (n align : Nat) (data : Thread → List Byte) (notes : Thread → Nat → List Effect) : Prop :=
  ∀ (k : Nat) (s : State), Ready i k s → ScratchFree k s →
    let commits (tk : Nat) : Bool := ordered || (s.thread tk).relSig.isSome
    (∀ tk ∈ s.active k, commits tk = true → DrainFree s tk) →
    ∃ t, exec i s = .next t ∧ Around k s { s with mem := t.mem, bad := t.bad, nextId := t.nextId, groups := t.groups } t ∧
      (∀ g, (t.group g).bare = { s.group g with opened := (t.group g).opened }.bare ∧
        ((t.group g).opened = ((s.group g).opened && !((s.active k).any fun tk =>
          commits tk && s.groupKey tk = g && (s.flightOf tk).hdr.replay && (scratchCheck n align s tk (scratchAddr b (s.thread tk))).isNone)))) ∧
      (∀ key, mget t.bad key = none ∨ mget t.bad key = mget s.bad key) ∧
      (∀ a, Memory.get t.mem a =
        (scratchCells b n align data k s).foldl (fun v p => if p.1 = a then p.2 else v) (Memory.get s.mem a)) ∧
      ∀ tk ∈ s.lanes k,
        let old := s.thread tk
        let new := t.thread tk
        let ea := scratchAddr b old
        match (if old.on then scratchCheck n align s tk ea else none) with
        | some ti => new = { old with stat := .ret, cands := { ti with off := old.off, ord := old.ord } :: old.cands }
        | none =>
          Moved (s.atLast k) (if old.on then { old with stores := old.stores ++ notes old ea, relSig := none } else old) old new

/-- The word i makes of each active lane's thread what `f` gives, or gives it the trap that `f` gives; nothing else changes. -/
def LaneActs (i : Instr) (f : State → Nat → Nat → TrapInfo ⊕ Thread) : Prop :=
  ∀ (k : Nat) (s : State), Ready i k s → ∃ t, exec i s = .next t ∧ Around k s s t ∧
    ∀ tk ∈ s.lanes k,
      let old := s.thread tk
      let new := t.thread tk
      match (if old.on then f s k tk else .inr old) with
      | .inl ti => new = { old with stat := .ret, cands := { ti with off := old.off, ord := old.ord } :: old.cands }
      | .inr mid => Moved (s.atLast k) mid old new

/-- A word whose result a twin takes from its leader (R81, R150, R435): a leader's lane gets the words `f` of the state, which its twin's
load-value queue gets too; a twin's lane gets what its queue holds for the word. -/
def LeaderResult (i : Instr) (d : Dst) (n : Nat) (f : State → Nat → List Word) : Prop :=
  ∀ (k : Nat) (s : State), Ready i k s →
    ((∀ tk ∈ s.lanes k, (s.thread tk).twin = false) →
      ∃ t, exec i s = .next t ∧ Around k s { s with threads := t.threads } t ∧
        (∀ tk, tk ∉ s.lanes k → t.thread tk = { s.thread tk with lvq := (t.thread tk).lvq }) ∧
        ∀ tk ∈ s.lanes k,
          let old := s.thread tk
          let new := t.thread tk
          Result (s.atLast k) d (f s tk) { old with lvq := new.lvq } new ∧
            ∀ w, old.on = true → s.twinOf tk = some w → (old.blockNo, { off := old.off, dst := d, vals := f s tk }) ∈ (t.thread w).lvq) ∧
    ((∀ tk ∈ s.lanes k, (s.thread tk).twin = true) →
      ∃ t, exec i s = .next t ∧ Around k s s t ∧
        ∀ tk ∈ s.lanes k,
          let old := s.thread tk
          let mine (e : Nat × Pend) : Bool := e.1 = old.blockNo && e.2.off = old.off
          let vals := ((old.lvq.find? mine).map fun e => e.2.vals).getD (List.replicate n 0)
          Result (s.atLast k) d vals { old with lvq := old.lvq.filter fun e => !mine e } (t.thread tk))

/-- A tether slot written by a word: in each group, the last active leader's image stands, an image of zeros empties the slot. -/
def TetherWrite (i : Instr) (n : Nat) (img : Thread → List Word) (good : List Word → Bool) : Prop :=
  ∀ (k : Nat) (s : State), Ready i k s →
    ∃ t, exec i s = .next t ∧ Around k s { s with groups := t.groups } t ∧
      (∀ g, { t.group g with tethers := [] }.bare = { s.group g with tethers := [] }.bare ∧
        ∀ m, mget (t.group g).tethers m =
          if m = n then
            match ((s.active k).filter fun tk => s.groupKey tk = g && !(s.thread tk).twin && good (img (s.thread tk))).getLast? with
            | some tk => if ∀ w ∈ img (s.thread tk), w = 0 then none else some (img (s.thread tk))
            | none => mget (s.group g).tethers m
          else mget (s.group g).tethers m) ∧
      ∀ tk ∈ s.lanes k,
        let old := s.thread tk
        let new := t.thread tk
        if old.on = true ∧ good (img old) = false then
          new = { old with
            stat := .ret, cands := { kind := .tether, sub := 2, detail := n, off := old.off, ord := old.ord } :: old.cands }
        else
          Moved (s.atLast k)
            (if old.on then
              { old with sends := old.sends ++ [{ off := old.off, op := 0x3A, addr := n, size := 0, data := leBytes 32 (ofWords (img old)) }] }
             else old) old new

/-- What join words leave: every memory and unit, every group, and, where no text in Glomer form waits, every register. -/
structure JoinFrame (k : Nat) (s t : State) : Prop where
  rest : { t with waves := [], nextId := 0 }.rest = { s with waves := [], nextId := 0 }.rest
  groups : ∀ g, (t.group g).bare = (s.group g).bare
  cores : ∀ c, { (t.core c).bare with table := [], fifo := [], clock := 0 } = { (s.core c).bare with table := [], fifo := [], clock := 0 }
  bundles : ∀ j, j ≠ k → t.bundle j = s.bundle j
  regs : (∀ tk, (s.thread tk).glomer = false) → (∀ c, ∀ e ∈ (s.core c).table, e.glomer = false) → ∀ tk r, (t.thread tk).reg r = (s.thread tk).reg r

/-- A lane is settled for a mask: it has arrived, it is absent or has exited, or it sleeps (R75). -/
def settled (s : State) (wk n l : Nat) : Bool :=
  (mgetD (s.wave wk).arrs n 0).getLsbD l || (mget s.threads (64 * wk + l)).isNone || (s.thread (64 * wk + l)).stat = .exited ||
    (s.thread (64 * wk + l)).stat = .asleep

/-- A matrix word (R77, R203 to R209): it acts for a whole wave, or every lane takes the trap; it asks once for its wave, with the pair of
the lowest lane and the images of its tether slots. -/
def MatrixAsks (i : Instr) (p : Opnd) (e : MEntry) : Prop :=
  ∀ (k : Nat) (s : State), Ready i k s → ∃ t, exec i s = .next t ∧ OnlyAsked k s t ∧
    match s.active k with
    | [] => t.reqs = s.reqs ∧ ∀ tk ∈ s.lanes k, (t.thread tk).cands = (s.thread tk).cands
    | l :: _ =>
      let wk := waveKeyOf l
      if s.active k = s.lanes k ∧ (s.bundle k).waveBundle = true ∧
          ∀ j ∈ List.range 64, threadKey (wk / 8) (wk % 8 * 64 + j) ∈ s.lanes k ∨ (mget s.threads (threadKey (wk / 8) (wk % 8 * 64 + j))).isNone = true ∨
            (s.thread (threadKey (wk / 8) (wk % 8 * 64 + j))).stat = .exited then
        (∀ tk ∈ s.lanes k, (t.thread tk).cands = (s.thread tk).cands) ∧
        ((s.thread l).twin = true → t.reqs = s.reqs) ∧
        ((s.thread l).twin = false → ∃ r ∈ t.reqs, s.nextId ≤ r.id ∧
          r.kind = .matrix { e with
            group := s.groupKey l, prio := (s.flightOf l).hdr.prio
            t1 := (mget (s.groupOf l).tethers e.slot1).getD [], t2 := (mget (s.groupOf l).tethers e.slot2).getD []
            origin := (s.thread l).srcWord 0 p, prog := (s.thread l).srcWord 1 p, core := coreOfThread l
            lanes := (s.lanes k).map (· % 512), off := (s.thread l).off, ord := (s.thread l).ord, dst := p } ∧
          r.lanes.map (·.slot) = (s.lanes k).map (· % 512))
      else
        t.reqs = s.reqs ∧
          ∀ tk ∈ s.lanes k, Found (s.thread tk) (t.thread tk) (some { kind := .converge })

/-- The request of a trace word for the wave of which l is the first active lane (R435). -/
def MarkAsks (k : Nat) (s t : State) (op : Nat) (ws : Nat → List Word) : Prop :=
  ∀ l, (∃ wk, ((s.active k).filter fun u => waveKeyOf u = wk).head? = some l) → (s.thread l).twin = false →
    NewReq s t l fun r =>
      r.kind = .mark op ∧ r.late = true ∧ r.off = (s.thread l).off ∧ r.ord = (s.thread l).ord ∧
        (r.lanes.head?).map (·.data) = some (ws l) ∧
        ∀ u ∈ s.active k, (r.ofThread u = true ↔ waveKeyOf u = waveKeyOf l)

end Sys2Proof.Claims

/-- R231, R233, R237, R267, R268: scratch loads and stores of leaders that nothing holds back. -/
def Obligations.ScratchWords : Prop :=
  (∀ (sb : Bool) (d : Dst) (b : Opnd) (c : Scope) (z : Size) (o : MemOrder),
    ScratchLoad (.lds sb d b c z o) b z.bytes z.bytes fun bs =>
      (parts z).map fun p => { off := 0, dst := dstAfter (p.1 / 4) d, vals := loaded p.2 ((bs.drop p.1).take p.2.bytes) }) ∧
  (∀ (sb : Bool) (d : Dst) (b : Opnd) (n : Nat) (pol : CPol),
    ScratchLoad (.ldm sb d b n true pol) b (4 * n) 4 fun bs =>
      (List.range n).map fun j => { off := 0, dst := dstAfter j d, vals := loaded .b32 ((bs.drop (4 * j)).take 4) }) ∧
  (∀ (sb : Bool) (d b : Opnd) (c : Scope) (z : Size) (o : MemOrder),
    let data (t : Thread) := leBytes z.bytes (ofWords (t.srcWords d z.width))
    ScratchStore (.sts sb d b c z o) (o ≠ .plain) b z.bytes z.bytes data
      fun t ea => [{ off := t.off, op := 1, addr := ea, size := z.bytes, data := data t }]) ∧
  (∀ (sb : Bool) (d b : Opnd) (n : Nat) (pol : CPol), n ≠ 0 →
    ScratchStore (.stm sb d b n true pol) false b (4 * n) 4 (fun t => (t.runWords d n).flatMap fun v => leBytes 4 v.toNat)
      fun t ea => (t.runWords d n).zipIdx.map fun p => { off := t.off, op := 1, addr := ea + 4 * p.2, size := 4, data := leBytes 4 p.1.toNat })

/-- R74, R75, R78, R350: JOIN, JSET, JLEAVE and JGET. -/
def Obligations.JoinWords : Prop :=
  (∀ (sb : Bool) (d : Dst) (n : Nat), LaneResult (.jget sb d n) d fun s tk _ => pairWords (mgetD (s.wave (waveKeyOf tk)).sets n 0)) ∧
  ∀ (sb : Bool) (n : Nat) (b : Opnd) (k : Nat) (s : State),
    (∀ tk, (s.thread tk).glomer = false) → (∀ c, ∀ e ∈ (s.core c).table, e.glomer = false) →
    (∀ c, ∀ slot ∈ (s.core c).fifo, (s.thread (threadKey c slot)).stat = .overflow) →
    let setAs (t : State) (v : Nat → BitVec 64 → BitVec 64) : Prop :=
      ∀ wk m, mgetD (t.wave wk).sets m 0 =
        if m = n then
          ((s.active k).filter fun tk => waveKeyOf tk = wk).foldl (fun x tk => v tk x) (mgetD (s.wave wk).sets m 0)
        else mgetD (s.wave wk).sets m 0
    (Ready (.jset sb n b) k s → ∃ t, exec (.jset sb n b) s = .next t ∧ JoinFrame k s t ∧
      (∀ tk ∈ s.lanes k, Passed (s.atLast k) (s.thread tk) (t.thread tk)) ∧
      setAs t fun tk _ =>
        let v := (s.thread tk).pair b
        if (s.flightOf tk).hdr.narrow then v &&& 0xFFFFFFFF else v) ∧
    (Ready (.jleave sb n) k s → ∃ t, exec (.jleave sb n) s = .next t ∧ JoinFrame k s t ∧
      (∀ tk ∈ s.lanes k, Passed (s.atLast k) (s.thread tk) (t.thread tk)) ∧
      setAs t fun tk x => x &&& ~~~BitVec.ofNat 64 (2 ^ (tk % 64))) ∧
    (Ready (.join sb n) k s → ∃ t, exec (.join sb n) s = .next t ∧ JoinFrame k s t ∧ setAs t (fun _ x => x) ∧
      (∀ tk ∈ s.lanes k, Passed (s.atLast k) (s.thread tk) (t.thread tk) ∧
        (t.thread tk).bend = if (s.thread tk).on then .join n else (s.thread tk).bend) ∧
      ∀ tk, s.lanes k = [tk] → (s.thread tk).on = true → (s.thread tk).jgen = none →
        let wk := waveKeyOf tk
        let set := mgetD (s.wave wk).sets n 0
        let arr (s : State) := mgetD (s.wave wk).arrs n 0
        if set.getLsbD (tk % 64) = false then (t.thread tk).jgen = some s.nextId ∧ arr t = arr s
        else if ∀ l ∈ List.range 64, set.getLsbD l = true → l = tk % 64 ∨ settled s wk n l = true then
          (t.thread tk).jgen = some s.nextId ∧ arr t = 0 ∧ ∀ l < 64, (arr s).getLsbD l = true → (t.thread (64 * wk + l)).jgen = some s.nextId
        else (t.thread tk).jgen = none ∧ arr t = arr s ||| BitVec.ofNat 64 (2 ^ (tk % 64)))

/-- R319, R320, R326, R331, R337, R338: the words that open, end and leave transactions. -/
def Sys2Proof.Claims.TransactionWords : Prop :=
  let none? : TrapInfo := { kind := .illegal, sub := 8 }
  let opens (orelse : Bool) (disp : BitVec 18) (s : State) (k tk : Nat) : TrapInfo ⊕ Thread :=
    let t := s.thread tk
    let f := s.flightOf tk
    if orelse = true ∧ t.tx = [] then .inl none?
    else if (if f.floor then 2 else 4) ≤ t.tx.length then .inl { kind := .txCap, sub := 3 }
    else .inr { t with
      tx :=
        { orelse := orelse, glomer := t.glomer, no := t.blockNo, head := t.head, ord := t.ord, path := target t disp
          ckpt := t.regs.filter fun p => (s.bundle k).live.testBit p.1 || (t.glomer && f.hdr.nregs ≤ p.1), first := s.nextId } :: t.tx
      txCycles := if t.tx = [] then (s.core (coreOfThread tk)).cycles else t.txCycles }
  let inside (f : Thread → Thread) (s : State) (_ tk : Nat) : TrapInfo ⊕ Thread :=
    if (s.thread tk).tx = [] then .inl none? else .inr (f (s.thread tk))
  (∀ (sb : Bool) (disp : BitVec 18), LaneActs (.txbegin sb disp) (opens false disp) ∧ LaneActs (.orelse sb disp) (opens true disp)) ∧
  LaneActs .retry (inside fun t => { t with bend := .retry }) ∧
  (∀ a : Opnd, LaneActs (.txabort a) (inside fun t => { t with bend := .abort ((t.src a).toNat % 256) })) ∧
  -- an inner TXEND: the innermost level joins the one around it
  (∀ (k : Nat) (s : State), Ready .txend k s → (∀ tk ∈ s.active k, (s.thread tk).tx.length ≠ 1) →
    ∃ t, exec .txend s = .next t ∧ Around k s s t ∧
      ∀ tk ∈ s.lanes k,
        let old := s.thread tk
        let new := t.thread tk
        match old.tx with
        | a :: b :: r =>
          if old.on = true then
            ∃ m, (∀ x, mget m x = if (∃ v, (x, v) ∈ a.writes) then (a.writes.reverse.find? fun p => p.1 = x).map (·.2) else mget b.writes x) ∧
              Moved (s.atLast k) { old with tx := { b with writes := m, reads := b.reads ++ a.reads } :: r } old new
          else Moved (s.atLast k) old old new
        | _ =>
          if old.on = true then
            new = { old with stat := .ret, cands := { kind := .illegal, sub := 8, off := old.off, ord := old.ord } :: old.cands }
          else Moved (s.atLast k) old old new) ∧
  -- the outermost TXEND asks for the commit
  ∀ (k : Nat) (s : State), Ready .txend k s → (∀ tk ∈ s.active k, (s.thread tk).tx.length = 1) →
    ∃ t, exec .txend s = .next t ∧ OnlyAsked k s t ∧ ∀ tk ∈ s.active k,
      (t.thread tk).cands = (s.thread tk).cands ∧ LeaderAsks s t tk true fun r => r.kind = .txend ∧ r.late = true

/-- R339: TXSTAT. -/
def Sys2Proof.Claims.TransactionStatus : Prop :=
  ∀ (sb : Bool) (d : Dst), LeaderResult (.txstat sb d) d 1 fun s tk =>
    let t := s.thread tk
    [BitVec.ofNat 32 (t.txCode * 2 ^ 24 + t.txReason * 2 ^ 20 + t.confl * 2 ^ 16 + t.tx.length * 2 ^ 13
      + (if (s.die (dieOfThread tk)).token = some tk then 2 ^ 12 else 0)
      + (match t.tx with | l :: _ => if l.orelse && l.alt then 2 ^ 11 else 0 | [] => 0)
      + t.readSet.length * 2 ^ 5 + t.writeLines.length)]

/-- R294, R295: the REEL words ask for their effect on a live reel of the thread's own group; what fails the checks traps. -/
def Sys2Proof.Claims.ReelWords : Prop :=
  let asks (i : Instr) (op : Nat) (d : Dst) (a b : Opnd) (late : Bool) : Prop :=
    Asks i
      (fun s tk =>
        let va := ((s.thread tk).src a).toNat
        if op = 0 then rinitTrap s (s.groupKey tk) va ((s.thread tk).src b).toNat else reelTrap s (s.groupKey tk) va)
      (fun s t tk => TwinTakes s t tk ∧ LeaderAsks s t tk false fun r =>
        r.kind = .reel op ((s.thread tk).src a) ((s.thread tk).src b) ∧ r.dst = d ∧ r.late = late)
  ∀ (sb : Bool) (d : Dst) (a b : Opnd),
    asks (.rinit a b) 0 .trans a b true ∧
    asks (.rfill sb d a) 1 d a (.reg 0) false ∧
    asks (.rfree a b) 2 .trans a b true ∧
    asks (.rspace sb d a) 3 d a (.reg 0) false ∧
    asks (.rstat sb d a) 4 (pairAt d) a (.reg 0) false

/-- R79, R263, R282 to R285, R296, R297: a copy-family word of the producer wave asks for its entry, with the images of its tether slots as
they stand. -/
def Sys2Proof.Claims.CopyWords : Prop :=
  ∀ (dt sl : Nat) (c y : Opnd) (byCtr : Bool),
    let entry (kind : CopyKind) (s : State) (tk : Nat) : SEntry :=
      let t := s.thread tk
      let img (n : Nat) : List Word := (mget (s.groupOf tk).tethers n).getD []
      { group := s.groupKey tk, kind := kind, src := img sl, dst := img dt, c0 := t.srcWord 0 c, c1 := t.srcWord 1 c
        key := if kind = .combine then t.srcWord 2 c else 0, con := if kind = .combine then t.srcWord 3 c else 0
        byCtr := byCtr, sync := if byCtr then (t.pair y).toNat else (t.src y).toNat, core := coreOfThread tk, thread := tk }
    let asks (i : Instr) (kind : CopyKind) : Prop :=
      Asks i
        (fun s tk =>
          if (s.flightOf tk).hdr.producer ≠ (s.wave (waveKeyOf tk)).f1 then some { kind := .copyRights }
          else copyTrap s (s.groupKey tk) dt sl (entry kind s tk) (entry kind s tk).sync)
        (fun s t tk => LeaderAsks s t tk true fun r => r.kind = .copy (entry kind s tk) ∧ r.late = true)
    asks (.copy dt sl c y byCtr) .copy ∧ asks (.gather dt sl c y byCtr) .gather ∧ asks (.scatter dt sl c y byCtr) .scatter ∧
      asks (.combine dt sl c y byCtr) .combine

/-- R77, R203 to R209: the matrix words. -/
def Obligations.MatrixWords : Prop :=
  ∀ (sb pair swapf : Bool) (bank x y : Nat) (p : Opnd) (m : DrainMode),
    MatrixAsks (.mmul bank x y p pair) p { op := .mmul, bank := bank, slot1 := x, slot2 := y, pair := pair } ∧
    MatrixAsks (.mstat x p) p { op := .mstat, slot1 := x } ∧
    MatrixAsks (.mstream bank x p pair swapf) p { op := .mstream, bank := bank, slot1 := x, pair := pair, swapf := swapf } ∧
    MatrixAsks (.mdrain sb bank x p m) p { op := .mdrain, bank := bank, slot1 := x, mode := m } ∧
    MatrixAsks (.mzero sb bank p) p { op := .mzero, bank := bank }

/-- R148 to R150: TTSET, TTCLR and TTGET. -/
def Sys2Proof.Claims.TetherWords : Prop :=
  ∀ (sb : Bool) (a : Opnd) (d : Dst) (n : Nat),
    TetherWrite (.ttset sb a n) n (fun t => t.runWords a 8) (fun img => img.all (· = 0) || tethValid img) ∧
    TetherWrite (.ttclr sb n) n (fun _ => List.replicate 8 0) (fun _ => true) ∧
    LeaderResult (.ttget sb d n) d 8 fun s tk => (mget (s.groupOf tk).tethers n).getD (List.replicate 8 0)

/-- R433 to R435: the TRACE words ask once for each wave; MARKSTAT's result is the wave's top label, DEPTH and OVFSEEN. -/
def Sys2Proof.Claims.MarkWords : Prop :=
  let asks (i : Instr) (op : Nat) (ws : Thread → List Word) : Prop :=
    ∀ (k : Nat) (s : State), Ready i k s → ∃ t, exec i s = .next t ∧ OnlyAsked k s t ∧ MarkAsks k s t op (fun l => ws (s.thread l)) ∧
      ∀ tk ∈ s.lanes k, (t.thread tk).cands = (s.thread tk).cands
  ∀ (a b : Opnd) (d : Dst),
    asks (.markpush a) 0 (fun t => [t.src a]) ∧
    asks .markpop 1 (fun _ => []) ∧
    asks (.markevt a b) 2 (fun t => [t.src a, t.src b]) ∧
    ∀ (k : Nat) (s : State), Ready (.markstat d) k s →
      let value (tk : Nat) : Word :=
        let w := s.wave (waveKeyOf tk)
        let top := (((w.labels.take (min w.depth 16)).getLast?).getD 0)
        BitVec.ofNat 32 (top + 2 ^ 16 * w.depth + 2 ^ 24 * w.ovf.toNat)
      (∀ tk ∈ s.lanes k, (s.thread tk).twin = false) →
      ∃ t, exec (.markstat d) s = .next t ∧ t.aside = s.aside ∧ t.links = s.links ∧ (∀ g, (t.group g).bare = (s.group g).bare) ∧
        (∀ c, (t.core c).bare = (s.core c).bare) ∧ (∀ j, j ≠ k → t.bundle j = s.bundle j) ∧ (∀ x, t.die x = s.die x) ∧
        (∀ tk, tk ∉ s.lanes k → t.thread tk = { s.thread tk with lvq := (t.thread tk).lvq }) ∧
        (∀ tk ∈ s.lanes k, Result (s.atLast k) d [value tk]
          { s.thread tk with lvq := (t.thread tk).lvq, sends := (t.thread tk).sends } (t.thread tk)) ∧
        MarkAsks k s t 3 fun l => [value l]

/-- R110, R114: a Glomer word does what its native instruction does; one that decodes to none gives every lane of the bundle in focus an
illegal-instruction trap. -/
def Obligations.GlomerWordRunsItsInstruction : Prop :=
  ∀ (w : BitVec 64) (s : State),
    (∀ (i : Instr) (h : Bool), decodeGlomer w.toNat = some (i, h) → i.isEvent = false → (∀ x, i ≠ .glomerWord x) →
      exec (.glomerWord w) s = exec i s ∧ (s.focus ≠ none → ∃ t, exec (.glomerWord w) s = .next t)) ∧
    (∀ k : Nat, decodeGlomer w.toNat = none → s.focus = some k → (s.bundle k).lanes.Nodup →
      ∃ t, exec (.glomerWord w) s = .next t ∧ t.focus = none ∧ mget t.bundles k = none ∧ t.rest = s.rest ∧
        (∀ tk, tk ∉ s.lanes k → t.thread tk = s.thread tk) ∧
        ∀ tk ∈ s.lanes k, t.thread tk =
          { s.thread tk with
            stat := .ret
            cands := { kind := .illegal, sub := 1, off := (s.thread tk).off, ord := (s.thread tk).ord } :: (s.thread tk).cands })

/-- R319, R320, R326, R331, R337 to R339: the words of transactions, and TXSTAT. -/
def Obligations.TransactionWordsAndStatus : Prop := Sys2Proof.Claims.TransactionWords ∧ Sys2Proof.Claims.TransactionStatus

/-- R79, R263, R282 to R285, R294 to R297: reels, and the words that queue copies on them. -/
def Obligations.ReelAndCopyWords : Prop := Sys2Proof.Claims.ReelWords ∧ Sys2Proof.Claims.CopyWords

/-- R148 to R150, R433 to R435: tether slots, and the words of the trace unit. -/
def Obligations.TetherAndMarkWords : Prop := Sys2Proof.Claims.TetherWords ∧ Sys2Proof.Claims.MarkWords

/-! ### Events of threads, bundles and requests (R55 to R61, R66, R68, R83, R265, R366, R368, R405 to R411) -/

namespace Sys2Proof.Claims

/-- A request of one lane stands at a line of its own die, which nothing withholds from it: no order holds it back, no range is open on the
address, no copy of the line stands in the L2, no session watches, no token holds the line, no L1 line of the core is bad; the die's TLB translates
the address with the leaf to the physical address pa, no line of the page is lost, the frame is not the host's, the page's key is loaded, A (for a write D too) is set already, the bytes written are no part of a page
table, and the line's set of the L2 has room for it (R239). -/
structure AtHome (s : State) (r : Req) (wr : Bool) (leaf pa : Nat) : Prop where
  req : s.req? r.id = some r
  phase : r.phase = .sent
  home : r.home = r.die
  up : (s.die r.die).life = .up
  go : mayGo s r = true
  shut : s.openAt r.die r.vas r.va = none
  plain : r.order = .plain ∧ r.sig = none ∧ r.tx = false ∧ r.pol = .dflt
  group : (s.hdrOf r.tk).replay = false ∧ (s.hdrOf r.tk).marionette = false ∧ (s.groupOf r.tk).ballast = []
  copy : mget (s.die r.die).l2 (r.vas * 2 ^ 57 + r.va / 128 * 128) = none
  set : (((s.die r.die).l2home ++ (s.die r.die).l2.map (·.1)).filter fun k =>
    k / 128 % 2 ^ 15 = r.va / 128 % 2 ^ 15 && k ≠ r.vas * 2 ^ 57 + r.va / 128 * 128).length < 16
  slot : ∃ i p, (s.die r.die).slotOf r.vas = some (i, p) ∧ p.keys.testBit (leaf / 2 ^ 23 % 16) = true
  found : ∃ e, (s.die r.die).tlb.find? (fun t => t.serves r.vas r.va) = some e ∧ e.leaf = leaf ∧ paOf leaf r.va e.size = pa
  here : homeOf leaf r.va = r.die
  room : pa < (s.die r.die).memSize
  kept : s.pageLost leaf = false ∧ (s.die r.die).hostFrame pa 1 = false
  l1 : (s.core r.core).l1Bad = []
  ad : ∀ level l e p, s.walkRoot r.die r.vas r.va = some (.leaf level l e p) → l.testBit 4 = true ∧ (wr = true → l.testBit 5 = true)
  tables : ∀ m, (∀ a, a < ramKey r.die pa ∨ ramKey r.die pa + r.size.bytes ≤ a → Memory.get m a = Memory.get s.mem a) →
    wr = true → { s with mem := m }.walkRoot r.die r.vas r.va = s.walkRoot r.die r.vas r.va
  sessions : s.sessions = []
  token : (s.die r.die).token = none
  good : mgetD s.bad (r.die * 2 ^ 41 + pa / 128) 0 = 0

/-- The leaf's page is readable under its key (R358, R394), and writable, without a mirror; a counter page or not. -/
def readable (s : State) (r : Req) (leaf pa : Nat) : Prop :=
  leaf.testBit 1 = true ∧ mgetD s.tags (r.die * 2 ^ 36 + pa / 4096) 0 = r.vas * 16 + leaf / 2 ^ 23 % 16
def writable (leaf : Nat) : Prop := leaf.testBit 2 = true ∧ leaf.testBit 6 = false
def counters (leaf : Nat) : Bool := leaf.testBit 11

/-- Memory has the bytes at physical address pa of a die, and elsewhere what it had. -/
def wroteAt (s t : State) (die pa : Nat) (bs : List Byte) : Prop :=
  ∀ a, Memory.get t.mem a =
    if die * 2 ^ 48 + pa ≤ a ∧ a < die * 2 ^ 48 + pa + bs.length then (bs[a - (die * 2 ^ 48 + pa)]?).getD 0 else Memory.get s.mem a

/-- The bytes at physical address pa of a die. -/
def bytesAt (s : State) (die pa n : Nat) : List Byte := (List.range n).map fun i => Memory.get s.mem (die * 2 ^ 48 + pa + i)

/-- The new memory value of an operation (R272). -/
def atomResult (op : AtomOp) (m a : Nat) : Nat :=
  let x : Word := BitVec.ofNat 32 m
  let y : Word := BitVec.ofNat 32 a
  match op with
  | .add => (m + a) % 2 ^ 32
  | .min => if x.toInt ≤ y.toInt then x.toNat else y.toNat
  | .max => if x.toInt ≤ y.toInt then y.toNat else x.toNat
  | .umin => min m a
  | .umax => max m a
  | .and => (x &&& y).toNat
  | .or => (x ||| y).toNat
  | .xor => (x ^^^ y).toNat
  | .exch => a
  | .fadd => fp32.sum { rnd := .rne, ftz := false, sat := false } [fp32.val false m, fp32.val false a]
  | .add64 => (m + a) % 2 ^ 64
  | .exch64 => a

/-- t0 is s with a bundle in slot k for the threads that a selection has taken (R58, R61): they stream from the entry's head, with their
registers, and the bundle waits for the block's words. -/
structure Selected (s : State) (k : Nat) (c : Choice) (t0 : State) : Prop where
  flight : (t0.bundle k).flight = c.entry.flight ∧ (t0.bundle k).glomer = c.entry.glomer ∧ (t0.bundle k).head = c.entry.head
  place : (t0.bundle k).code = [] ∧ (t0.bundle k).pos = 0 ∧ (t0.bundle k).fetching = true
  wave : (t0.bundle k).waveBundle = c.entry.gen.isSome
  lanes : ∀ i, i ∈ (t0.bundle k).lanes ↔ i < 512 ∧ ∃ tk ∈ takeFrom c, tk % 512 = i
  threads : ∀ tk ∈ takeFrom c, (t0.thread tk).stat = .stream ∧ (t0.thread tk).head = c.entry.head ∧ (t0.thread tk).off = 0 ∧
    (t0.thread tk).regs = (s.thread tk).regs
  others : ∀ j, j ≠ k → t0.bundle j = s.bundle j
  frame : t0.mem = s.mem ∧ t0.reqs = s.reqs ∧ t0.focus = s.focus

/-- The request has its performed answer with these bytes; nothing of any thread has changed. -/
def Performed (s t : State) (r : Req) (bs : List Byte) : Prop :=
  t.req? r.id = some { r with phase := .answered (.performed bs) false } ∧ t.threads = s.threads ∧ t.hostMem = s.hostMem

end Sys2Proof.Claims

/-- R242, R252, R254, R272, R273, R274, R279, R280, R368: plain loads and stores, atomics and counter accesses of one lane at a home of
their own die. -/
def Obligations.HomePerforms : Prop :=
  ∀ (s : State) (r : Req) (leaf pa : Nat),
    (r.kind = .load → AtHome s r false leaf pa → readable s r leaf pa → counters leaf = false →
      ∃ t, exec (.homeRequest r.id) s = .next t ∧ Performed s t r (bytesAt s r.die pa r.size.bytes) ∧ t.mem = s.mem) ∧
    (r.kind = .ctrRead → AtHome s r false leaf pa → readable s r leaf pa → counters leaf = true →
      ∃ t, exec (.homeRequest r.id) s = .next t ∧ Performed s t r (bytesAt s r.die pa r.size.bytes) ∧ t.mem = s.mem) ∧
    (∀ l, r.kind = .store → r.lanes = [l] → AtHome s r true leaf pa → writable leaf → counters leaf = false →
      ∃ t, exec (.homeRequest r.id) s = .next t ∧ Performed s t r [] ∧
        wroteAt s t r.die pa (leBytes r.size.bytes (ofWords l.data))) ∧
    (∀ l op ret, r.kind = .rmw op ret → r.lanes = [l] → AtHome s r true leaf pa → writable leaf → readable s r leaf pa → counters leaf = false →
      ∃ t, exec (.homeRequest r.id) s = .next t ∧ Performed s t r (bytesAt s r.die pa r.size.bytes) ∧
        wroteAt s t r.die pa
          (leBytes r.size.bytes (atomResult op (leValue (bytesAt s r.die pa r.size.bytes)) (ofWords l.data)))) ∧
    (∀ l wide, r.kind = .cas wide → r.lanes = [l] → AtHome s r true leaf pa → writable leaf → readable s r leaf pa → counters leaf = false →
      ∃ t, exec (.homeRequest r.id) s = .next t ∧ Performed s t r (bytesAt s r.die pa r.size.bytes) ∧
        wroteAt s t r.die pa
          (if leValue (bytesAt s r.die pa r.size.bytes) = ofWords l.expect then leBytes r.size.bytes (ofWords l.data)
           else bytesAt s r.die pa r.size.bytes)) ∧
    (∀ l, r.kind = .ctrAdd → r.lanes = [l] → AtHome s r true leaf pa → writable leaf → readable s r leaf pa → counters leaf = true →
      ∃ t, exec (.homeRequest r.id) s = .next t ∧ Performed s t r (bytesAt s r.die pa r.size.bytes) ∧
        wroteAt s t r.die pa
          (leBytes r.size.bytes (min (2 ^ 64 - 1) (leValue (bytesAt s r.die pa r.size.bytes) + ofWords l.data))))

/-- R66, R68, R265, R366, R374, R375, R410: a request walks, is answered, is sent again, and settles. -/
def Obligations.RequestEvents : Prop :=
  ∀ (s : State) (r : Req), s.req? r.id = some r →
    -- the walk reaches a leaf: the HLB has it, and the request goes to the line's home
    (∀ level l entry ptrs, r.kind ≠ .probe → r.phase = .walk → s.up r.die = true → s.openAt r.die r.vas r.va = none →
      s.walk r.die r.vas r.va = some (.leaf level l entry ptrs) →
      let tlb := s.tlbOf r.die r.vas r.va level l entry
      ∃ t, exec (.pageTableWalk r.id) s = .next t ∧
        t.req? r.id = some { r with phase := .sent, leaf := tlb.leaf, home := homeOf tlb.leaf r.va } ∧
        (t.core r.core).hlb.head? = some tlb ∧ t.mem = s.mem ∧ t.threads = s.threads) ∧
    -- an access that the home must hold back is told so, and waits for the commit or the rejoin
    (∀ w, r.kind ≠ .pref → r.phase = .answered .moved w → exec (.answerMoved r.id) s = .next (s.setReq { r with phase := .resend })) ∧
    (∀ w, r.kind ≠ .pref → r.phase = .answered .resetting w → exec (.answerResetting r.id) s = .next (s.setReq { r with phase := .resend })) ∧
    (r.phase = .resend → s.openAt r.die r.vas r.va = none → (s.die r.home).life ≠ .resetting →
      -- the requester's die has seen the COMMIT of the shootdown that refused it
      (r.mvd = 0 ∨ r.mvd ∈ (s.die r.die).applied) →
      exec (.requestResend r.id) s = .next (s.setReq { r with phase := .walk, mvd := 0 })) ∧
    -- R270: a refused prefetch is dropped
    (∀ w, r.kind = .pref → r.phase = .answered .moved w → exec (.answerMoved r.id) s = .next (s.dropReq r.id)) ∧
    (∀ w, r.kind = .pref → r.phase = .answered .resetting w → exec (.answerResetting r.id) s = .next (s.dropReq r.id)) ∧
    -- a load that is answered leaves its words for the next head
    (∀ bs l, r.kind = .load → r.phase = .answered (.performed bs) false → r.lanes = [l] →
      let tk := threadKey r.core l.slot
      s.twinOf tk = none → (s.thread tk).first ≤ r.id →
      ∃ t, exec (.answerPerformed r.id) s = .next t ∧ t.reqs = s.reqs.filter (fun q => q.id ≠ r.id) ∧ t.mem = s.mem ∧
        t.thread tk =
          { s.thread tk with pend := (s.thread tk).pend ++ [{ off := r.off, dst := r.dst, vals := loaded r.size bs }] } ∧
        ∀ x, x ≠ tk → t.thread x = s.thread x) ∧
    -- a fault is a trap of the block that made the access, and goes to the fault queue
    (∀ k det w l, r.kind ≠ .pref → r.phase = .answered (.fault k det) w → r.lanes = [l] → s.inBlock r = true →
      (s.group (s.groupKey r.tk)).ballast = [] →
      let tk := threadKey r.core l.slot
      ∃ t, exec (.answerFault r.id) s = .next t ∧ t.reqs = s.reqs.filter (fun q => q.id ≠ r.id) ∧ t.mem = s.mem ∧
        t.thread tk =
          { s.thread tk with
            cands :=
              { kind := .page, sub := k.code, off := r.off, ord := r.ord, va := r.va, detail := r.writes.toNat + 2 * det, who := s.nextId, asked := true } ::
                (s.thread tk).cands } ∧
        (t.die r.die).faults = (s.die r.die).faults ++
          [{ va := r.va, vas := r.vas, kind := k, wr := r.writes, core := r.core % 128, slot := l.slot, det := det, who := s.nextId }]) ∧
    -- R411: a store refused after its thread has gone on is a trap at the next head
    (∀ k det w l, r.kind = .store → r.phase = .answered (.fault k det) w → r.lanes = [l] → s.inBlock r = false →
      (s.group (s.groupKey r.tk)).ballast = [] →
      let tk := threadKey r.core l.slot
      (mget s.threads tk).isSome = true → (s.thread tk).stat = .wait → (s.thread tk).deferred = none → (s.thread tk).owed = [] →
      let whole : Nat × Nat × Nat := match r.wide with | some (va, data) => (va, 16, data) | none => (r.va, r.size.bytes, leValue (r.bytes.take 8))
      ∃ t, exec (.deferredRefusal r.id) s = .next t ∧ t.reqs = s.reqs.filter (fun q => q.id ≠ r.id) ∧ t.mem = s.mem ∧
        (t.thread tk).stat = .ret ∧
        (t.thread tk).deferred =
          some
            { kind := .page, sub := k.code, off := r.off, ord := r.ord, va := whole.1, defer := true, who := s.nextId, rid := r.id
              detail := 1 + 2 * det + 2 ^ 12 * whole.2.1, detail2 := whole.2.2 })

/-- R253 to R255, R327, R330, R333, R334: held notices, publishing, widening, wakes and the solitary token. -/
def Obligations.CoherenceEvents : Prop :=
  ∀ (s : State) (die : Nat), s.up die = true →
    (∀ n rest, (s.die die).heldIn = n :: rest → n ∉ rest → (s.onWay fun b => b = .held n) = false →
      ∃ t, exec (.heldNotice die) s = .next t ∧ (t.die die).heldIn = rest ∧
        (n.die, n.scope) ∈ (mgetD (t.die die).dir (n.vas * 2 ^ 57 + n.line / 128 * 128) {}).held ∧ t.mem = s.mem ∧ t.threads = s.threads) ∧
    (∀ id rest t1 r left, (s.die die).pubs = id :: rest →
      writeBackAll s die (((s.die die).l2.filter fun p => p.2.dirty ≠ 0 && p.2.covered).map (·.1)) = (t1, true) →
      t1.req? id = some r → r.phase = .widening left →
      ∃ t, exec (.publish die) s = .next t ∧ (t.die die).pubs = rest ∧
        t.req? id = some { r with phase := .widening (left.filter fun d => d ≠ die) } ∧ t.mem = t1.mem) ∧
    -- once every die has confirmed, and none has made another narrow release of the line, the home answers WIDEN
    (∀ r a t1, s.req? r.id = some r → r.phase = .widening [] → (s.onWay fun b => match b with | .confirm id _ => id = r.id | _ => false) = false →
      (widenCheck s r).1 = [] → serveReq s { r with phase := .sent } = (.done a, t1) → a ≠ .moved →
      exec (.publishConfirm r.id) s =
        .next (if r.home = r.die then t1.setReq { r with phase := .answered a true }
          else sendPacket (t1.setReq { r with phase := .back a true }) r.home r.die r.vas .rsp (.rsp r.id))) ∧
    (∀ r a t1, s.req? r.id = some r → r.phase = .answered a true → dropNonHome s r.die = (t1, true) →
      exec (.widenAnswer r.id) s = .next (t1.setReq { r with phase := .answered a false })) ∧
    -- a write to a line that a running attempt has read dooms the attempt; a sleeping thread wakes
    (∀ m rest line, (s.die die).wakes = m :: rest → m.all = false → m.key = .line line 0 →
      let tk := threadKey m.core m.slot
      (s.thread tk).tx ≠ [] → (s.thread tk).stat ≠ .asleep → (∃ l ∈ (s.thread tk).tx, ∃ v, .line line v ∈ l.reads) →
      (s.thread tk).doomed = false →
      ∃ t, exec (.conflictNotice die) s = .next t ∧ (t.die die).wakes = rest ∧ (t.thread tk).doomed = true ∧ (t.thread tk).doomWhy = 2) ∧
    (∀ m rest line, (s.die die).wakes = m :: rest → m.all = false → m.key = .line line 0 →
      let tk := threadKey m.core m.slot
      (s.thread tk).tx = [] →
      ∀ slot < 512, (∃ w ∈ (s.core m.core).wakes, (∃ v, w.key = .line line v) ∧ w.vec.testBit slot = true) →
        (s.thread (threadKey m.core slot)).stat = .asleep → (∀ x, s.twinOf x = none) →
        ∃ t, exec (.wakeMessage die) s = .next t ∧ (t.die die).wakes = rest ∧ (t.thread (threadKey m.core slot)).stat = .ret ∧
          (t.thread (threadKey m.core slot)).txReason = 3) ∧
    (∀ tk rest, (s.die die).token = none → (s.die die).tokenQ = tk :: rest →
      ∃ t, exec (.solitaryTokenGrant die) s = .next t ∧ (t.die die).token = some tk ∧ (t.die die).tokenQ = rest ∧
        t.thread tk = { s.thread tk with wantToken := false } ∧ (∀ x, x ≠ tk → t.thread x = s.thread x) ∧ t.mem = s.mem) ∧
    (∀ tk, (s.die die).token = some tk → (s.thread tk).tx ≠ [] → (s.thread tk).doomed = false →
      (s.thread tk).txCycles + 2 ^ 24 ≤ (s.core (coreOfThread tk)).cycles →
      ∃ t, exec (.tokenTimeout die) s = .next t ∧ (t.die die).token = none ∧
        t.thread tk = { s.thread tk with doomed := true, doomWhy := 7 } ∧ (∀ x, x ≠ tk → t.thread x = s.thread x) ∧ t.mem = s.mem)

/-- R55, R58, R59, R68, R83, R312: a thread becomes waiting at its next head, a bundle begins, a marionette block is compared. -/
def Obligations.ThreadEvents : Prop :=
  (∀ (s : State) (die core slot : Nat) (kn : Knot) (th : Thread),
    let tk := threadKey (coreKey die core) slot
    s.up die = true → mget s.threads tk = some th → th.stat = .ret → (s.groupOf tk).zeroing = 0 → (s.groupOf tk).stopping = false →
    (∀ r ∈ s.reqs, r.ofThread tk = false) → (s.quad (quadOfCore (coreOfThread tk))).table = [] → (s.groupOf tk).ballast = [] → th.cands = [] → th.deferred = none →
    th.wantToken = false → th.doomed = false → (th.bend = .go ∨ ∃ n, th.bend = .join n) → th.twin = false → th.glomer = false →
    (s.hdrOf tk).marionette = false → (s.flightOf tk).session = 15 →
    (s.core (coreOfThread tk)).knot? (s.flightKey (s.groupKey tk)) false th.next = some kn → th.next + 4 ≤ (s.flightOf tk).natSize → th.next % 4 = 0 →
    ∃ t, exec (.threadWaiting die core slot) s = .next t ∧ (t.thread tk).stat ∈ [TStat.wait, .joinWait, .overflow] ∧
      (t.thread tk).pend = [] ∧ (t.thread tk).next = th.next ∧ t.mem = s.mem ∧ t.reqs = s.reqs ∧
      -- the results of the block's memory words land
      (th.pend = [] → ∀ r, (t.thread tk).reg r = th.reg r) ∧
      ∀ p, th.pend = [p] → p.off ≤ 64 → ∀ r, (t.thread tk).reg r =
        ((landsAt p.dst r).bind fun i =>
          if (match mget th.wrote r with | some o => p.off < o | none => false) = true then none else p.vals[i]?).getD (th.reg r)) ∧
  (∀ (s t1 : State) (die core bslot : Nat) (c : Choice) (ws : List (Nat × Bool)) (place : Nat),
    let ck := coreKey die core
    let k := 2 * ck + bslot
    let t0 := takeBundle s k c
    s.up die = true → bslot < 2 → mget s.bundles k = none → (bslot = 1 → mget s.bundles (2 * ck) ≠ none) → selectEntry s ck = some c →
    -- the chosen threads leave their entry for a bundle of the slot, at the entry's head
    Selected s k c t0 ∧
    -- a block whose words are still to be fetched is waited for
    (fetchBlock t0 ck c.entry.flight c.entry.glomer c.entry.head 64 0 = (.hold, place, t1) → exec (.bundleSelect die core bslot) s = .next t0) ∧
    (fetchBlock t0 ck c.entry.flight c.entry.glomer c.entry.head 64 0 = (.got ws, place, t1) →
      blockFault { glomer := c.entry.glomer, nregs := (t1.flight c.entry.flight).hdr.nregs, njoin := (t1.flight c.entry.flight).hdr.njoin
                   nteth := (t1.flight c.entry.flight).hdr.nteth } [] 0 (ws.map (·.1)) = none →
      ∃ t, exec (.bundleSelect die core bslot) s = .next t ∧ t.focus = t1.focus ∧
        t.bundle k = { t0.bundle k with code := ws, fetching := false } ∧ (∀ j, j ≠ k → t.bundle j = t1.bundle j) ∧
        ∀ tk, t.thread tk =
          if tk ∈ t1.lanes k then
            { t1.thread tk with
              next := (c.entry.head + (if c.entry.glomer then 8 else 4) * ws.length) % 2 ^ 32, wgen := (t.thread tk).wgen }
          else t1.thread tk)) ∧
  ∀ (s : State) (die core slot l : Nat) (b : BlockRec) (bend : BlockEnd),
    let w := threadKey (coreKey die core) slot
    s.up die = true → s.leaderOf w = some l → l ≠ w → (s.thread w).stat = .ret → (s.thread l).compared < (s.thread w).blockNo →
    leaderBlock (s.thread l) (s.thread w).blockNo = some (b, bend) →
    (blockDiff b bend (s.thread w) = 0 → scratchWaits s l (s.thread w).blockNo = false →
      ∃ t, exec (.marionetteCompare die core slot) s = .next t ∧ (t.thread l).compared = (s.thread w).blockNo) ∧
    (blockDiff b bend (s.thread w) ≠ 0 → (s.hdrOf l).replay = false → (s.thread l).tx = [] →
      ∃ t, exec (.marionetteCompare die core slot) s = .next t ∧ (t.thread l).stat = .parked ∧ (t.thread w).stat = .parked ∧
        (t.thread l).park = some { kind := .marionette, sub := blockDiff b bend (s.thread w), ord := (s.thread w).ord })

/-- R66, R405, R406, R410: a thread outside transactions whose block has found one trap parks at the block's head, with the registers it
had there, and its trap record waits for the trap ring. That ROUND and FTZ return to their values at the head is the model's reading (log
9). -/
def Obligations.TakingATrap : Prop :=
  ∀ (s : State) (die core slot : Nat) (th : Thread) (ti : TrapInfo),
    let tk := threadKey (coreKey die core) slot
    let f := s.flightOf tk
    s.up die = true → core < 128 → slot < 512 → mget s.threads tk = some th → th.stat = .ret → th.cands = [ti] → ti.defer = false → th.deferred = none → th.owed = [] →
    th.tx = [] → th.bend = .go → th.twin = false → (s.groupOf tk).zeroing = 0 → f.hdr.marionette = false → f.hdr.replay = false →
    (∀ r ∈ s.reqs, r.ofThread tk = false) → (s.quad (quadOfCore (coreOfThread tk))).table = [] →
    ∃ t, exec (.threadWaiting die core slot) s = .next t ∧
      t.thread tk =
        { th with
          stat := .parked, was := none, park := some ti, parkSeq := none, parkId := s.nextId, parkKey := tk, resumeAt := th.head, next := th.head
          regs := th.headRegs, rnd := th.headRnd, ftz := th.headFtz, viaRet := th.headRet, cands := [], deferred := none, pend := []
          stores := [], sends := [], first := s.nextId, folded := true, blockNo := th.blockNo - 1, sEnd := false, wantToken := false
          ahead := th.here, relSig := th.headSig, compared := min th.compared (th.blockNo - 1)
          done := th.done.filter fun b => b.no < th.blockNo
          bend := (match th.wgen with | some p => .join p.1 | none => .go), jgen := th.wgen.map (·.2) } ∧
      (∀ x, x ≠ tk → t.thread x = s.thread x) ∧ t.mem = s.mem ∧ t.reqs = s.reqs ∧
      (t.die die).traps = (s.die die).traps ++
        [{ thread := some s.nextId, who := ti.who
           words :=
             [ti.kind.code + 2 ^ 8 * ti.sub + 2 ^ 16 * th.glomer.toNat + 2 ^ 32 * ti.ord,
              ti.off % 64 + 2 ^ 16 * slot + 2 ^ 25 * core + 2 ^ 32 * ti.ord,
              s.wid tk, ti.va % 2 ^ 57, ti.detail, ti.detail2, f.die * 2 ^ 21 + f.seq % 2 ^ 21] }]

/-! ### Launching and trains (R34, R37 to R47, R305 to R311, R413) -/

namespace Sys2Proof.Claims

/-- A flight has been launched by a die: it has the die's next number and its trains exist. -/
def Launched (s t : State) (die : Nat) (f : Flight) : Prop :=
  let seq := (s.die die).flightSeq
  let fk := die * 2 ^ 21 + seq % 2 ^ 21
  (t.die die).flightSeq = seq + 1 ∧ (t.flight fk).hdr = f.hdr ∧ (t.flight fk).vas = f.vas ∧ (t.flight fk).die = f.die ∧ (t.flight fk).seq = seq ∧
    ∀ T < f.hdr.e3 * f.hdr.e4 * f.hdr.e5, (mget t.trains (fk * 2 ^ 32 + T)).isSome = true ∧
      (t.train (fk * 2 ^ 32 + T)).flight = fk ∧ (t.train (fk * 2 ^ 32 + T)).t = T ∧ (t.train (fk * 2 ^ 32 + T)).prio = f.hdr.prio

/-- A notice for a die's own kernel (R384). -/
def noticeOf (die cause a b c : Nat) : Msg := { w0 := 32 + 2 ^ 28 * die, w1 := cause, w2 := a, w3 := b, w4 := c }

/-- A registered queue that the dispatcher may look at now: its doorbell has been read with this value (R37, R307). -/
structure Looks (s : State) (die i : Nat) (q : Queue) (t1 t2 : State) (bell : Nat) : Prop where
  queue : mget (s.die die).queues i = some q
  up : s.up die = true
  running : q.stat = 0 ∧ q.wait = 0
  room : (s.pendingOn die).length < 256
  turn : isTurn s die i q = true
  fresh : (publishFor s die q.vas q.bell).map (fun t => dropNonHome t die) = some (t1, true)
  read : ∃ bs, agentRead t1 die q.vas q.bell 8 .ctrRead = (.done (.performed bs), t2) ∧ leValue bs = bell

end Sys2Proof.Claims

/-- R37, R39, R40, R41, R42, R305: the dispatcher takes headers from queues and from LAUNCH, halts an overrun queue, and trains arrive.
The order of a header's checks beyond R40, and what is checked of a code object, are the model's reading (log 64). -/
def Obligations.LaunchEvents : Prop :=
  (∀ (s t1 t2 : State) (die i bell : Nat) (q : Queue), Looks s die i q t1 t2 bell →
    (q.taken < bell → 2 ^ q.lslots < bell - q.taken →
      ∃ t, exec (.headerTake die i) s = .next t ∧
        mget (t.die die).queues i = some { q with stat := 1, lastref := 6 } ∧
        (t.die die).notes = (t2.die die).notes ++ [noticeOf die 2 q.desc 0 0] ∧ t.flights = t2.flights ∧ t.trains = t2.trains) ∧
    (∀ t3 t4 t5 hd r, q.taken < bell → bell - q.taken ≤ 2 ^ q.lslots →
      agentRead t2 die q.vas (q.hbase + 128 * (q.taken % 2 ^ q.lslots)) 128 .read = (.done (.performed hd), t3) →
      checkHeader t3 die q.vas ((List.range 16).map fun j => leValue ((hd.drop (8 * j)).take 8)) q.pceil q.fail = (r, t4) →
      releaseWide t4 die = (t5, true) →
      (∀ f, r = .ok f →
        ∃ t, exec (.headerTake die i) s = .next t ∧ mget (t.die die).queues i = some { q with taken := q.taken + 1, fail := false } ∧
          Launched t5 t die f) ∧
      (∀ c, r = .refuse c → leValue ((hd.drop 72).take 8) = 0 →
        ∃ t, exec (.headerTake die i) s = .next t ∧
          mget (t.die die).queues i =
            some { q with taken := q.taken + 1, fail := false, refused := (q.refused + 1) % 2 ^ 64, lastref := c } ∧
          (t.die die).notes = (t5.die die).notes ++ [noticeOf die 3 (q.desc / 64 * 2 ^ 16 + c * 256) q.taken 0] ∧
          t.flights = t5.flights ∧ t.trains = t5.trains))) ∧
  (∀ (s t1 : State) (die : Nat) (x : Intake) (rest : List Intake) (r : Checked),
    s.up die = true → (s.die die).intake = x :: rest → x.wait = 0 → x.words ≠ [] →
    checkHeader s die x.vas x.words x.prio x.fail = (r, t1) →
    (∀ f, r = .ok f → ∃ t, exec (.launchIntake die) s = .next t ∧ (t.die die).intake = rest ∧ Launched t1 t die f) ∧
    (∀ c, r = .refuse c → x.words[9]? = some 0 →
      ∃ t, exec (.launchIntake die) s = .next t ∧ (t.die die).intake = rest ∧
        (t.die die).notes = (t1.die die).notes ++ [noticeOf die 3 (c * 256 + 1) x.addr x.flight] ∧
        t.flights = t1.flights ∧ t.trains = t1.trains)) ∧
  (∀ (s : State) (die k : Nat) (tr : Train), s.up die = true → (∀ p ∈ s.trains, p.2.from_ = die → p.2.stat ≠ .sending) →
    s.trains.find? (fun p => p.2.die = die && p.2.stat = .travelling) = some (k, tr) → mget s.trains k = some tr →
    (s.pendingOn die).length < 256 →
    ∃ t, exec (.trainArrival die) s = .next t ∧ t.train k = { tr with stat := .pending, age := (s.die die).ages } ∧
      (t.die die).ages = (s.die die).ages + 1 ∧ (∀ j, j ≠ k → t.train j = s.train j) ∧ t.mem = s.mem ∧ t.threads = s.threads)

/-- R34, R41, R44 to R47, R308 to R311: admission, scratch zeroing, pre-emption, saved contexts, and the ends of trains and flights.
That scratch holds zeros from its admission on, which cores are taken, and what a train's end waits for, are the model's choices (logs 19, 51, 115). -/
def Obligations.TrainEvents : Prop :=
  (∀ (s : State) (die k : Nat) (cores : List Nat), s.up die = true → headTrain s die = some k → coresFor s die k [] = some cores →
    mget s.saved k = none →
    ∃ t, exec (.trainAdmit die) s = .next t ∧ (t.train k).stat = .resident ∧ (t.train k).admitted = (s.die die).admissions ∧
      (t.train k).groups.length = cores.length ∧ t.flights = s.flights ∧
      -- the scratch pages of its groups hold zeros, all other memory what it held
      ∀ a, Memory.get t.mem a =
        if ∃ gk ∈ (t.train k).groups, scrKey (coreOfGroup gk) 0 ≤ a ∧ a < scrKey (coreOfGroup gk) 0 + 196608 ∧
            (a - scrKey (coreOfGroup gk) 0) / 4096 ∈ (t.group gk).pages then 0
        else Memory.get s.mem a) ∧
  (∀ (s : State) (die core gslot : Nat) (g : Group),
    let ck := coreKey die core
    let gk := groupKeyOf ck gslot
    mget s.groups gk = some g → g.zeroing ≠ 0 →
    ∃ t, exec (.scratchZeroingDone die core gslot) s = .next t ∧ { t with groups := [] } = { s with groups := [] } ∧
      t.group gk = { g with zeroing := 0 } ∧ ∀ j, j ≠ gk → t.group j = s.group j) ∧
  (∀ (s : State) (die h : Nat) (ks : List Nat), s.up die = true → (s.die die).poolBase ≠ 0 →
    (∀ p ∈ s.trains, p.2.die = die → p.2.stat ≠ .stopping ∧ p.2.stat ≠ .saving) → headTrain s die = some h → coresFor s die h [] = none →
    pickStops s die h (stopCandidates s die h) (poolRoom s die) [] = some ks →
    ∃ t, exec (.preemptStart die) s = .next t ∧ (∀ k ∈ ks, (t.train k).stat = .stopping ∧ (t.train k).forPrio = true) ∧
      (∀ k, k ∉ ks → t.train k = s.train k) ∧ t.mem = s.mem ∧ t.flights = s.flights) ∧
  (∀ (s : State) (die k : Nat) (tr : Train), s.up die = true → mget s.trains k = some tr → tr.die = die → tr.stat = .resident →
    ∃ t, exec (.dieKernelPreempt die k) s = .next t ∧ t.train k = { tr with stat := .stopping, forPrio := false, noSave := false } ∧
      (∀ j, j ≠ k → t.train j = s.train j) ∧ (∀ gk ∈ tr.groups, (s.group gk).ended = false → (t.group gk).stopping = true) ∧
      t.mem = s.mem ∧ t.flights = s.flights) ∧
  (∀ (s : State) (die k : Nat) (tr : Train),
    let live := tr.groups.filter fun gk => !(s.group gk).ended
    let t1 := live.foldl stopGroup s
    s.up die = true → mget s.trains k = some tr → tr.die = die → tr.stat = .stopping → tr.noSave = false → live ≠ [] →
    (∀ gk ∈ live, groupStill t1 gk = true) → (∀ gk ∈ tr.groups, groupQuiet t1 gk = true) →
    ∃ t, exec (.preemptStopComplete die k) s = .next t ∧ t.train k = { tr with stat := .saving } ∧ (∀ j, j ≠ k → t.train j = s.train j) ∧
      t.mem = s.mem) ∧
  (∀ (s : State) (die k : Nat) (tr : Train), s.up die = true → mget s.trains k = some tr → tr.die = die → tr.stat = .saving →
    tr.noSave = false →
    ∃ t, exec (.contextSaveComplete die k) s = .next t ∧ (t.train k).stat = .pending ∧ (t.train k).saved = true ∧ (t.train k).groups = [] ∧
      (t.train k).age = tr.age ∧ (t.train k).preempts = tr.preempts + tr.forPrio.toNat ∧
      mget t.saved k = some (tr.groups.map (contextOf s)) ∧ (∀ gk ∈ tr.groups, mget t.groups gk = none) ∧ t.mem = s.mem) ∧
  (∀ (s t1 : State) (die k : Nat) (tr : Train), s.up die = true → mget s.trains k = some tr → tr.die = die → tr.stat = .resident →
    (∀ gk ∈ tr.groups, groupDone s gk = true) → (∀ x ∈ (s.die die).exits, x.train ≠ k) → releaseWide s die = (t1, true) →
    let to_ := t1.dispatcherOf tr.flight
    ∃ t, exec (.trainEnd die k) s = .next t ∧ (t.train k).stat = .ended ∧ (∀ gk ∈ tr.groups, mget t.groups gk = none) ∧
      (t.die to_).ends = (t1.die to_).ends ++ [tr.flight] ∧ t.mem = t1.mem) ∧
  ∀ (s : State) (die fk : Nat) (rest : List Nat), s.up die = true → (s.die die).ends = fk :: rest → (s.flight fk).left = 1 →
    (s.flight fk).hdr.done = 0 →
    ∃ t, exec (.trainEndReport die) s = .next t ∧ (t.die die).ends = rest ∧ t.flight fk = { s.flight fk with left := 0, done := true } ∧
      (∀ d line, fk ∉ mgetD (t.die d).pins line []) ∧ t.mem = s.mem ∧ t.threads = s.threads

/-! ### The matrix engine, the streamers and the combining switches (R138 to R143, R207, R210 to R228, R284 to R300) -/

namespace Sys2Proof.Claims

/-- The number of a quad. -/
def quadAt (die quad : Nat) : Nat := die * 32 + quad

/-- The trap of an operation's threads: at the head of the block for those that wait for it (R207), else at their next head (R228). -/
def EntryTraps (s t : State) (e : MEntry) (ti : TrapInfo) : Prop :=
  ∀ l ∈ e.lanes,
    let tk := threadKey e.core l
    let old := s.thread tk
    (mget s.threads tk).isSome = true → e.lanes.Nodup →
      if (e.op = .mmul ∨ e.op = .mstat ∨ e.op = .mstream) then
        old.first ≤ e.reqId → (t.thread tk).cands = { ti with off := e.off, ord := e.ord, asked := true } :: old.cands
      else old.deferred = none → old.owed = [] → (t.thread tk).deferred = some { ti with off := e.off, ord := e.ord, defer := true }

/-- The entry is gone from its table. -/
def EntryGone (t : State) (qk id : Nat) : Prop := ∀ x ∈ (t.quad qk).table, x.id ≠ id

end Sys2Proof.Claims

/-- R138 to R141: residues stand for integers of half their product on either side; sums of residues are residues of sums. -/
def Sys2Proof.Claims.Residues : Prop :=
  (∀ v : Int, -534775296 ≤ v → v < 534775296 → (residueOf v).val = v ∧ (residueOf v).ok = true) ∧
  (∀ a b : Int, (residueOf a).add (residueOf b) = residueOf (a + b)) ∧
  ∀ v : Int, -534775296 ≤ v → v < 534775296 → isPoison (res32Word (residueOf v)) = false ∧ ofRes32 (res32Word (residueOf v)) = residueOf v

/-- R207, R210 to R213, R216, R217, R219, R222, R223, R228: the events of a quad's matrix engine. -/
def Sys2Proof.Claims.MatrixEvents : Prop :=
  ∀ (s : State) (die quad : Nat) (e : MEntry),
    let qk := quadAt die quad
    (s.quad qk).entry? e.id = some e →
    -- an entry at the front of its group queue; one put back goes on with the scales that it has
    (∀ n t1, e.stat = .posted → s.up die = true → atFront s qk e = true → e.returned = true → runPass s qk e = (n, .ok (), t1) →
      ∃ t, exec (.matrixEntryFront die quad e.id) s = .next t ∧
        (t.quad qk).entry? e.id = some { e with stat := .ready, returned := false } ∧ t.threads = s.threads ∧ t.mem = s.mem) ∧
    (e.stat = .posted → s.up die = true → atFront s qk e = true → e.returned = false →
      (frontTrap s e = none → e.op ≠ .mmul → e.op ≠ .mstream →
        ∃ t, exec (.matrixEntryFront die quad e.id) s = .next t ∧ (t.quad qk).entry? e.id = some { e with stat := .perform } ∧
          t.threads = s.threads ∧ t.mem = s.mem) ∧
      (∀ sa sb t1, frontTrap s e = none → (e.op = .mmul ∧ e.done < e.steps ∨ e.op = .mstream ∧ e.done < e.nrow) →
        readScales s e = (.ok (sa, sb), t1) → latchTrap t1 e sa sb = none →
        ∃ t, exec (.matrixEntryFront die quad e.id) s = .next t ∧
          ((t1.quad qk).entry? e.id = some e → (t.quad qk).entry? e.id = some { e with stat := .ready, sa := sa, sb := sb }) ∧
          t.threads = t1.threads ∧ t.mem = t1.mem) ∧
      ∀ ti, frontTrap s e = some ti →
        ∃ t, exec (.matrixEntryFront die quad e.id) s = .next t ∧ EntryGone t qk e.id ∧ EntryTraps s t e ti ∧ t.mem = s.mem) ∧
    -- the arbiter grants an entry that is not paired
    (s.up die = true → (∀ x ∈ (s.quad qk).table, x.stat ≠ .stream ∧ x.stat ≠ .hold) → pickEntry (s.quad qk) = some e → e.pair = false →
      ∃ t, exec (.arbiterGrant die quad) s = .next t ∧ (t.quad qk).entry? e.id = some { e with passed := 0, stat := .stream } ∧
        (t.quad qk).planeA = some e.id ∧
        (∀ x ∈ (s.quad qk).table, x.id ≠ e.id → x.stat = .ready → { x with passed := min (x.passed + 1) 16 } ∈ (t.quad qk).table) ∧
        t.threads = s.threads ∧ t.mem = s.mem) ∧
    ((s.quad qk).table.find? (fun x => x.stat = .hold) = some e →
      ∃ t, exec (.pairedHoldTimeout die quad) s = .next t ∧
        (t.quad qk).table = { e with stat := .ready, passed := 16, pair := false } :: (s.quad qk).table.filter (fun x => x.id ≠ e.id) ∧
        t.threads = s.threads ∧ t.mem = s.mem) ∧
    -- a pass that has been performed ends its operation, or is followed by the next k-step
    (∀ n t1, (s.quad qk).table.find? (fun x => x.stat = .stream) = some e → runPass s qk e = (n, .ok (), t1) →
      (e.op = .mmul → e.done + 1 < e.steps → (s.group e.group).stopping = false → (t1.quad qk).entry? e.id = some e →
        ∃ t, exec (.passEnd die quad) s = .next t ∧ (t.quad qk).entry? e.id = some { e with done := e.done + 1, stat := .ready } ∧
          (t.quad qk).acc = (t1.quad qk).acc ∧ t.threads = t1.threads) ∧
      (e.op = .mstream ∨ e.op = .mmul ∧ e.steps ≤ e.done + 1 →
        ∃ t, exec (.passEnd die quad) s = .next t ∧ EntryGone t qk e.id ∧ (t.quad qk).acc = (t1.quad qk).acc ∧
          ∀ l ∈ e.lanes, ∀ r, e.dst = .reg r → (mget t1.threads (threadKey e.core l)).isSome = true →
            (t1.thread (threadKey e.core l)).first ≤ e.reqId → 
            { off := e.off, dst := .reg (r + 1), vals := [BitVec.ofNat 32 (e.prog.toNat % 2 ^ 21)] } ∈
              (t.thread (threadKey e.core l)).pend)) ∧
    -- an operand fetch that meets a fault stops its operation, one that is not answered puts it back
    (∀ n t1, e.stat = .stream → runPass s qk e = (n, .hold, t1) → (t1.quad qk).entry? e.id = some e →
      ∃ t, exec (.operandFetchStop die quad e.id) s = .next t ∧
        (t.quad qk).entry? e.id =
          some { e with done := if e.op = .mstream then n else e.done, stat := .posted, returned := true } ∧ t.threads = t1.threads) ∧
    (∀ n k va det t1, e.stat = .stream → e.op = .mmul → runPass s qk e = (n, .fault k va false det, t1) →
      ∃ t, exec (.operandFetchStop die quad e.id) s = .next t ∧ EntryGone t qk e.id ∧
        EntryTraps t1 t e { kind := .page, sub := k.code, va := va, detail := 2 * det, who := t1.nextId }) ∧
    (∀ el t1 sb t2, e.stat = .perform → e.op = .mstat → readSlice s e.group e.t1 (e.kidx * e.depth) e.depth e.jb e.id = (.ok el, t1) →
      readColScales t1 e.group e.t1 e.jb (e.kidx * e.depth) e.id = (.ok sb, t2) →
      ∃ t, exec (.mstatPerform die quad e.id) s = .next t ∧ EntryGone t qk e.id ∧
        (t.group e.group).shadow =
          some { elems := el, scales := sb, image := e.t1, k0 := e.kidx * e.depth, depth := e.depth, jb := e.jb } ∧
        (t.group e.group).active = (t2.group e.group).active ∧ t.mem = t2.mem) ∧
    (e.stat = .perform → e.op = .mdrain → e.done = 0 →
      (∀ n t1, badElem (s.quad qk) e (bankOf s e) = none → drainRows qk e e.nrow s = (n, .ok (), t1) →
        ∃ t, exec (.mdrainPerform die quad e.id) s = .next t ∧ EntryGone t qk e.id ∧ t.mem = t1.mem ∧ t.threads = t1.threads) ∧
      (∀ row col x, badElem (s.quad qk) e (bankOf s e) = some (row, col, x) →
        ∃ t, exec (.mdrainPerform die quad e.id) s = .next t ∧ EntryGone t qk e.id ∧ t.mem = s.mem ∧
          EntryTraps s t e
            { kind := .residue, sub := if x.r0 = 0 && x.r1 = 0 && x.r2 = 0 && x.chk = 1 then 2 else 1
              detail := e.bank + 2 ^ 8 * row + 2 ^ 16 * col })) ∧
    (e.stat = .perform → e.op = .mzero →
      ∃ t, exec (.mzeroPerform die quad e.id) s = .next t ∧ EntryGone t qk e.id ∧ t.threads = s.threads ∧ t.mem = s.mem ∧
        ∀ b < 4, ∀ row < 256, ∀ col < 64,
          let cell (q : Quad) : Residue := mgetD q.acc (b * 16384 + row * 64 + col) {}
          let cnt (q : Quad) : Nat := mgetD q.count (b * 256 + row) 0
          if b = bankOf s e ∧ e.arow ≤ row ∧ row < e.arow + e.nrow then cell (t.quad qk) = {} ∧ cnt (t.quad qk) = 0
          else cell (t.quad qk) = cell (s.quad qk) ∧ cnt (t.quad qk) = cnt (s.quad qk))

/-- R282, R284 to R288, R293, R296 to R300: the events of a quad's streamer and of a combining switch. -/
def Obligations.StreamEvents : Prop :=
  (∀ (s : State) (die quad : Nat) (e : SEntry),
    let qk := quadAt die quad
    (s.up die = true → (∀ x ∈ (s.quad qk).queue, x.stat ≠ .moving) → (s.quad qk).queue.find? (mayStart s qk) = some e →
      ∃ t, exec (.streamerEntryStart die quad) s = .next t ∧
        (t.quad qk).queue = (s.quad qk).queue.map (fun x => if x.id = e.id then { e with stat := .moving } else x) ∧
        t.threads = s.threads ∧ t.mem = s.mem) ∧
    ((s.quad qk).queue.find? (fun x => x.stat = .moving) = some e →
      -- a granule moves whole; after the last one the entry is written
      (∀ e1 t1, e.kind ≠ .combine → moveGranule s e = (.ok e1, t1) →
        ∃ t, exec (.copyGranule die quad .good) s = .next t ∧
          (t.quad qk).queue = (t1.quad qk).queue.map (fun x =>
            if x.id = e.id then
              { e1 with granule := e1.granule + 1, crcBad := false
                        stat := if copyRows e1 * copyCols e1 ≤ firstElem e1 (e1.granule + 1) then .written else e1.stat }
            else x) ∧
          t.mem = t1.mem ∧ t.threads = t1.threads) ∧
      (e.kind ≠ .combine → ∃ t, exec (.copyGranule die quad .once) s = .next t ∧
        (t.quad qk).queue = (s.quad qk).queue.map (fun x => if x.id = e.id then { e with crcBad := true } else x) ∧ t.mem = s.mem) ∧
      -- a second CRC mismatch, and a fault that no kernel mends, fill the reel's slot as failed
      (∀ r, e.byCtr = false → s.reel? e.group (e.sync % 2 ^ 18) = some r → r.watch = [] →
        ∃ t, exec (.copyFault die quad .twice) s = .next t ∧ (∀ x ∈ (t.quad qk).queue, x.id ≠ e.id) ∧
          t.reel? e.group (e.sync % 2 ^ 18) =
            some { r with
              widx := (r.widx + 1) % 2 ^ 32, failed := setBit r.failed (e.slot % r.nslot), ecode := 5, eslot := e.slot % r.nslot
              ecount := min (r.ecount + 1) 255, ver := r.ver + 1 }) ∧
      (∀ k va det wr, (k = .miss ∨ k = .addr) → tryGranule s qk e = .fault k va wr det →
        ∃ t, exec (.copyFault die quad .good) s = .next t ∧
          (t.quad qk).queue =
            (s.quad qk).queue.map (fun x => if x.id = e.id then { e with stat := .faulted, fault := some 1 } else x) ∧
          t.mem = s.mem)) ∧
    ((s.quad qk).queue.find? (fun x => x.stat = .written) = some e →
      (∀ n t0 t1 bs t2, e.byCtr = true → commitCopy s e = (.ok n, t0) → releaseWide t0 die = (t1, true) →
        agentCtrAdd t1 die (t1.flight (t1.flightKey e.group)).vas e.sync 1 = (.done (.performed bs), t2) →
        ∃ t, exec (.copySync die quad) s = .next t ∧ (t.quad qk).queue = (t2.quad qk).queue.filter (fun x => x.id ≠ e.id) ∧ t.mem = t2.mem) ∧
      (∀ r, e.byCtr = false → s.reel? e.group (e.sync % 2 ^ 18) = some r → r.watch = [] →
        ∃ t, exec (.copySync die quad) s = .next t ∧ (t.quad qk).queue = (s.quad qk).queue.filter (fun x => x.id ≠ e.id) ∧
          t.reel? e.group (e.sync % 2 ^ 18) = some { r with widx := (r.widx + 1) % 2 ^ 32, ver := r.ver + 1 })) ∧
    ((s.quad qk).queue.find? (fun x => x.stat = .refused) = some e → ∀ io, switchOf s e = .ok io → s.isThere io = true →
      let c : Contrib :=
        { vas := (s.flight (s.flightKey e.group)).vas, entry := e, quad := qk, rows := copyRows e, cols := copyCols e, data := e.data }
      ∃ t, exec (.combineResend die quad) s = .next t ∧
        (t.quad qk).queue = (s.quad qk).queue.map (fun x => if x.id = e.id then { e with stat := .sent } else x) ∧
        Sent t io (.contrib c) (c ∈ (t.die io).contribs) ∧ t.mem = s.mem)) ∧
  -- a switch begins an entry for a new key
  (∀ (s : State) (io : Nat) (c : Contrib) (rest : List Contrib), s.up io = true → (s.die io).contribs = c :: rest →
    (∀ x ∈ (s.die io).combines, ¬(x.vas = c.vas ∧ x.key = c.entry.key)) → combineUse (s.die io) < 4096 →
    ncon c.entry.con ≠ 1 → tFmt c.entry.dst ≠ 3 →
    ∃ t, exec (.combineContribution io) s = .next t ∧ (t.die io).contribs = rest ∧
      (t.die io).combines = (s.die io).combines ++
        [{ vas := c.vas, key := c.entry.key, dst := c.entry.dst, c1 := c.entry.c1, rows := c.rows, cols := c.cols, con := c.entry.con
           sum := c.data, next := 1, who := [c.entry.id] }] ∧
      (∀ x ∈ (t.quad c.quad).queue, x.id ≠ c.entry.id) ∧
      { id := c.entry.id, group := c.entry.group, seq := c.entry.seq, vas := c.vas, ctr := c.entry.sync, ready := false } ∈
        (t.die (dieOfQuad c.quad)).combAdds ∧ t.mem = s.mem) ∧
  -- an entry that is complete, or that no contribution has reached for too long, is written and freed
  (∀ (s : State) (io vas key : Nat) (e : Combine) (vs : List Nat) (t1 : State), s.up io = true →
    (s.die io).combines.find? (fun x => x.vas = vas && x.key.toNat = key) = some e → e.fault = 0 →
    (tFmt e.dst ≠ 3 ∨ e.next = ncon e.con) → engMap (combineWord io e) e.sum.zipIdx s = (.ok vs, t1) →
    ∃ t, exec (.combineEntryTimeout io vas key) s = .next t ∧
      (∀ x ∈ (t.die io).combines, ¬(x.vas = e.vas ∧ x.key = e.key)) ∧ t.mem = t1.mem ∧
      ∀ d, ∀ a ∈ (t.die d).combAdds, a.id ∈ e.who → a.ready = true) ∧
  -- the counter add of a COMBINE is a DOMAIN release of its die
  ∀ (s t0 t1 : State) (die quad : Nat) (a : CombAdd) (bs : List Byte),
    (s.die die).combAdds.find? (fun a => a.ready && a.fault.isNone && quadOfCore (coreOfGroup a.group) = die * 32 + quad
      && !((s.die die).combAdds.any fun b => b.group = a.group && b.seq < a.seq)) = some a →
    releaseWide s die = (t0, true) → agentCtrAdd t0 die a.vas a.ctr 1 = (.done (.performed bs), t1) →
    ∃ t, exec (.combineCounterAdd die quad) s = .next t ∧
      (t.die die).combAdds = (t1.die die).combAdds.filter (fun b => b.id ≠ a.id) ∧ t.mem = t1.mem

/-- R138 to R141, R207 to R228: residues, and the events of a matrix engine. That a trap of MDRAIN is reported to every lane of the word
is the model's reading (log 57). -/
def Obligations.ResiduesAndMatrixEvents : Prop := Sys2Proof.Claims.Residues ∧ Sys2Proof.Claims.MatrixEvents

/-! ### The rings of a die kernel (R345, R370, R371, R406 to R409, R413, R424, R440, R443, R444) -/

namespace Sys2Proof.Claims

/-- Nothing that runs has changed: threads, groups, flights, trains, requests and host memory stand. -/
def Kept (s t : State) : Prop :=
  t.threads = s.threads ∧ t.groups = s.groups ∧ t.flights = s.flights ∧ t.trains = s.trains ∧ t.reqs = s.reqs ∧ t.hostMem = s.hostMem

/-- The bytes of 64-bit words in the memory of a die, from a physical address on. -/
def setWords (s : State) (die pa : Nat) (ws : List Nat) : State :=
  ws.zipIdx.foldl (fun s p => s.setRam die (pa + 8 * p.2) 8 p.1) s

/-- A die's next command, of an OP with a core, a slot and a SEQ; t has taken it from the ring (R409). -/
structure Takes (s t : State) (die op core slot seq : Nat) : Prop where
  up : s.up die = true
  runs : (s.die die).ckpt = none
  pool : (s.die die).poolBase ≠ 0
  header : s.poolGood die = true
  some : s.pool die 0x18 4 ≠ s.pool die 0x14 4
  word : s.pool die (0x400 + 16 * (s.pool die 0x14 4 % 64)) 8 = op + 2 ^ 16 * core + 2 ^ 23 * slot
  seq : s.pool die (0x408 + 16 * (s.pool die 0x14 4 % 64)) 8 = seq
  small : 1 ≤ op ∧ op ≤ 7 ∧ core < 128 ∧ slot < 512
  taken : t = s.setRam die ((s.die die).poolBase.toNat + 0x14) 4 ((s.pool die 0x14 4 + 1) % 2 ^ 32)

/-- The one thread that a command names: parked, with the record of this SEQ. -/
def Named (s : State) (die core slot seq tk : Nat) : Prop :=
  (mget s.threads tk).isSome = true ∧ s.twinOf tk = none ∧ ∀ p ∈ s.threads,
    (p.2.stat = .parked ∧ p.2.parkSeq = some seq ∧ p.2.parkKey = threadKey (coreKey die core) slot ∧ dieOfThread p.1 = die ↔ p.1 = tk)

/-- No parked thread, saved ones included, has the record of this SEQ of a core. -/
def Unreported (s : State) (ck seq : Nat) : Prop :=
  (∀ p ∈ s.threads, p.2.reported ck seq = false) ∧ ∀ p ∈ s.saved, ∀ g ∈ p.2, ∀ q ∈ g.threads, q.2.reported ck seq = false

/-- The resident group that KILL group and FAULT flight name: that of the one thread parked with the record of this SEQ of the core; where there is
none, the group at the thread slot. -/
def NamesGroup (s : State) (die core slot seq gk : Nat) : Prop :=
  let ck := coreKey die core
  (∃ tk, (mget s.threads tk).isSome = true ∧ (∀ p ∈ s.threads, (p.2.reported ck seq = true ↔ p.1 = tk)) ∧ gk = s.groupKey tk) ∨
    Unreported s ck seq ∧ ∃ w, mget s.waves (ck * 8 + slot / 64) = some w ∧ gk = groupKeyOf ck w.gslot

/-- A fault that waits for its entry alone: no requester's fate hangs on it (R288, R371, R401). -/
def FaultWait.onlyEntered (f : FaultWait) : Prop := f.src = .thread ∨ f.kind = .miss ∨ f.kind = .addr ∧ f.src = .streamer

/-- An exit record as it is written: VALID is set, and STALL15, the upper 48 bits of its word, counts the cycles that it waited for the exit ring
(R442, R443). -/
def exitAt (ws : List Nat) (w1 w15 waited : Nat) : List Nat :=
  (ws.set 1 (w1 + 2 ^ 32)).set 15 (w15 % 2 ^ 16 + 2 ^ 16 * min (w15 / 2 ^ 16 + waited) (2 ^ 48 - 1))

/-- What a fault-queue entry says beside its address (R370). -/
def entryWord (f : FaultWait) : Nat :=
  f.vas % 4096 + 2 ^ 12 * f.kind.code + 2 ^ 16 * f.src.code + 2 ^ 19 * f.wr.toNat + 2 ^ 20 * (f.core % 128) + 2 ^ 27 * f.slot + 2 ^ 36 * f.det

/-- An entry between head and tail is of the fault's VAS, page and kind (R371). -/
def MergesInto (d : Die) (f : FaultWait) (e : FaultEnt) : Prop :=
  e.vas = f.vas ∧ e.page = f.va / 4096 ∧ e.kind = f.kind ∧ count32 e.count d.fqHead.toNat < count32 d.fqTail.toNat d.fqHead.toNat

/-- The traps that report a fault learn the SEQ of its entry (R407). -/
def Learnt (s t : State) (who seq : Nat) : Prop :=
  ∀ tk, ∀ x ∈ (s.thread tk).cands,
    (if x.who = who then { x with detail := x.detail % 2 ^ 32 + 2 ^ 32 * (seq % 2 ^ 32), who := 0 } else x) ∈ (t.thread tk).cands

end Sys2Proof.Claims

/-- R370, R371, R407, R408, R443, R444: fault-queue entries, trap records and exit records. -/
def Obligations.KernelRings : Prop :=
  ∀ (s : State) (die : Nat), s.up die = true →
    let d := s.die die
    (∀ f rest, d.faults = f :: rest → 4 ≤ d.fqLog → d.fqLog ≤ 16 → count32 d.fqTail.toNat d.fqHead.toNat < 2 ^ d.fqLog →
      let a := d.fqBase.toNat + 32 * (d.fqTail.toNat % 2 ^ d.fqLog)
      ((∀ e ∈ d.fents, ¬MergesInto d f e) →
        ∃ t, exec (.faultQueueEntry die) s = .next t ∧
          (t.die die).faults = rest ∧ (t.die die).fqTail = d.fqTail + 1 ∧ (t.die die).fseq = d.fseq + 1 ∧
          (t.die die).cause = d.cause ||| 1 ∧ Learnt s t f.who (d.fseq + 1) ∧
          (FaultWait.onlyEntered f →
            t.mem = (setWords s die a [f.va % 2 ^ 57, entryWord f, 0, d.fseq + 1]).mem ∧ t.flights = s.flights ∧ t.trains = s.trains)) ∧
      (∀ e, e ∈ d.fents → MergesInto d f e → (∀ x ∈ d.fents, x ≠ e → ¬MergesInto d f x) →
        ∃ t, exec (.faultQueueEntry die) s = .next t ∧
          (FaultWait.onlyEntered f →
            t.mem = (s.setRam die (d.fqBase.toNat + 32 * (e.count % 2 ^ d.fqLog) + 0x10) 8 (min (e.merge + 1) (2 ^ 16 - 1))).mem) ∧
          (t.die die).faults = rest ∧ (t.die die).fqTail = d.fqTail ∧ Learnt s t f.who e.seq ∧
          { e with merge := min (e.merge + 1) (2 ^ 16 - 1), waiters := e.waiters ++ [f] } ∈ (t.die die).fents)) ∧
    (∀ (pre post : List TrapRec) (r : TrapRec),
      let n := s.pool die 0 8
      let head := s.pool die 8 4
      let tail := s.pool die 0x10 4
      d.traps = pre ++ r :: post → (∀ x ∈ pre, x.who ≠ 0) → r.who = 0 → d.poolBase ≠ 0 → s.poolGood die = true → 6 ≤ n → n ≤ 14 → count32 tail head < 2 ^ n →
      ∃ t, exec (.trapRecordWrite die) s = .next t ∧ (t.die die).traps = pre ++ post ∧ (t.die die).tseq = d.tseq + 1 ∧
        t.mem = ((setWords s die (d.poolBase.toNat + 0x1000 + 64 * (tail % 2 ^ n)) (r.words ++ [d.tseq + 1])).setRam die
          (d.poolBase.toNat + 0x10) 4 ((tail + 1) % 2 ^ 32)).mem ∧
        t.flights = s.flights ∧ t.trains = s.trains ∧
        ∀ tk th, mget s.threads tk = some th →
          t.thread tk = if r.thread = some th.parkId ∧ th.stat = .parked then { th with parkSeq := some (d.tseq + 1) } else th) ∧
    ∀ x rest w1 w15,
      let a := d.poolBase.toNat + 0x800 + 128 * (d.exitNext % 16)
      d.exits = x :: rest → x.session = none → d.poolBase ≠ 0 → (s.ram die (a + 8) 8).testBit 32 = false → x.words[1]? = some w1 →
      x.words[15]? = some w15 →
      ∃ t, exec (.exitRecordWrite die) s = .next t ∧ (t.die die).exits = rest ∧ (t.die die).exitNext = d.exitNext + 1 ∧
        t.mem = (setWords s die a (exitAt x.words w1 w15 ((s.core x.core).cycles - x.since))).mem ∧ Kept s t

/-- R311, R345, R371, R409, R413, R424, R440: what the commands of a die kernel do. How a killed thread leaves, and what FAILFAULT means
for a queue, are the model's readings (logs 47, 65). -/
def Obligations.KernelCommands : Prop :=
  (∀ (s s1 : State) (die core slot seq tk : Nat), Takes s s1 die 1 core slot seq → Named s die core slot seq tk →
    let th := s.thread tk
    ∃ t, exec (.resume die) s = .next t ∧ t.mem = s1.mem ∧ (∀ x, x ≠ tk → t.thread x = s.thread x) ∧
      (t.thread tk).stat = .ret ∧ (t.thread tk).was = some .wait ∧ (t.thread tk).park = none ∧ (t.thread tk).parkSeq = none ∧
      (t.thread tk).next = th.resumeAt ∧
      (t.thread tk).first = s.nextId ∧ (∀ r, (t.thread tk).reg r = th.reg r) ∧ t.reqs = s.reqs ∧ t.flights = s.flights) ∧
  (∀ (s s1 : State) (die core slot seq tk : Nat) (g : Group), Takes s s1 die 2 core slot seq → Named s die core slot seq tk →
    mget s.groups (s.groupKey tk) = some g →
    ∃ t, exec (.killThread die) s = .next t ∧ t.mem = s1.mem ∧ (∀ x, x ≠ tk → t.thread x = s.thread x) ∧
      (t.thread tk).stat = .ret ∧ (t.thread tk).bend = .exit ∧ (t.thread tk).park = none ∧ (t.thread tk).pend = [] ∧
      (t.group (s.groupKey tk)).killed = true ∧ t.reqs = s.reqs ∧ t.flights = s.flights) ∧
  (∀ (s s1 : State) (die core slot seq gk : Nat), Takes s s1 die 3 core slot seq → NamesGroup s die core slot seq gk →
    (s.group gk).ended = false → (s.group gk).ballast = [] →
    ∃ t, exec (.killGroup die) s = .next t ∧ (t.group gk).ended = true ∧ (t.group gk).killed = true ∧
      ∀ w ∈ (s.group gk).wslots, mget t.waves (coreOfGroup gk * 8 + w) = none) ∧
  (∀ (s s1 : State) (die core slot seq gk : Nat), Takes s s1 die 4 core slot seq → NamesGroup s die core slot seq gk →
    let fk := s.flightKey gk
    (s.flight fk).faulted = false → (s.flight fk).done = false →
    ∃ t, exec (.faultFlight die) s = .next t ∧ (t.flight fk).faulted = true ∧ (t.flight fk).hdr = (s.flight fk).hdr ∧
      { words := [18 + 2 ^ 8 * 5, 0, 0, 0, 0, 0, (s.flight fk).number] } ∈ (t.die (s.dispatcherOf fk)).traps ∧
      ∀ k tr, mget s.trains k = some tr → tr.flight = fk → tr.stat = .resident → (t.train k).stat = .stopping ∧ (t.train k).noSave = true) ∧
  (∀ (s s1 : State) (die : Nat), Takes s s1 die 5 0 0 0 → peerBase s1 die ≠ 0 →
    let b := pickBuf s1 die
    ∃ t, exec (.checkpoint die) s = .next t ∧ (t.die die).ckpt = some b ∧ t.mem = (setBufMark s1 die b (bufMark s1 die b).1 false).mem ∧
      Kept s t) ∧
  (∀ (s : State) (die b : Nat), s.up die = true → (s.die die).ckpt = some b →
    let q := partnerOf die
    let d := s.die die
    let s1 := s.setRamBytes q (peerBase s die + 0x1000 + b * bufSize d) (s.ramBytes die d.sailBase d.sailSize)
    ∃ t, exec (.checkpointBufferComplete die) s = .next t ∧ (t.die die).ckpt = none ∧
      t.mem = (s1.setRam q (peerBase s1 die + 8 + 8 * b) 8 (d.brHead.toNat + 2 ^ 32)).mem ∧ Kept s t) ∧
  (∀ (s s1 : State) (die seq : Nat) (e : FaultEnt) (w : FaultWait), Takes s s1 die 6 0 0 seq →
    (s.die die).fents.find? (fun x => x.seq = seq) = some e → e.waiters = [w] → w.src ≠ .thread → (s.die die).adds = [] →
    ∃ t, exec (.retryfault die) s = .next t ∧ t.mem = s1.mem ∧ t.threads = s.threads ∧
      (∀ d i q, mget (s.die d).queues i = some q → mget (t.die d).queues i = some (if q.wait = w.who then { q with wait := 0 } else q)) ∧
      (∀ qk x, x ∈ (s.quad qk).queue → x.id = w.who → x.stat = .faulted → x.full = false →
        { x with stat := .queued, fault := none } ∈ (t.quad qk).queue) ∧
      ∀ d i r, mget (s.die d).rings i = some r → r.wait = w.who → mget (t.die d).rings i = some { r with wait := 0, state := 0 }) ∧
  ∀ (s s1 : State) (die seq : Nat) (e : FaultEnt) (w : FaultWait), Takes s s1 die 7 0 0 seq →
    (s.die die).fents.find? (fun x => x.seq = seq) = some e → e.waiters = [w] → w.src ≠ .thread →
    (∀ p ∈ s.quads, (∀ x ∈ p.2.queue, x.id ≠ w.who) ∧ ∀ x ∈ p.2.table, x.id ≠ w.who) → (∀ r ∈ s.reqs, r.id ≠ w.who) →
    (∀ p ∈ s.dies, (∀ x ∈ p.2.combines, x.fault ≠ w.who) ∧ ∀ x ∈ p.2.combAdds, x.id ≠ w.who) →
    ∃ t, exec (.failfault die) s = .next t ∧ t.mem = s1.mem ∧ t.threads = s.threads ∧
      (∀ i q, mget (s.die die).queues i = some q →
        mget (t.die die).queues i = some (if q.wait = w.who then { q with wait := 0, fail := true } else q)) ∧
      ∀ i r, mget (s.die die).rings i = some r → r.wait = w.who →
        mget (t.die die).rings i = some { r with wait := 0, state := 1, code := w.kind.copyCode }

/-! ### SYSCALL services, sessions, samples and passes (R347, R388, R389, R399, R431, R432, R439, R441, R446, R448) -/

namespace Sys2Proof.Claims

/-- A SYSCALL of a service waits for the die's kernel (R347). -/
structure Calls (s : State) (r : Req) (service : Nat) : Prop where
  req : s.req? r.id = some r
  kind : r.kind = .syscall
  phase : r.phase = .act
  up : s.up r.die = true
  runs : (s.die r.die).ckpt = none
  go : mayGo s r = true
  service : r.service = service

/-- Its argument area of n bytes lies in the group's scratch, and holds these words (R347, R388). -/
structure Area (s : State) (r : Req) (n : Nat) (ws : List Nat) : Prop where
  own : bits r.arg 24 18 = 0x7F
  inside : scratchTrap s (s.groupKey r.tk) r.arg n 4 = none
  words : ws = (List.range (n / 8)).map fun i => fieldAt (s.readScratch (s.groupKey r.tk) r.arg n) (8 * i) 8

/-- The SYSCALL has its value: the request is gone and the value is on its way to its destination register. -/
def Answers (s t : State) (r : Req) (v : Nat) : Prop :=
  t.reqs = s.reqs.filter (fun q => q.id ≠ r.id) ∧ t.flights = s.flights ∧ t.trains = s.trains ∧
    ∀ l, r.lanes = [l] →
      let tk := threadKey r.core l.slot
      s.twinOf tk = none → (s.thread tk).first ≤ r.id →
        t.thread tk = { s.thread tk with pend := (s.thread tk).pend ++ [{ off := r.off, dst := r.dst, vals := [BitVec.ofNat 32 v] }] } ∧
        ∀ x, x ≠ tk → t.thread x = s.thread x

/-- A message enters a die's send ring (R385). -/
def InRing (s t : State) (die : Nat) (m : Msg) : Prop :=
  let d := s.die die
  (t.die die).bsTail = d.bsTail + 1 ∧
    t.mem = (s.setRamBytes die (d.bsBase.toNat + 64 * (d.bsTail.toNat % 256))
      ([m.w0, m.w1, m.w2, m.w3, m.w4, m.w5, m.w6, m.w7].flatMap (leBytes 8))).mem

/-- A TRACE SYSCALL of an OP on session number n of the caller's partition, with a descriptor address (R432). -/
def TraceArea (s : State) (r : Req) (op n desc : Nat) : Prop := n < 8 ∧ Area s r 32 [op + 2 ^ 8 * n, desc, 0, 0]

end Sys2Proof.Claims

/-- R347, R388, R389, R399: the services of SYSCALL. The answers BUSY and PERM, the window's index, that MAP zeroes its frames but
not their mirrors, and that its ZERO descriptors run within the event, are the model's readings (logs 72, 80, 86, 129). -/
def Obligations.SyscallServices : Prop :=
  ∀ (s : State) (r : Req),
    (Calls s r 0 → ∃ t, exec (.syscallEcho r.id) s = .next t ∧ Answers s t r r.arg ∧ t.mem = s.mem) ∧
    (∀ ws, Calls s r 1 → Area s r 64 ws →
      (descOk ws = false → ∃ t, exec (.syscallQreg r.id) s = .next t ∧ Answers s t r 0xFFFFFFFE ∧ t.mem = s.mem) ∧
      (descOk ws = true → (∀ i < 64, (mget (s.die r.die).queues i).isSome = true) →
        ∃ t, exec (.syscallQreg r.id) s = .next t ∧ Answers s t r 0xFFFFFFFB ∧ t.mem = s.mem) ∧
      -- the queue gets a free index; which one, and where its descriptor stands, the model leaves free (log 26)
      (descOk ws = true → (∃ i < 64, mget (s.die r.die).queues i = none) → (s.die r.die).sailBase % 64 = 0 → 64 ≤ (s.die r.die).sailSize →
        (s.die r.die).sailBase + (s.die r.die).sailSize ≤ (s.die r.die).memSize → ((s.die r.die).slotOf r.vas).isSome = true →
        (∀ a, (s.die r.die).sailBase ≤ a → a < (s.die r.die).sailBase + (s.die r.die).sailSize →
          mgetD s.tags (tagKey r.die a) 0 = 0 ∧ mgetD s.bad (badKey r.die a) 0 = 0) →
        ∃ t i q, exec (.syscallQreg r.id) s = .next t ∧ i < 64 ∧ mget (s.die r.die).queues i = none ∧ Answers s t r i ∧
          mget (t.die r.die).queues i = some q ∧ q.vas = r.vas ∧ ws[0]? = some q.hbase ∧ ws[2]? = some q.bell ∧
          q.taken = 0 ∧ q.stat = 0 ∧ q.lastref = 0 ∧ q.refused = 0)) ∧
    (∀ q, Calls s r 2 → mget (s.die r.die).queues r.arg = some q →
      (q.vas ≠ r.vas → ∃ t, exec (.syscallQhalt r.id) s = .next t ∧ Answers s t r 0xFFFFFFFC ∧ t.mem = s.mem) ∧
      (q.vas = r.vas →
        ∃ t, exec (.syscallQhalt r.id) s = .next t ∧ Answers s t r 0 ∧ mget (t.die r.die).queues r.arg = some { q with stat := 2 })) ∧
    (∀ ws fs, Calls s r 3 → Area s r 32 ws → mapAreaOk s r.vas ws = false →
      ∃ t, exec (.syscallMap r.id fs) s = .next t ∧ Answers s t r 0xFFFFFFFE ∧ t.mem = s.mem) ∧
    -- MAP of one page that is not mapped: its frame is zeroed by ZERO descriptors on copy ring 0, and MAP goes to the partition's members
    (∀ va w2 f, Calls s r 3 → Area s r 32 [va, 1, w2, 0] → mapAreaOk s r.vas [va, 1, w2, 0] = true → bits w2 24 23 = 0 →
      let l := areaLeaf w2 + 2 ^ 28 * f
      let sdid := r.die * 2 ^ 53 + ((s.die r.die).sdSeq + 1) % 2 ^ 53
      let ring := mgetD (s.die r.die).rings 0 {}
      s.walkRoot r.die r.vas va = none ∨ s.walkRoot r.die r.vas va = some .absent → frameOk s r.vas 0 l = true → ring.head = ring.tail →
      count32 (s.die r.die).bsTail.toNat (s.die r.die).bsHead.toNat ≠ 256 →
      ∃ t, exec (.syscallMap r.id [f]) s = .next t ∧
        InRing (zeroDescs (zeroPage s r.vas va 0 l) r.die r.vas 0 l) t r.die
          { w0 := 0x10 + 2 ^ 16 * r.vas, w1 := va, w2 := 1, w3 := sdid, w5 := l, w6 := 4 } ∧
        (let ring' := mgetD (t.die r.die).rings 0 {}
         let n := BitVec.ofNat 32 (leafSet l).length
         ring'.head = ring.head + n ∧ ring'.tail = ring.tail + n ∧ ((leafSet l) ≠ [] → (t.die r.die).cause.getLsbD 4 = true)) ∧
        t.req? r.id = some { r with phase := .held } ∧ t.threads = s.threads) ∧
    (∀ va pages, Calls s r 4 → Area s r 16 [va, pages] →
      let sdid := r.die * 2 ^ 53 + ((s.die r.die).sdSeq + 1) % 2 ^ 53
      va % 4096 = 0 → 0 < pages → pages < 2 ^ 32 → va + 4096 * pages ≤ 2 ^ 57 → va < 2 ^ 57 →
      count32 (s.die r.die).bsTail.toNat (s.die r.die).bsHead.toNat ≠ 256 →
      ∃ t, exec (.syscallUnmap r.id) s = .next t ∧
        InRing s t r.die { w0 := 0x11 + 2 ^ 16 * r.vas, w1 := va, w2 := pages, w3 := sdid } ∧
        t.req? r.id = some { r with phase := .held } ∧ t.threads = s.threads) ∧
    (∀ va len io fn bar, Calls s r 5 → Area s r 32 [va, len, io + 2 ^ 8 * fn, bar] →
      let die := moduleOf r.die * 32 + io
      va % 4096 = 0 → va < 2 ^ 57 → len % 4096 = 0 → 0 < len → len ≤ 2 ^ 30 → 16 ≤ io → io < 20 → fn < 256 → bar % 4096 = 0 →
      functionVas s die fn = some r.vas → windowHome s r.die r.vas va (len / 4096) = true → (s.die die).windows.length < 64 →
      ∃ t i, exec (.syscallWindow r.id) s = .next t ∧ Answers s t r i ∧ t.mem = s.mem ∧
        (∀ w ∈ (s.die die).windows, w.idx ≠ i) ∧ i < 64 ∧ (∀ j < i, ∃ w ∈ (s.die die).windows, w.idx = j) ∧
        (t.die die).windows = (s.die die).windows ++ [{ vas := r.vas, va := va, len := len, fn := fn, bar := bar, idx := i }]) ∧
    (∀ n v, Calls s r n →
      (7 ≤ n → n < 2 ^ 31 → ∃ t, exec (.syscallAnswer r.id (some v)) s = .next t ∧ Answers s t r 0xFFFFFFFF ∧ t.mem = s.mem) ∧
      (2 ^ 31 ≤ n → ∃ t, exec (.syscallAnswer r.id (some v)) s = .next t ∧ Answers s t r v.toNat ∧ t.mem = s.mem) ∧
      -- a service may end in a trap; of which kind the model leaves free (log 27)
      ∃ t k, exec (.syscallAnswer r.id none) s = .next t ∧ t.reqs = s.reqs.filter (fun q => q.id ≠ r.id) ∧
        (t.thread r.tk).cands = { kind := k, off := r.off, ord := r.ord, asked := true } :: (s.thread r.tk).cands)

/-- R432, R437, R439: TRACE_OPEN, TRACE_STOP, TRACE_STATUS and TRACE_CLOSE. The CUT of STOP, the wait of CLOSE for the session's last records,
and the answers for sessions that are stopped or not registered are the model's readings (logs 81, 82, 142). -/
def Obligations.TraceServices : Prop :=
  ∀ (s : State) (r : Req) (n desc : Nat) (e : Session),
    let key := r.vas * 8 + n
    Calls s r 6 →
    (TraceArea s r 1 n desc → mget s.sessions key = some e →
      ∃ t, exec (.traceOpen r.id) s = .next t ∧ t.mem = s.mem ∧ t.sessions = s.sessions ∧
        Answers s t r (if e.desc ≠ desc then 0xFFFFFFFB else if e.stat = 1 then 0 else 0xFFFFFFFE)) ∧
    (∀ bs t1, TraceArea s r 1 n desc → mget s.sessions key = none → desc % 256 = 0 → desc < 2 ^ 57 →
      dispRead s r.die r.vas desc 256 false = (.bytes bs, t1) → t1.req? r.id = some r →
      let new : Session :=
        { vas := r.vas, num := n, desc := desc, words := (List.range 32).map fun i => fieldAt bs (8 * i) 8, stat := 1, pass := 1
          reg := t1.nextId }
      sessionOk new = true →
      ∃ t w, exec (.traceOpen r.id) s = .next t ∧ mget t.sessions key = some { new with owes := w } ∧
        t.reqs = t1.reqs.filter (fun q => q.id ≠ r.id)) ∧
    (TraceArea s r 2 n desc → mget s.sessions key = none → ∃ t, exec (.traceStop r.id) s = .next t ∧ t.mem = s.mem ∧ Answers s t r 0) ∧
    (TraceArea s r 2 n desc → mget s.sessions key = some e → e.stat = 3 →
      ∃ t, exec (.traceStop r.id) s = .next t ∧ t.mem = s.mem ∧ Answers s t r 0) ∧
    (TraceArea s r 2 n desc → mget s.sessions key = some e → e.stat = 1 → e.runs = [] → e.vas = r.vas → obsHolds s key none = false →
      ∃ t, exec (.traceStop r.id) s = .next t ∧ (mgetD t.sessions key {}).stat = 3 ∧
        (∀ d ∈ s.members r.vas, ∃ rec : TraceRec, (7, rec) ∈ (t.die d).traceHold ∧ rec.session = key ∧
          rec.w0 = 0x0F + 2 ^ 16 * 7 ∧ rec.w1 = 2 ^ 18 * d ∧ rec.w2 = 0) ∧
        t.reqs = s.reqs.filter (fun q => q.id ≠ r.id)) ∧
    (TraceArea s r 3 n desc → mget s.sessions key = some e →
      ∃ t, exec (.traceStatus r.id) s = .next t ∧ t.mem = s.mem ∧ Answers s t r (e.stat + 256 * e.flags + 65536 * e.pass)) ∧
    (TraceArea s r 4 n desc → mget s.sessions key = some e →
      (e.stat = 1 → ∃ t, exec (.traceClose r.id) s = .next t ∧ t.sessions = s.sessions ∧ t.mem = s.mem ∧ Answers s t r 0xFFFFFFFB) ∧
      (e.stat ≠ 1 → s.sessionBusy e.vas key = false →
        ∃ t, exec (.traceClose r.id) s = .next t ∧ mget t.sessions key = none ∧ t.mem = s.mem ∧ Answers s t r 0 ∧
          t.debts = if e.paid then s.debts else s.debts ++ [e]) ∧
      (e.stat ≠ 1 → s.sessionBusy e.vas key = true → exec (.traceClose r.id) s = .next s))

/-- R439, R441, R446, R448: records leave their queues or the hold, samples are taken, and passes follow one another. -/
def Obligations.TraceUnit : Prop :=
  (∀ (s t1 : State) (die : Nat) (pre post : List (Nat × TraceRec)) (p : Nat × TraceRec), s.up die = true → (s.die die).traceHold = [] →
    frontRecords s die = pre ++ p :: post → (∀ q ∈ pre, tryFront s die q = none) →
    (writeRecord s die p.2 = (.done, t1) →
      ∃ t, exec (.traceRecordWrite die) s = .next t ∧ t.mem = t1.mem ∧ (t.group p.1).trace = (t1.group p.1).trace.drop 1 ∧
        t.threads = t1.threads) ∧
    (writeRecord s die p.2 = (.moved, t1) → (t1.die die).traceHold = [] →
      ∃ t, exec (.traceRecordWrite die) s = .next t ∧ t.mem = t1.mem ∧ (t.group p.1).trace = (t1.group p.1).trace.drop 1 ∧
        (t.die die).traceHold = [(0, p.2)])) ∧
  (∀ (s t1 : State) (die : Nat) (pre post : List (Nat × TraceRec)) (p : Nat × TraceRec), s.up die = true →
    (s.die die).traceHold = pre ++ p :: post → (∀ q ∈ pre, tryHeld s die q = none) → heldReady s die p = true →
    writeRecord s die p.2 = (.done, t1) →
    ∃ t, exec (.traceRecordWrite die) s = .next t ∧ t.mem = t1.mem ∧ (t.die die).traceHold = (t1.die die).traceHold.erase p ∧
      t.groups = t1.groups) ∧
  (∀ (s : State) (die core key tk : Nat) (e : Session),
    let ck := coreKey die core
    let gk := s.groupKey tk
    dueSession s ck = some (key, e) → leastBy (fun x => (slotOf x + 512 - (s.core ck).sampled - 1) % 512) (sampleThreads s ck key) = some tk →
    ∃ t, exec (.sampleTimer die core) s = .next t ∧ (t.core ck).sampled = slotOf tk ∧
      mgetD (t.core ck).samples key 0 = periods s ck (key, e) ∧ t.threads = s.threads ∧ t.mem = s.mem ∧
      (s.attached (s.flightKey gk) = some (key, e) → coreOfGroup gk = ck →
        (s.flight (s.flightKey gk)).hdr.tmask = 0 → ∃ rec, (t.group gk).trace = (s.group gk).trace ++ [rec] ∧ rec.session = key ∧ rec.w0 % 256 = 5)) ∧
  ∀ (s : State) (die key : Nat) (e : Session), s.up die = true → s.sessions = [(key, e)] → e.mode = 1 → e.stat = 1 →
    (∃ f ∈ s.flights, f.2.sessionKey = some key ∧ f.2.reg = e.reg ∧ f.2.pass = e.pass ∧ f.2.done = true ∧ s.dispatcherOf f.1 = die) →
    (bits (e.word 8) 11 8 ≤ e.pass →
      ∃ t, exec (.passAdvance die) s = .next t ∧ (mgetD t.sessions key {}).stat = 3 ∧ (mgetD t.sessions key {}).pass = e.pass ∧
        t.threads = s.threads) ∧
    ∀ t1, e.pass < bits (e.word 8) 11 8 → flushPartition s e.vas = (t1, true) → e.snaps = [] →
      t1.sessions = s.sessions →
      ∃ t, exec (.passAdvance die) s = .next t ∧ (mgetD t.sessions key {}).pass = e.pass + 1 ∧ (mgetD t.sessions key {}).stat = 1 ∧
        t.threads = t1.threads

/-! ### Links and the bridle (R23, R372 to R387, R397) -/

namespace Sys2Proof.Claims

/-- The message at the head of a die's send ring, with the die as its SRC (R383, R385). -/
structure SendsNext (s : State) (die : Nat) (m : Msg) : Prop where
  up : s.up die = true
  some : (s.die die).bsHead ≠ (s.die die).bsTail
  read : ∃ x, x = Msg.ofBytes (s.ramBytes die ((s.die die).bsBase.toNat + 64 * ((s.die die).bsHead.toNat % 256)) 64) ∧
    m = { x with w0 := x.w0 / 2 ^ 39 * 2 ^ 39 + 2 ^ 28 * die + x.w0 % 2 ^ 28 }

/-- The next message that a die's kernel acts on, of a type; t has taken it. -/
structure Acts (s t : State) (die type : Nat) (m : Msg) : Prop where
  up : s.up die = true
  runs : (s.die die).ckpt = none
  next : ∃ rest, (s.die die).todo = m :: rest ∧ t = s.modDie die fun d => { d with todo := rest }
  type : m.w0 % 2 ^ 8 = type

/-- A message enters the receive ring of a die that has room, and the partner keeps no log of it: the partner's supervisor has given no
peer area (R385, R423). -/
def Entered (s t : State) (die : Nat) (m : Msg) : Prop :=
  (t.die die).brTail = (s.die die).brTail + 1 ∧ (t.die die).cause = (s.die die).cause ||| 2 ∧
    t.mem = (s.setRamBytes die ((s.die die).brBase.toNat + 64 * ((s.die die).brTail.toNat % 1024))
      ([m.w0, m.w1, m.w2, m.w3, m.w4, m.w5, m.w6, m.w7].flatMap (leBytes 8))).mem

end Sys2Proof.Claims

/-- R22: between two dies of a module, one of them a compute die, the route runs over links that join dies, ends at the far end, and has
at most 6 hops; traffic from I/O die 16 to compute die 15 enters the mesh at die 1 and crosses 2 column hops and 3 row hops. -/
def Sys2Proof.Claims.RoutesOfTheMesh : Prop :=
  (∀ (m : Fin 64) (a b : Fin 20), a ≠ b → (a.val < 16 ∨ b.val < 16) →
    let x := 32 * m.val + a.val
    let y := 32 * m.val + b.val
    let way := route x y 16
    ((x :: way).zip way).all (fun p => linked p.1 p.2) = true ∧ way.getLast? = some y ∧ hops x y ≤ 6) ∧
  route 16 15 16 = [1, 2, 3, 7, 11, 15]

/-- R22, R23, R397: routes; a flit whose CRC fails is replayed, and after 16 replays that fail its link is retired; a router reset restarts the
sequence numbers of its links. The numbers of links, what the link log counts, and which
number the notices name are the model's choices (logs 22, 113, 122). -/
def Obligations.LinkEvents : Prop :=
  Sys2Proof.Claims.RoutesOfTheMesh ∧
  (∀ (s : State) (a b : Nat), a < 2048 → b < 2048 → linked a b = true →
    let n := a * 2048 + b
    let l := mgetD s.links n {}
    l.retired = false →
    (l.crc = false → exec (.linkCrcError n) s = .next { s with links := mput s.links n { l with crc := true, log := l.log + 1 } }) ∧
    (l.crc = true →
      exec (.linkReplay n true) s = .next { s with links := mput s.links n { l with crc := false, replays := 0, seq := l.seq + 1 } } ∧
      (l.replays < 15 →
        exec (.linkReplay n false) s = .next { s with links := mput s.links n { l with replays := l.replays + 1, log := l.log + 1 } }) ∧
      (l.replays = 15 →
        ∃ t, exec (.linkReplay n false) s = .next t ∧
          mgetD t.links n {} = { l with replays := 16, log := l.log + 1, crc := false, retired := true } ∧
          -- the other direction of the link is retired with it
          mgetD t.links (b * 2048 + a) {} = { mgetD s.links (b * 2048 + a) {} with crc := false, retired := true } ∧
          (t.die a).notes = (s.die a).notes ++ [noticeOf a 1 n 0 0] ∧ (a ≠ b → (t.die b).notes = (s.die b).notes ++ [noticeOf b 1 n 0 0]) ∧
          t.mem = s.mem ∧ Kept s t))) ∧
  ∀ (s : State) (die : Nat), (s.die die).router = true → (∀ p ∈ s.links, (p.1 / 2048 = die ∨ p.1 % 2048 = die) →
      p.2.crc = false ∧ p.2.wire = [] ∧ p.2.buf = []) →
    ∃ t, exec (.routerReset die) s = .next t ∧ (t.die die).router = false ∧ t.mem = s.mem ∧ Kept s t ∧
      ∀ n l, mget s.links n = some l →
        mget t.links n = some (if n / 2048 = die ∨ n % 2048 = die then { l with seq := 0, replays := 0 } else l)

/-- R383 to R387: messages leave send rings, pass the sequencer, and enter receive rings. A message for a die that is not there is
left out: that it reaches no one is the model's choice (log 104), and so is that a cause 7 notice names the message with its SRC replaced (log 123). -/
def Obligations.BridleMessages : Prop :=
  (∀ (s : State) (die : Nat) (m : Msg), SendsNext s die m →
    (∀ i p, m.wellFormed = true → (s.die die).slotOf m.vas = some (i, p) → m.type < 16 → m.mc = false → m.dst ∈ s.members m.vas →
      s.isThere m.dst = true →
      ∃ t, exec (.bridleSend die) s = .next t ∧ Sent t m.dst (.msg m) (m ∈ (t.die m.dst).inbox) ∧ (t.die die).bsHead = (s.die die).bsHead + 1 ∧
        (t.die die).cause = (s.die die).cause ||| 4 ∧ t.mem = s.mem ∧ Kept s t) ∧
    (∀ i p, m.wellFormed = true → (s.die die).slotOf m.vas = some (i, p) → (m.mc = true ∨ m.type = 0x10 ∨ m.type = 0x11 ∨ m.type = 0x13) →
      s.isThere p.seq = true →
      ∃ t, exec (.bridleSend die) s = .next t ∧ Sent t p.seq (.toSeq m) (m ∈ (t.die p.seq).seqIn) ∧
        (t.die die).bsHead = (s.die die).bsHead + 1 ∧ t.mem = s.mem ∧ Kept s t) ∧
    (m.wellFormed = false →
      ∃ t, exec (.bridleSend die) s = .next t ∧ (t.die die).notes = (s.die die).notes ++ [noticeOf die 7 m.w0 0 0] ∧
        (∀ d, (t.die d).inbox = (s.die d).inbox ∧ (t.die d).seqIn = (s.die d).seqIn) ∧ t.links = s.links ∧ t.mem = s.mem ∧ Kept s t)) ∧
  (∀ (s : State) (die : Nat) (m : Msg) (rest : List Msg), s.up die = true → (s.die (partnerOf die)).poolBase = 0 →
    count32 (s.die die).brTail.toNat (s.die die).brHead.toNat ≠ 1024 →
    ((s.die die).inbox = m :: rest → m.type ≠ 0x20 →
      ∃ t, exec (.bridleReceive die) s = .next t ∧ Entered s t die m ∧ (t.die die).inbox = rest ∧ Kept s t ∧
        (if m.type = 0x11 then (t.die die).revokes = (s.die die).revokes ++ [m] ∧ (t.die die).todo = (s.die die).todo
         else (t.die die).todo = (s.die die).todo ++ [m] ∧ (t.die die).revokes = (s.die die).revokes)) ∧
    ((s.die die).notes = m :: rest → m.type = 0x20 → m.w1 % 256 ≠ 4 → m.w1 % 256 ≠ 5 → m.w1 % 256 ≠ 6 →
      ∃ t, exec (.notice die) s = .next t ∧ Entered s t die m ∧ (t.die die).notes = rest ∧ (t.die die).gone = (s.die die).gone ∧ Kept s t) ∧
    ((s.die die).notes = m :: rest → m.type = 0x20 → m.w1 % 256 = 6 → (s.die die).seqOpen = [] →
      ∃ t, exec (.notice die) s = .next t ∧ Entered s t die m ∧ (t.die die).gone = (s.die die).gone ++ [m.w2] ∧ Kept s t)) ∧
  (∀ (s : State) (die : Nat) (m : Msg) (rest : List Msg), (s.die die).seqIn = m :: rest → (s.die die).life ≠ .out → 16 ≤ m.type →
    (∀ p ∈ s.dies, p.2.life ≠ .resetting ∧ p.2.life ≠ .lost) → (∀ d ∈ s.members m.vas, s.isThere d = true) →
    let n := mgetD (s.die die).seqNo m.vas 0 + 1
    ∃ t, exec (.sequencerMulticast die) s = .next t ∧ (t.die die).seqIn = rest ∧ mgetD (t.die die).seqNo m.vas 0 = n ∧
      (∀ d ∈ s.members m.vas, Sent t d (.msg { m with w4 := n % 2 ^ 64 }) ({ m with w4 := n % 2 ^ 64 } ∈ (t.die d).inbox)) ∧
      (∀ d, d ∉ s.members m.vas → (t.die d).inbox = (s.die d).inbox) ∧ t.mem = s.mem ∧ Kept s t) ∧
  ∀ (s s1 : State) (die type : Nat) (m : Msg), Acts s s1 die type m → type < 16 → exec (.kmsg die) s = .next s1

/-- R372, R374 to R378, R388: MAP makes leaves valid; a shootdown opens its range, is acknowledged, and is committed. -/
def Obligations.Shootdowns : Prop :=
  (∀ (s s1 : State) (die : Nat) (m : Msg), Acts s s1 die 0x10 m → m.initiator ≠ die →
    exec (.map die) s = .next (applyLeaves s1 die m)) ∧
  (∀ (s : State) (die : Nat) (m : Msg) (rest : List Msg), s.up die = true → (s.die die).revokes = m :: rest → (s.die die).ranges = [] →
    (s.die die).l2 = [] → (s.die die).dir = [] → s.reqs = [] → (∀ p ∈ s.threads, p.2.tx = []) → s.isThere (m.sdid / 2 ^ 53) = true →
    let ack : Msg :=
      { w0 := 0x12 + 2 ^ 16 * m.vas + 2 ^ 28 * die + 2 ^ 39 * (m.sdid / 2 ^ 53), w1 := m.start, w2 := m.npages, w3 := m.sdid, w4 := m.w4 }
    ∃ t, exec (.revoke die) s = .next t ∧ (t.die die).revokes = rest ∧
      (t.die die).ranges =
        [{ vas := m.vas, start := m.start, npages := m.npages, mode := m.mode, sdid := m.sdid, order := m.w4, acked := true, upTo := s.nextId }] ∧
      Sent t (m.sdid / 2 ^ 53) (.msg ack) (ack ∈ (t.die (m.sdid / 2 ^ 53)).inbox) ∧
      -- no cached translation of a page of the range stays
      (∀ x ∈ (t.die die).tlb, ¬(x.vas = m.vas ∧ m.start < x.page + x.size ∧ x.page < m.start + m.npages * 4096)) ∧
      t.threads = s.threads ∧ t.flights = s.flights) ∧
  (∀ (s s1 : State) (die : Nat) (m : Msg) (x : Shoot), Acts s s1 die 0x12 m → (s.die die).shoots = [x] → x.sdid = m.sdid →
    x.committed = false →
    ((∃ d ∈ x.waiting, d ≠ m.src) →
      exec (.ack die) s = .next (s1.modDie die fun d => { d with shoots := [{ x with waiting := x.waiting.filter fun d => d ≠ m.src }] })) ∧
    ((∀ d ∈ x.waiting, d = m.src) → x.req ≠ 0 → count32 (s.die die).bsTail.toNat (s.die die).bsHead.toNat ≠ 256 →
      ∃ t, exec (.ack die) s = .next t ∧
        InRing s t die { w0 := 0x13 + 2 ^ 8 * x.mode + 2 ^ 16 * x.vas, w1 := x.start, w2 := x.npages, w3 := x.sdid } ∧
        (t.die die).shoots = [{ x with waiting := [], committed := true }])) ∧
  ∀ (s s1 : State) (die : Nat) (m : Msg), Acts s s1 die 0x13 m → isIo die = false → s.reqs = [] → (s.die die).l2 = [] →
      (∀ x ∈ (s.die die).shoots, x.sdid ≠ m.sdid) →
    ∃ t, exec (.commit die) s = .next t ∧ t.mem = (applyLeaves s1 die m).mem ∧
      (t.die die).ranges = (s.die die).ranges.filter (fun r => r.sdid ≠ m.sdid) ∧ m.sdid ∈ (t.die die).applied ∧ t.threads = s.threads ∧ t.reqs = s.reqs

/-! ### Control registers, queue commands and copy rings (R36, R381, R382, R393, R394, R400, R401) -/

namespace Sys2Proof.Claims

/-- A die kernel runs (R424). -/
def Runs (s : State) (die : Nat) : Prop := s.up die = true ∧ (s.die die).ckpt = none

/-- A queue command with an OP and an INDEX (R382). -/
def qctlWord (op index vas : Nat) : Nat := index + 2 ^ 8 * op + 2 ^ 16 * vas

/-- A copy ring is at a legal descriptor of a KIND, none of which has been performed (R401). -/
structure AtDesc (s : State) (die e kind : Nat) (r : Ring) (d : Desc) : Prop where
  up : s.up die = true
  ring : mget (s.die die).rings e = some r
  place : e < ringCount die ∧ r.head ≠ r.tail ∧ 4 ≤ r.log ∧ r.log ≤ 12
  desc : d = { addr := r.base.toNat + 64 * (r.head.toNat % 2 ^ r.log)
               ws := (List.range 8).map fun i => s.ram die (r.base.toNat + 64 * (r.head.toNat % 2 ^ r.log) + 8 * i) 8 }
  state : r.state = 0
  kind : d.kind = kind
  legal : descLegal s die r.vas d = true

/-- A descriptor of one piece within a line: LEN bytes, none moved yet. -/
def OnePiece (r : Ring) (d : Desc) : Prop := r.done = 0 ∧ 0 < d.len ∧ d.len ≤ 128 - d.src % 128

/-- The ring has performed its descriptor, n bytes moved, and will end it with a code. -/
def Moved1 (t : State) (die e : Nat) (r : Ring) (code n : Nat) : Prop :=
  mget (t.die die).rings e = some { r with state := 1, code := code, done := n }

/-- The descriptor has ended with a code: its word 6 says it, the head has advanced, CAUSE[4] is raised (R401). -/
def DescDone (s t : State) (die e : Nat) (r : Ring) (d : Desc) (code : Nat) : Prop :=
  mget (t.die die).rings e = some { r with head := r.head + 1, state := 0, code := 0, done := 0, wait := 0 } ∧
    (t.die die).cause = (s.die die).cause ||| 16 ∧ t.mem = (s.setRam die (d.addr + 0x30) 8 (code + 2 ^ 7)).mem ∧ t.threads = s.threads

end Sys2Proof.Claims

/-- R36, R381, R382, R393: what a die kernel's writes of control registers and queue commands do. The order of the checks of a queue
command is the model's reading (log 71). -/
def Obligations.ControlRegisters : Prop :=
  ∀ (s : State) (die v : Nat), Runs s die →
    let d := s.die die
    exec (.fqhead die v) s = .next (s.modDie die fun d => { d with fqHead := BitVec.ofNat 32 v }) ∧
    exec (.bstail die v) s = .next (s.modDie die fun d => { d with bsTail := BitVec.ofNat 32 v }) ∧
    exec (.brhead die v) s = .next (s.modDie die fun d => { d with brHead := BitVec.ofNat 32 v }) ∧
    exec (.cause die v) s = .next (s.modDie die fun d => { d with cause := d.cause &&& ~~~ (BitVec.ofNat 5 v) }) ∧
    (∀ e r, e < (if isIo die then 16 else 1) → mget d.rings e = some r →
      ∃ t, exec (.crtail die e v) s = .next t ∧ mget (t.die die).rings e = some { r with tail := BitVec.ofNat 32 v } ∧
        (∀ x, x ≠ e → mget (t.die die).rings x = mget d.rings x) ∧ t.mem = s.mem ∧ Kept s t) ∧
    exec (.controlRegisterWrite die 0x000 v) s = .next (s.modDie die fun d => { d with fqBase := BitVec.ofNat 64 v }) ∧
    exec (.controlRegisterWrite die 0x020 v) s = .next (s.modDie die fun d => { d with bsBase := BitVec.ofNat 64 v }) ∧
    exec (.controlRegisterWrite die 0x038 v) s = .next (s.modDie die fun d => { d with brBase := BitVec.ofNat 64 v }) ∧
    exec (.controlRegisterWrite die 0x060 v) s = .next (s.modDie die fun d => { d with poolBase := BitVec.ofNat 64 v }) ∧
    exec (.controlRegisterWrite die 0x068 v) s = .next (s.modDie die fun d => { d with poolSize := BitVec.ofNat 32 v }) ∧
    exec (.controlRegisterWrite die 0x070 v) s = .next (s.modDie die fun d => { d with qdesc := BitVec.ofNat 64 v }) ∧
    -- a request to the keel; a second one is answered BUSY, with no effect
    (d.mail = false → v < 2 ^ 64 → d.mailBuf v = true →
      exec (.controlRegisterWrite die 0x058 v) s = .next (s.modDie die fun d => { d with kmbox := BitVec.ofNat 64 v, mail := true })) ∧
    (d.mail = true → v < 2 ^ 64 → d.mailBuf v = true →
      ∃ t, exec (.controlRegisterWrite die 0x058 v) s = .next t ∧
        t.mem = (s.setRamBytes die (v + 0x80) (leBytes 8 (3 + 2 ^ 32 * s.ram die (v + 4) 4) ++ List.replicate 120 0)).mem ∧
        (t.die die).kmbox = d.kmbox ∧ (t.die die).mail = true ∧ (t.die die).cause = d.cause ||| 8 ∧ Kept s t) ∧
    (∀ index vas, index < 64 → vas < 2 ^ 12 →
      let ws := (List.range 8).map fun i => s.ram die (d.qdesc.toNat + 8 * i) 8
      let reg := qctlWord 1 index vas
      let ends (op code : Nat) (f : Die → Die) : Prop :=
        (op = 1 → exec (.queueRegister die reg) s = .next (s.modDie die fun d => { f d with qstat := BitVec.ofNat 8 code })) ∧
        (op = 4 → exec (.queueUnregister die (qctlWord 4 index vas)) s = .next (s.modDie die fun d => { f d with qstat := BitVec.ofNat 8 code }))
      -- a descriptor that lies outside the memory or in a frame of another partition than the supervisor cores' cannot be read
      (d.qdesc.toNat % 64 = 0 → s.bad = [] →
        (d.memSize < d.qdesc.toNat + 64 ∨
          mgetD s.tags (tagKey die d.qdesc.toNat) 0 / 16 ≠ 0 ∧ mgetD s.tags (tagKey die d.qdesc.toNat) 0 / 16 ≠ d.svas) → ends 1 5 id) ∧
      (d.qdesc.toNat % 64 = 0 → d.qdesc.toNat + 64 ≤ d.memSize →
          (mgetD s.tags (tagKey die d.qdesc.toNat) 0 / 16 = 0 ∨ mgetD s.tags (tagKey die d.qdesc.toNat) 0 / 16 = d.svas) → s.bad = [] →
        (descOk ws = false → ends 1 2 id) ∧
        (descOk ws = true → (mget d.queues index).isSome = true → ends 1 1 id) ∧
        (descOk ws = true → mget d.queues index = none → d.slotOf vas = none → ends 1 3 id) ∧
        (descOk ws = true → mget d.queues index = none → (d.slotOf vas).isSome = true →
          ∃ t q, exec (.queueRegister die reg) s = .next t ∧ (t.die die).qstat = 0 ∧ mget (t.die die).queues index = some q ∧
            q.desc = d.qdesc.toNat ∧ q.vas = vas ∧ ws[0]? = some q.hbase ∧ ws[2]? = some q.bell ∧ ws[3]? = some q.taken ∧
            t.mem = s.mem ∧ Kept s t)) ∧
      (mget d.queues index = none →
        ends 4 4 id ∧
        exec (.queueHalt die (qctlWord 2 index vas)) s = .next (s.modDie die fun d => { d with qstat := 4 }) ∧
        exec (.queueRun die (qctlWord 3 index vas)) s = .next (s.modDie die fun d => { d with qstat := 4 })) ∧
      ∀ q, mget d.queues index = some q →
        (∃ t, exec (.queueHalt die (qctlWord 2 index vas)) s = .next t ∧ mget (t.die die).queues index = some { q with stat := 2 } ∧
          (t.die die).qstat = 0 ∧ Kept s t) ∧
        (q.stat ≠ 0 → ∃ t, exec (.queueRun die (qctlWord 3 index vas)) s = .next t ∧
          mget (t.die die).queues index = some { q with stat := 0, lastref := 0 } ∧ (t.die die).qstat = 0 ∧ Kept s t) ∧
        ends 4 0 fun d => { d with queues := mdel d.queues index })

/-- R394, R400, R401: what the kinds of descriptors move, and how a descriptor ends. Which I/O die receives a Spar write, and that a
write to a module that is not there ends with LOST, are the model's choices (logs 103, 104). -/
def Obligations.CopyRings : Prop :=
  ∀ (s : State) (die e : Nat) (r : Ring) (d : Desc),
    (∀ bs t1 t2, AtDesc s die e 1 r d → OnePiece r d → ringRead s die r.vas d.src d.len = (.ok bs, t1) →
      ringWrite t1 die r.vas d.dst bs (bs.length / 128 + 2) = (.ok [], t2) →
      ∃ t, exec (.descVaToVa die e) s = .next t ∧ Moved1 t die e r 0 d.len ∧ t.mem = t2.mem ∧ t.threads = t2.threads) ∧
    (∀ bs t1, AtDesc s die e 2 r d → OnePiece r d → ringRead s die r.vas d.src d.len = (.ok bs, t1) →
      ∃ t, exec (.descVaToHost die e) s = .next t ∧ Moved1 t die e r 0 d.len ∧ t.hostMem = Memory.write t1.hostMem d.dst bs ∧ t.mem = t1.mem) ∧
    (∀ t1, AtDesc s die e 3 r d → OnePiece r d →
      ringWrite s die r.vas d.dst (Memory.read s.hostMem d.src d.len) ((Memory.read s.hostMem d.src d.len).length / 128 + 2) = (.ok [], t1) →
      ∃ t, exec (.descHostToVa die e) s = .next t ∧ Moved1 t die e r 0 d.len ∧ t.mem = t1.mem ∧ t.hostMem = t1.hostMem) ∧
    -- a fault in the source is entered in the fault queue and ends the descriptor, at once where the queue is not in use (R371)
    (∀ k va det t1, AtDesc s die e 2 r d → OnePiece r d → ringRead s die r.vas d.src d.len = (.fault k va det, t1) → k ≠ .miss →
      (t1.die die).fqLog = 0 →
      ∃ t, exec (.descVaToHost die e) s = .next t ∧ Moved1 t die e r k.copyCode 0 ∧ t.hostMem = t1.hostMem ∧
        (t.die die).faults = (t1.die die).faults ++
          [{ va := va % 2 ^ 57, vas := r.vas, kind := k, src := .dma, wr := false, det := det, who := t1.nextId }]) ∧
    (∀ bs t1, AtDesc s die e 4 r d → OnePiece r d → d.dmod < 64 → ringRead s die r.vas d.src d.len = (.ok bs, t1) →
      let io := d.dmod * 32 + localOf die
      let p : SparPkt := { smod := moduleOf die, svas := r.vas, vas := d.dvas, va := d.dst, data := bs, src := some (die, e) }
      (t1.isThere io = true →
        ∃ t, exec (.descVaToSpar die e) s = .next t ∧ mget (t.die die).rings e = some { r with state := 3 } ∧ t.mem = t1.mem ∧
          Sent t io (.spar p) (p ∈ (t.die io).spar)) ∧
      (t1.isThere io = false → ∃ t, exec (.descVaToSpar die e) s = .next t ∧ Moved1 t die e r PageFault.lost.copyCode 0 ∧ t.mem = t1.mem)) ∧
    -- frames of the ring's VAS are copied with their tags, to frames that no other served VAS owns
    (AtDesc s die e 5 r d → (s.die d.sdie).life = .up → (s.die d.ddie).life = .up → d.sdie ≠ d.ddie →
      d.src + d.len ≤ (s.die d.sdie).memSize → d.dst + d.len ≤ (s.die d.ddie).memSize →
      (s.die d.sdie).memSize ≤ 2 ^ 48 → (s.die d.ddie).memSize ≤ 2 ^ 48 →
      ((∀ a ∈ framesOf d.src d.len, frameVas s d.sdie a = r.vas) → (∀ a ∈ framesOf d.dst d.len, frameFree s d.ddie a r.vas = true) →
        s.bad = [] →
        ∃ t, exec (.descFrame die e) s = .next t ∧ Moved1 t die e r 0 r.done ∧
          (∀ i < d.len, Memory.get t.mem (ramKey d.ddie (d.dst + i)) = Memory.get s.mem (ramKey d.sdie (d.src + i))) ∧
          ∀ a, (a < ramKey d.ddie d.dst ∨ ramKey d.ddie d.dst + d.len ≤ a) → Memory.get t.mem a = Memory.get s.mem a) ∧
      ((∃ a ∈ framesOf d.src d.len, frameVas s d.sdie a ≠ r.vas) →
        ∃ t, exec (.descFrame die e) s = .next t ∧ Moved1 t die e r PageFault.perm.copyCode r.done ∧ t.mem = s.mem ∧ t.tags = s.tags)) ∧
    (AtDesc s die e 6 r d → (s.die d.ddie).life = .up → d.dst + d.len ≤ (s.die d.ddie).memSize →
      (∀ a ∈ framesOf d.dst d.len, frameFree s d.ddie a r.vas = true) →
      ∃ t, exec (.descZero die e) s = .next t ∧ Moved1 t die e r 0 r.done ∧
        (∀ a, Memory.get t.mem a =
          if ramKey d.ddie d.dst ≤ a ∧ a < ramKey d.ddie d.dst + d.len then 0 else Memory.get s.mem a) ∧
        ∀ f ∈ framesOf d.dst d.len, frameVas t d.ddie f = r.vas) ∧
    -- the end of a descriptor that is performed without CTR, that broke the layout, or that had LEN 0
    (AtDesc s die e d.kind r d → d.ctr = false → d.len = 0 → ∃ t, exec (.descriptorEnd die e) s = .next t ∧ DescDone s t die e r d 0) ∧
    (s.up die = true → s.ringAt die e = some (r, d) → r.state = 1 → r.code ≠ 0 ∨ d.ctr = false →
      ∃ t, exec (.descriptorEnd die e) s = .next t ∧ DescDone s t die e r d r.code) ∧
    (s.up die = true → s.ringAt die e = some (r, d) → r.state = 0 → descLegal s die r.vas d = false →
      ∃ t, exec (.descriptorEnd die e) s = .next t ∧ DescDone s t die e r d PageFault.invalid.copyCode)

/-! ### The keel (R354, R356, R379, R390 to R396, R403, R404) -/

namespace Sys2Proof.Claims

/-- A request of a die kernel stands in its buffer for the keel to answer: its CODE, its TAG and its parameters (R392, R393). -/
structure Mail (s : State) (src code tag : Nat) (params : List Byte) : Prop where
  keel : (s.keel (moduleOf src)).verified = true
  die : src < 2048
  up : s.up src = true
  mail : (s.die src).mail = true
  bytes : s.ramBytes src (s.die src).kmbox.toNat 128 = leBytes 4 code ++ leBytes 4 tag ++ params
  sized : params.length = 120 ∧ tag < 2 ^ 32

/-- The same of a request that the host has written to function 0 of module m (log 28). -/
structure HostMail (s : State) (m code tag : Nat) (params : List Byte) : Prop where
  keel : (s.keel m).verified = true
  up : s.up (32 * m + 16) = true
  mail : (s.keel m).busy = true
  bytes : (s.keel m).buf.take 128 = leBytes 4 code ++ leBytes 4 tag ++ params
  sized : params.length = 120 ∧ tag < 2 ^ 32

/-- Bytes of an answer: STATUS, TAG, RESULT, and 0. -/
def answerBytes (status tag : Nat) (result : List Byte) : List Byte :=
  leBytes 8 (status + 2 ^ 32 * tag) ++ (result ++ List.replicate 120 0).take 120

/-- The keel has answered a die kernel: CAUSE[3] is raised (R393). t0 is the state that the request's effect leaves. -/
def Told (t0 t : State) (src status tag : Nat) (result : List Byte) : Prop :=
  t.mem = (t0.setRamBytes src ((t0.die src).kmbox.toNat + 0x80) (answerBytes status tag result)).mem ∧ (t.die src).mail = false ∧
    (t.die src).cause = (t0.die src).cause ||| 8 ∧ t.keels = t0.keels ∧ t.threads = t0.threads

/-- The keel has answered the host, with an MSI-X of function 0. -/
def HostTold (t0 t : State) (m status tag : Nat) (result : List Byte) : Prop :=
  (t.keel m).buf = (t0.keel m).buf.take 128 ++ answerBytes status tag result ∧ (t.keel m).busy = false ∧ t.host = t0.host ++ [.msix 0]

/-- 64-bit parameters, and zeros up to 120 bytes. -/
def params (ws : List Nat) : List Byte := ws.flatMap (leBytes 8) ++ List.replicate (120 - 8 * ws.length) 0

end Sys2Proof.Claims

/-- R354, R356, R379, R390 to R396: the requests to the keel. The requesters' numbers, the slot that PASSIGN gives the sequencer, and the image
that SVNLOCK names are the model's choices (logs 28, 79, 131). -/
def Obligations.KeelRequests : Prop :=
  ∀ (s : State) (m tag : Nat),
    -- a die kernel's request that only the host may make is answered PERM, with no effect
    (∀ src ps, (Mail s src 1 tag ps → ∃ t, exec (.pcreate src) s = .next t ∧ Told s t src 1 tag []) ∧
      (Mail s src 2 tag ps → ∃ t, exec (.passign src) s = .next t ∧ Told s t src 1 tag []) ∧
      (Mail s src 3 tag ps → ∃ t, exec (.prelease src) s = .next t ∧ Told s t src 1 tag []) ∧
      (Mail s src 7 tag ps → ∃ t, exec (.enroll src) s = .next t ∧ Told s t src 1 tag []) ∧
      (Mail s src 8 tag ps → ∃ t, exec (.svnlock src) s = .next t ∧ Told s t src 1 tag [])) ∧
    -- PCREATE gives an id that is not in use
    (HostMail s m 1 tag (params []) → (∃ v, 1 ≤ v ∧ v < 4096 ∧ v ∉ s.vasIds) →
      ∃ t v, exec (.pcreate (2048 + m)) s = .next t ∧ 1 ≤ v ∧ v < 4096 ∧ v ∉ s.vasIds ∧ t.vasIds = v :: s.vasIds ∧
        HostTold s t m 0 tag (leBytes 8 v) ∧ t.dies = s.dies ∧ t.mem = s.mem) ∧
    (HostMail s m 1 tag (params []) → (∀ v, 1 ≤ v → v < 4096 → v ∈ s.vasIds) →
      ∃ t, exec (.pcreate (2048 + m)) s = .next t ∧ t.vasIds = s.vasIds ∧ HostTold s t m 5 tag []) ∧
    -- PASSIGN opens a slot with key slot 0; a sequencer that does not serve the VAS gets one too
    (∀ vas die seq, vas < 2 ^ 12 → die < 2 ^ 11 → seq < 2 ^ 11 → HostMail s m 2 tag (params [vas + 2 ^ 12 * die + 2 ^ 23 * seq]) →
      vas ∈ s.vasIds → moduleOf die = m → (s.die die).life = .up → isIo seq = true → (s.die die).slots = [] → packageFull s m vas = false →
      let slot : PSlot := { vas := vas, seq := seq, en := true, keys := 1 }
      (seq = die ∨ ((s.die seq).slotOf vas).isSome = true →
        ∃ t i, exec (.passign (2048 + m)) s = .next t ∧ i < 16 ∧ HostTold s t m 0 tag [] ∧ t.mem = s.mem ∧
          (t.die die).slots = [(i, slot)] ∧ (t.die die).svas = (if isCompute die then vas else 0) ∧ ∀ d, d ≠ die → t.die d = s.die d) ∧
      (seq ≠ die → (s.die seq).slots = [] → packageFull s (moduleOf seq) vas = false →
        ∃ t i j, exec (.passign (2048 + m)) s = .next t ∧ i < 16 ∧ j < 16 ∧ HostTold s t m 0 tag [] ∧ t.mem = s.mem ∧
          (t.die die).slots = [(i, slot)] ∧ (t.die die).svas = (if isCompute die then vas else 0) ∧ (t.die seq).slots = [(j, slot)] ∧
          ∀ d, d ≠ die → d ≠ seq → t.die d = s.die d)) ∧
    -- PRELEASE of a die with no train of the VAS closes the slot; registers, scratch and accumulators of a compute die become 0
    (∀ vas die i p, vas < 2 ^ 12 → die < 2 ^ 11 → HostMail s m 3 tag (params [vas + 2 ^ 12 * die]) → moduleOf die = m →
      (s.die die).slotOf vas = some (i, p) → s.trains = [] → isCompute die = true → (s.die die).traceHold = [] → (s.die die).l2 = [] →
      ∃ t, exec (.prelease (2048 + m)) s = .next t ∧ HostTold s t m 0 tag [] ∧ (t.die die).svas = 0 ∧
        (∃ q, mget (t.die die).slots i = some q ∧ q.en = false ∧ q.keys = 0) ∧
        (∀ x ∈ (t.die die).tlb, x.vas ≠ vas) ∧
        -- what the destroyed keys wrote on the die no longer verifies
        (∀ x ∈ s.tags, x.1 / 2 ^ 36 = die → x.2 / 16 = vas → mgetD t.bad (badKey die (x.1 % 2 ^ 36 * 4096)) 0 = 2) ∧
        (∀ a, 2 ^ 60 ≤ a → dieOfCore ((a - 2 ^ 60) / 2 ^ 18) = die → Memory.get t.mem a = 0) ∧
        (∀ a, a < 2 ^ 60 → Memory.get t.mem a = Memory.get s.mem a) ∧ ∀ qk, dieOfQuad qk = die → mget t.quads qk = none) ∧
    -- KEYLOAD makes a key slot usable
    (∀ src vas key i p, Mail s src 4 tag (params [vas + 2 ^ 12 * key]) → vas < 2 ^ 12 → 1 ≤ key → key < 16 →
      (s.die src).slotOf vas = some (i, p) → p.keys.testBit key = false →
      ∃ t q, exec (.keyload src) s = .next t ∧ Told s t src 0 tag [] ∧ mget (t.die src).slots i = some q ∧ q.keys.testBit key = true ∧
        q.vas = p.vas ∧ q.en = p.en ∧ q.root = p.root ∧ t.bad = s.bad) ∧
    (∀ src vas key, Mail s src 4 tag (params [vas + 2 ^ 12 * key]) → vas < 2 ^ 12 → key < 16 → (s.die src).slotOf vas = none →
      ∃ t, exec (.keyload src) s = .next t ∧ Told s t src 1 tag [] ∧ t.bad = s.bad) ∧
    -- VERIFY of an image that does not lie in the sail region
    (∀ src pa pl, Mail s src 6 tag (params [pa, pl]) → pa < 2 ^ 64 → pl < 2 ^ 64 → pa < (s.die src).sailBase →
      ∃ t, exec (.verify src) s = .next t ∧ Told s t src 2 tag []) ∧
    (∀ src pa pl, Mail s src 6 tag (params [pa, pl]) → pa < 2 ^ 64 → pl < 2 ^ 11 → (s.die src).sailBase ≤ pa →
      pa + 256 ≤ (s.die src).sailBase + (s.die src).sailSize →
      ∃ t, exec (.verify src) s = .next t ∧ Told s t src (if imageOk s src pa then 0 else 4) tag []) ∧
    -- ENROLL fuses the owner key hash once
    (∀ h : List Byte, h.length = 48 → HostMail s m 7 tag (h ++ List.replicate 72 0) → (s.keel m).ownerHash = none →
      ∃ t, exec (.enroll (2048 + m)) s = .next t ∧ (t.keel m).ownerHash = some h ∧ HostTold s t m 0 tag [] ∧ t.mem = s.mem ∧ t.dies = s.dies) ∧
    -- SVNLOCK raises the fused minimum of a KIND to the running image's SVN
    (∀ kind hdr, HostMail s m 8 tag (params [kind]) → 1 ≤ kind → kind ≤ 5 →
      mget (s.keel m).images (kind * 2048 + if kind = 2 then 32 * m + 16 else 0) = some hdr →
      let v := max (mgetD (s.keel m).svnMin kind 0) (fieldAt hdr 6 2)
      ∃ t, exec (.svnlock (2048 + m)) s = .next t ∧ mgetD (t.keel m).svnMin kind 0 = v ∧
        (∀ k, k ≠ kind → mgetD (t.keel m).svnMin k 0 = mgetD (s.keel m).svnMin k 0) ∧ HostTold s t m 0 tag (leBytes 8 v) ∧ t.mem = s.mem) ∧
    -- ATTEST puts a report of 608 bytes at host memory: its body, and a signature, which the model leaves free (log 5)
    ∀ vas dst (nonce : List Byte), nonce.length = 48 → vas ∈ s.vasIds → vas < 2 ^ 12 → dst < 2 ^ 57 →
      HostMail s m 5 tag (leBytes 8 vas ++ nonce ++ leBytes 8 dst ++ List.replicate 56 0) →
      ∃ t sig, exec (.attest (2048 + m)) s = .next t ∧ sig.length = 96 ∧ HostTold s t m 0 tag (leBytes 4 608) ∧
        t.hostMem = Memory.write s.hostMem dst (reportBody s m vas nonce ++ sig) ∧ t.mem = s.mem

/-! ### Bring-up, ports, recovery (R27, R302 to R304, R334, R378, R397 to R403, R416, R422 to R428) -/

namespace Sys2Proof.Claims

/-- A landing window of a function holds an access of n bytes, and is the only one that does (R399). -/
def Lands (s : State) (die fn off n : Nat) (w : Window) : Prop :=
  s.up die = true ∧ isIo die = true ∧ (s.die die).hold = [] ∧ (s.die die).port = [] ∧ (s.die die).ranges = [] ∧
    (s.die die).windows.find? (fun x => x.fn = fn && x.bar ≤ off && off + n ≤ x.bar + x.len) = some w

/-- Every member of every partition that the die serves has a notice of a cause about it (R384). -/
def MembersTold (s t : State) (die cause : Nat) : Prop :=
  ∀ p ∈ (s.die die).slots, p.2.en = true → ∀ d ∈ s.members p.2.vas, noticeOf d cause die 0 0 ∈ (t.die d).notes

end Sys2Proof.Claims

/-- R302 to R304, R398 to R402: what reaches an I/O die over PCI Express, Spar and CXL. -/
def Obligations.PortEvents : Prop :=
  (∀ (s : State) (die rid fn off : Nat) (w : Window),
    let s0 := drainHold s die
    let va := w.va + (off - w.bar)
    (∀ data t1, Lands s die fn off data.length w → isCounter s0 die w.vas va = false →
      putAll s0 die w.vas va data = (.done, t1) →
      exec (.pciePostedWrite die rid fn off data) s = .next t1) ∧
    (∀ data, Lands s die fn off data.length w → isCounter s0 die w.vas va = true →
      ∃ t, exec (.pciePostedWrite die rid fn off data) s = .next t ∧ t.mem = s.mem ∧ t.host = s.host ++ [.aer rid] ∧
        (t.die die).notes = (s.die die).notes ++ [noticeOf die 8 (rid % 2 ^ 37 + 2 ^ 37 * (fn % 256)) off 1]) ∧
    (∀ addend t1 t2 bs, Lands s die fn off 8 w → isCounter s0 die w.vas va = true → va % 8 = 0 →
      releaseWide s0 die = (t1, true) → agentCtrAdd t1 die w.vas va (addend % 2 ^ 64) = (.done (.performed bs), t2) →
      exec (.pcieFetchadd die rid fn off addend) s = .next { t2 with host := t2.host ++ [.atomic rid (leValue bs)] }) ∧
    -- a fault at the counter's home is entered in the I/O die's fault queue
    (∀ addend t1 t2 k det, Lands s die fn off 8 w → isCounter s0 die w.vas va = true → va % 8 = 0 →
      releaseWide s0 die = (t1, true) → agentCtrAdd t1 die w.vas va (addend % 2 ^ 64) = (.done (.fault k det), t2) →
      ∃ t, exec (.pcieFetchadd die rid fn off addend) s = .next t ∧ t.mem = t2.mem ∧ t.host = t2.host ++ [.unsupported rid] ∧
        (t.die die).faults = (t2.die die).faults ++
          [{ va := va % 2 ^ 57, vas := w.vas, kind := k, src := .dma, wr := true, det := det }]) ∧
    (Lands s die fn off 1 w →
      exec (.pcieUnsupportedAtomicop die rid fn off) s = .next { s with host := s.host ++ [.unsupported rid] }) ∧
    (∀ len bs t1, Lands s die fn off len w → getAll s0 die w.vas va len = (.inl (some bs), t1) →
      exec (.pcieMemoryRead die rid fn off len) s = .next { t1 with host := t1.host ++ [.data rid bs] })) ∧
  (∀ (s : State) (die fn : Nat), s.up die = true → isIo die = true →
    ∃ t, exec (.functionLevelReset die fn) s = .next t ∧ (t.die die).windows = (s.die die).windows.filter (fun w => w.fn ≠ fn) ∧
      t.mem = s.mem ∧ Kept s t) ∧
  (∀ (s : State) (die : Nat) (p : SparPkt) (rest : List SparPkt), (s.die die).spar = p :: rest → s.up die = true → isIo die = true →
    (s.die die).hold = [] → (s.die die).port = [] → (s.die die).ranges = [] →
    (∀ t1, (p.smod < 64 ∧ p.svas = p.vas ∨
        64 ≤ p.smod ∧ ∃ a ∈ (s.die die).admits, a.2.toNat.testBit 63 = true ∧ bits a.2.toNat 11 0 = p.vas ∧
          bits a.2.toNat 21 12 = p.smod ∧ bits a.2.toNat 33 22 = p.svas) →
      p.ctr = none → p.src = none → putAll (drainHold s die) die p.vas p.va p.data = (.done, t1) →
      ∃ t, exec (.sparWrite die) s = .next t ∧ (t.die die).spar = rest ∧ t.mem = t1.mem) ∧
    -- the last write of a stream adds 1 to its counter, once the stream's writes are released
    (∀ a t1 t2 t3 bs, p.smod < 64 → p.svas = p.vas → p.ctr = some a → p.src = none →
      putAll (drainHold s die) die p.vas p.va p.data = (.done, t1) → releaseWide t1 die = (t2, true) →
      agentCtrAdd t2 die p.vas a 1 = (.done (.performed bs), t3) →
      ∃ t, exec (.sparWrite die) s = .next t ∧ (t.die die).spar = rest ∧ t.mem = t3.mem) ∧
    (∀ src e r, p.smod < 64 → p.svas ≠ p.vas → p.src = some (src, e) → mget (s.die src).rings e = some r → r.state = 3 →
      ∃ t, exec (.sparWrite die) s = .next t ∧ (t.die die).spar = rest ∧ t.mem = s.mem ∧
        mget (t.die src).rings e = some { r with state := 1, code := 2 })) ∧
  ∀ (s : State) (die : Nat), s.up die = true → isIo die = true →
    (∀ addr bs, (s.die die).cxl = true → addr % 64 = 0 → addr + 64 ≤ (s.die die).hdmSize → bs.length = 64 →
      ∃ t, exec (.cxlMemRequest die addr (some bs)) s = .next t ∧
        t.mem = (s.setRamBytes die ((s.die die).hdmBase + addr) bs).mem ∧ Kept s t) ∧
    (∀ addr, (s.die die).cxl = true → addr % 64 = 0 → addr + 64 ≤ (s.die die).hdmSize → s.bad = [] →
      exec (.cxlMemRequest die addr none) s =
        .next { s with host := s.host ++ [.data 0 (s.ramBytes die ((s.die die).hdmBase + addr) 64)] }) ∧
    ∀ cxl, (s.die die).cxl ≠ cxl →
      ∃ t, exec (.portModeChange die cxl) s = .next t ∧ (t.die die).cxl = cxl ∧ (t.die die).windows = [] ∧ t.mem = s.mem ∧ Kept s t

/-- R27, R391, R403, R404, R422 to R428: bring-up, the scrubber, hung logic, warm reset and loss. Which dies DIE_JOIN tells, what a warm
reset empties, the memory size of an I/O die, the images of a keel's store and the order of the logged messages are the model's choices
(logs 30, 31, 78, 85, 141). -/
def Obligations.RecoveryEvents : Prop :=
  -- only verified keel firmware runs, on the first module whose keel does not run yet
  (∀ (s : State) (m : Nat), m < 64 → (∀ n < m, (s.keel n).verified = true ∨ mget (s.keel n).store 2048 = none) → (s.keel m).verified = false →
    (s.keel m).goodImage true 1 0 = true →
    ∃ t, exec (.vauxGood true) s = .next t ∧ (t.keel m).verified = true ∧ (t.keel m).enable = true ∧
      mget (t.keel m).images 2048 = some (((s.keel m).stored 1 0).take 256) ∧ t.mem = s.mem ∧ t.dies = s.dies) ∧
  (∀ s : State, exec (.vauxGood false) s = .next s) ∧
  (∀ (s : State) (m l : Nat), m < 64 → l < 20 →
    let die := m * 32 + l
    (s.keel m).verified = true → (s.die die).life = .out → (l ≠ 16 → s.up (m * 32 + 16) = true) →
    (l < 16 → ∀ i ∈ [17, 18, 19], (s.die (m * 32 + i)).life ≠ .out) →
    ((s.keel m).goodImage true 2 die = true →
      ∃ t, exec (.dieJoin die true) s = .next t ∧ t.up die = true ∧
        (t.die die).memSize = (if l < 16 then 48 * 2 ^ 30 else Config.ioMemory die) ∧ (t.die die).slots = (s.die die).slots ∧
        mget (t.keel m).images (2 * 2048 + die) = some (((s.keel m).stored 2 die).take 256) ∧ t.mem = s.mem ∧ Kept s t) ∧
    ∃ t, exec (.dieJoin die false) s = .next t ∧ (t.die die).life = .lost ∧ t.mem = s.mem ∧ Kept s t ∧
      ∀ p ∈ s.dies, p.1 ≠ die → moduleOf p.1 = m → s.up p.1 = true → noticeOf p.1 6 die 0 0 ∈ (t.die p.1).notes) ∧
  (∀ (s : State) (die : Nat), s.up die = true →
    exec (.calibrationComplete die) s = .next (s.modDie die fun d => { d with calib := true }) ∧
    exec (.dieLogicHang die) s = .next (s.modDie die fun d => { d with life := .hung })) ∧
  -- the scrubber: an uncorrectable line is poisoned, a correctable one is good again
  (∀ (s : State) (die pa c : Nat), s.up die = true → pa < (s.die die).memSize → (s.die die).poolBase = 0 →
    let k := die * 2 ^ 41 + pa / 128
    mget s.bad k = some c →
    ((c = 1 ∨ c = 2) → exec (.scrubLine die pa) s = .next { s with bad := mput s.bad k 3 }) ∧
    (c = 4 → exec (.scrubLine die pa) s = .next { s with bad := mdel s.bad k })) ∧
  (∀ (s : State) (die : Nat), (s.die die).life = .up ∨ (s.die die).life = .hung →
    (∃ t, exec (.heartbeatTimeout die) s = .next t ∧ (t.die die).life = .resetting ∧ MembersTold s t die 5 ∧ t.mem = s.mem ∧ Kept s t) ∧
    (∃ t, exec (.warmResetStart die) s = .next t ∧ (t.die die).life = .resetting ∧ MembersTold s t die 5 ∧ t.mem = s.mem ∧ Kept s t) ∧
    (s.trains = [] →
      ∃ t, exec (.dieLoss die) s = .next t ∧ (t.die die).life = .lost ∧ (∀ p ∈ (t.die die).slots, p.2.en = false) ∧ t.mem = s.mem ∧
        ∀ p ∈ (s.die die).slots, p.2.en = true → ∀ d ∈ s.members p.2.vas, d ≠ die → noticeOf d 6 die 0 0 ∈ (t.die d).notes)) ∧
  ∀ (s : State) (die : Nat), (s.die die).life = .resetting →
    (∀ t1, s.trains = [] → t1.trains = [] → releaseWide s die = (t1, true) →
      ∃ t, exec (.warmResetDrained die) s = .next t ∧ t.mem = t1.mem ∧ (t.die die).l2 = [] ∧ (t.die die).queues = [] ∧
        (t.die die).life = (t1.die die).life ∧ (t.die die).drained = true ∧
        (∀ ck, dieOfCore ck = die → (t.core ck).table = [] ∧ (t.core ck).l1 = [] ∧ (t.core ck).wakes = [] ∧
          (t.core ck).cycles = (t1.core ck).cycles) ∧ ∀ r ∈ t.reqs, r.die ≠ die) ∧
    (s.trains = [] → ∃ t, exec (.warmResetDrainTimeout die) s = .next t ∧ (t.die die).life = .lost ∧ t.mem = s.mem) ∧
    ∀ b stamp,
      let q := partnerOf die
      let d := s.die die
      let n := count32 (s.ram q (peerBase s die) 4) stamp
      let k := s.keel (moduleOf die)
      s.trains = [] → d.l2 = [] → d.drained = true → k.admits (k.image 2 die) = true → s.up q = true → peerBase s die ≠ 0 → newestBuf s die = some (b, stamp) → n ≤ 65536 →
      ∃ t, exec (.warmResetRejoin die) s = .next t ∧ t.up die = true ∧ (t.die die).brHead = BitVec.ofNat 32 stamp ∧
        (t.die die).brTail = BitVec.ofNat 32 stamp ∧
        (∀ i < n, Msg.ofBytes (s.ramBytes q
          (peerBase s die + 0x1000 + 2 * bufSize d + 64 * ((stamp + i) % 65536)) 64) ∈ (t.die die).inbox) ∧
        t.mem = (s.setRamBytes die d.sailBase (s.ramBytes q (peerBase s die + 0x1000 + b * bufSize d) d.sailSize)).mem ∧
        MembersTold s t die 4

/-! ### What an event does by itself -/

namespace Sys2Proof.Claims

/-- An event completes: from a state that meets the conditions before it, it leaves a state of which `p` holds. -/
def Completes (i : Instr) (s : State) (p : State → Prop) : Prop := ∃ t, exec i s = .next t ∧ p t

/-- Completion of a streamer's events: an entry starts (R282), a granule moves (R287), a granule that fails its CRC twice fails its copy
(R287, R288), the reel or the counter of a written copy is advanced (R286). -/
def StreamersComplete : Prop :=
  ∀ (s : State) (die quad : Nat) (e : SEntry),
    let qk := quadAt die quad
    (s.quad qk).queue = [e] →
    (s.up die = true → mayStart s qk e = true →
      Completes (.streamerEntryStart die quad) s fun t => (t.quad qk).queue = [{ e with stat := .moving }] ∧ t.mem = s.mem) ∧
    (∀ e1 t1, e.stat = .moving → e.kind ≠ .combine → moveGranule s e = (.ok e1, t1) →
      Completes (.copyGranule die quad .good) s fun t => t.mem = t1.mem ∧ t.threads = t1.threads) ∧
    (∀ r, e.byCtr = false → s.reel? e.group (e.sync % 2 ^ 18) = some r → r.watch = [] →
      (e.stat = .moving → Completes (.copyFault die quad .twice) s fun t =>
        (t.quad qk).queue = [] ∧ ∃ r', t.reel? e.group (e.sync % 2 ^ 18) = some r' ∧ r'.widx = (r.widx + 1) % 2 ^ 32 ∧ r'.ecode = 5) ∧
      (e.stat = .written → Completes (.copySync die quad) s fun t =>
        (t.quad qk).queue = [] ∧ ∃ r', t.reel? e.group (e.sync % 2 ^ 18) = some r' ∧ r'.widx = (r.widx + 1) % 2 ^ 32)) ∧
    ∀ t0 n t1 bs t2, e.stat = .written → e.byCtr = true → commitCopy s e = (.ok n, t0) → releaseWide t0 die = (t1, true) →
      agentCtrAdd t1 die (t1.flight (t1.flightKey e.group)).vas e.sync 1 = (.done (.performed bs), t2) →
      Completes (.copySync die quad) s fun t => t.mem = t2.mem ∧ ∀ x ∈ (t.quad qk).queue, x.id ≠ e.id

/-- Completion of the events of combining: a contribution begins an entry (R298), an entry is written and freed (R298), a refused
contribution is sent again (R300), the counter add of a COMBINE is performed (R299). -/
def CombiningCompletes : Prop :=
  (∀ (s : State) (io : Nat) (c : Contrib), s.up io = true → (s.die io).contribs = [c] → (s.die io).combines = [] →
    ncon c.entry.con = 2 → tFmt c.entry.dst = 9 →
    Completes (.combineContribution io) s fun t =>
      (t.die io).contribs = [] ∧ (∃ x, (t.die io).combines = [x] ∧ x.key = c.entry.key ∧ x.sum = c.data ∧ x.next = 1) ∧ t.mem = s.mem) ∧
  (∀ (s t1 : State) (io : Nat) (e : Combine) (vs : List Nat), s.up io = true → (s.die io).combines = [e] → e.fault = 0 → tFmt e.dst = 9 →
    engMap (combineWord io e) e.sum.zipIdx s = (.ok vs, t1) →
    Completes (.combineEntryTimeout io e.vas e.key.toNat) s fun t =>
      t.mem = t1.mem ∧ ∀ x ∈ (t.die io).combines, ¬(x.vas = e.vas ∧ x.key = e.key)) ∧
  (∀ (s : State) (die quad io : Nat) (e : SEntry),
    let qk := quadAt die quad
    (s.quad qk).queue = [e] → e.stat = .refused → switchOf s e = .ok io →
    Completes (.combineResend die quad) s fun t => (t.quad qk).queue = [{ e with stat := .sent }] ∧ t.mem = s.mem) ∧
  ∀ (s t0 t1 : State) (die quad : Nat) (a : CombAdd) (bs : List Byte), (s.die die).combAdds = [a] → a.ready = true → a.fault = none →
    quadOfCore (coreOfGroup a.group) = quadAt die quad → releaseWide s die = (t0, true) →
    agentCtrAdd t0 die a.vas a.ctr 1 = (.done (.performed bs), t1) →
    Completes (.combineCounterAdd die quad) s fun t => t.mem = t1.mem ∧ ∀ b ∈ (t.die die).combAdds, b.id ≠ a.id

/-- Completion of the events of links: a CRC error stands until the flit's replay (R23), a reset router starts again (R397). -/
def LinksComplete : Prop :=
  (∀ (s : State) (a b : Nat), a < 2048 → b < 2048 → linked a b = true → (s.link (linkNo a b)).retired = false →
    ((s.link (linkNo a b)).crc = false →
      Completes (.linkCrcError (linkNo a b)) s fun t => (t.link (linkNo a b)).crc = true ∧ (t.link (linkNo a b)).seq = (s.link (linkNo a b)).seq) ∧
    ((s.link (linkNo a b)).crc = true →
      Completes (.linkReplay (linkNo a b) true) s fun t => (t.link (linkNo a b)).crc = false ∧ (t.link (linkNo a b)).replays = 0)) ∧
  ∀ (s : State) (die : Nat), (s.die die).router = true → s.links = [] →
    Completes (.routerReset die) s fun t => (t.die die).router = false ∧ t.mem = s.mem

/-- Completion of the copy engines' descriptors (R400, R401): what each kind moves, and that a descriptor ends. -/
def DescriptorsComplete : Prop :=
  ∀ (s : State) (die e : Nat) (r : Ring) (d : Desc),
    (∀ bs t1 t2, AtDesc s die e 1 r d → OnePiece r d → ringRead s die r.vas d.src d.len = (.ok bs, t1) →
      ringWrite t1 die r.vas d.dst bs (bs.length / 128 + 2) = (.ok [], t2) → Completes (.descVaToVa die e) s fun t => t.mem = t2.mem) ∧
    (∀ bs t1, AtDesc s die e 2 r d → OnePiece r d → ringRead s die r.vas d.src d.len = (.ok bs, t1) →
      Completes (.descVaToHost die e) s fun t => t.hostMem = Memory.write t1.hostMem d.dst bs) ∧
    (∀ t1, AtDesc s die e 3 r d → OnePiece r d →
      ringWrite s die r.vas d.dst (Memory.read s.hostMem d.src d.len) ((Memory.read s.hostMem d.src d.len).length / 128 + 2) = (.ok [], t1) →
      Completes (.descHostToVa die e) s fun t => t.mem = t1.mem) ∧
    (∀ bs t1, AtDesc s die e 4 r d → OnePiece r d → d.dmod < 64 → ringRead s die r.vas d.src d.len = (.ok bs, t1) →
      t1.isThere (d.dmod * 32 + localOf die) = true →
      Completes (.descVaToSpar die e) s fun t => mget (t.die die).rings e = some { r with state := 3 } ∧ t.mem = t1.mem) ∧
    (AtDesc s die e 5 r d → (s.die d.sdie).life = .up → (s.die d.ddie).life = .up → d.sdie ≠ d.ddie →
      d.src + d.len ≤ (s.die d.sdie).memSize → d.dst + d.len ≤ (s.die d.ddie).memSize →
      (s.die d.sdie).memSize ≤ 2 ^ 48 → (s.die d.ddie).memSize ≤ 2 ^ 48 →
      (∀ a ∈ framesOf d.src d.len, frameVas s d.sdie a = r.vas) → (∀ a ∈ framesOf d.dst d.len, frameFree s d.ddie a r.vas = true) →
      s.bad = [] →
      Completes (.descFrame die e) s fun t =>
        ∀ i < d.len, Memory.get t.mem (ramKey d.ddie (d.dst + i)) = Memory.get s.mem (ramKey d.sdie (d.src + i))) ∧
    (AtDesc s die e 6 r d → (s.die d.ddie).life = .up → d.dst + d.len ≤ (s.die d.ddie).memSize →
      (∀ a ∈ framesOf d.dst d.len, frameFree s d.ddie a r.vas = true) →
      Completes (.descZero die e) s fun t => ∀ i < d.len, Memory.get t.mem (ramKey d.ddie (d.dst + i)) = 0) ∧
    (s.up die = true → s.ringAt die e = some (r, d) → r.state = 1 → d.ctr = false →
      Completes (.descriptorEnd die e) s fun t =>
        (∃ r', mget (t.die die).rings e = some r' ∧ r'.head = r.head + 1 ∧ r'.state = 0) ∧
          t.mem = (s.setRam die (d.addr + 0x30) 8 (r.code + 2 ^ 7)).mem)

/-- Completion of the TRACE services (R432) and of a die's trace unit (R439, R441, R448). -/
def TracingCompletes : Prop :=
  (∀ (s : State) (r : Req) (n desc : Nat) (e : Session),
    let key := r.vas * 8 + n
    Calls s r 6 →
    (TraceArea s r 1 n desc → mget s.sessions key = some e → e.desc = desc → e.stat = 1 →
      Completes (.traceOpen r.id) s fun t => Answers s t r 0 ∧ t.mem = s.mem) ∧
    (TraceArea s r 2 n desc → mget s.sessions key = some e → e.stat = 1 → e.runs = [] → e.vas = r.vas → obsHolds s key none = false →
      Completes (.traceStop r.id) s fun t => (mgetD t.sessions key {}).stat = 3) ∧
    (TraceArea s r 3 n desc → mget s.sessions key = some e →
      Completes (.traceStatus r.id) s fun t => Answers s t r (e.stat + 256 * e.flags + 65536 * e.pass) ∧ t.mem = s.mem) ∧
    (TraceArea s r 4 n desc → mget s.sessions key = some e → e.stat ≠ 1 → s.sessionBusy e.vas key = false →
      Completes (.traceClose r.id) s fun t => Answers s t r 0 ∧ mget t.sessions key = none)) ∧
  (∀ (s t1 : State) (die : Nat) (p : Nat × TraceRec) (post : List (Nat × TraceRec)), s.up die = true → (s.die die).traceHold = [] →
    frontRecords s die = p :: post → writeRecord s die p.2 = (.done, t1) →
    Completes (.traceRecordWrite die) s fun t => t.mem = t1.mem ∧ (t.group p.1).trace = (t1.group p.1).trace.drop 1) ∧
  (∀ (s : State) (die core key tk : Nat) (e : Session),
    let ck := coreKey die core
    dueSession s ck = some (key, e) → leastBy (fun x => (slotOf x + 512 - (s.core ck).sampled - 1) % 512) (sampleThreads s ck key) = some tk →
    Completes (.sampleTimer die core) s fun t => (t.core ck).sampled = slotOf tk ∧ t.threads = s.threads ∧ t.mem = s.mem) ∧
  ∀ (s : State) (die key : Nat) (e : Session), s.up die = true → s.sessions = [(key, e)] → e.mode = 1 → e.stat = 1 →
    (∃ f ∈ s.flights, f.2.sessionKey = some key ∧ f.2.reg = e.reg ∧ f.2.pass = e.pass ∧ f.2.done = true ∧ s.dispatcherOf f.1 = die) →
    bits (e.word 8) 11 8 ≤ e.pass →
    Completes (.passAdvance die) s fun t => (mgetD t.sessions key {}).stat = 3 ∧ t.threads = s.threads

/-- Completion of what reaches an I/O die from its ports (R302 to R304, R398 to R402). -/
def PortsComplete : Prop :=
  ∀ (s : State) (die : Nat),
    (∀ (rid fn off : Nat) (w : Window),
      let s0 := drainHold s die
      let va := w.va + (off - w.bar)
      (∀ data t1, Lands s die fn off data.length w → isCounter s0 die w.vas va = false → putAll s0 die w.vas va data = (.done, t1) →
        Completes (.pciePostedWrite die rid fn off data) s fun t => t.mem = t1.mem) ∧
      (∀ addend t1 t2 bs, Lands s die fn off 8 w → isCounter s0 die w.vas va = true → va % 8 = 0 → releaseWide s0 die = (t1, true) →
        agentCtrAdd t1 die w.vas va (addend % 2 ^ 64) = (.done (.performed bs), t2) →
        Completes (.pcieFetchadd die rid fn off addend) s fun t => t.mem = t2.mem ∧ t.host = t2.host ++ [.atomic rid (leValue bs)]) ∧
      (Lands s die fn off 1 w →
        Completes (.pcieUnsupportedAtomicop die rid fn off) s fun t => t.host = s.host ++ [.unsupported rid] ∧ t.mem = s.mem) ∧
      ∀ len bs t1, Lands s die fn off len w → getAll s0 die w.vas va len = (.inl (some bs), t1) →
        Completes (.pcieMemoryRead die rid fn off len) s fun t => t.host = t1.host ++ [.data rid bs]) ∧
    (s.up die = true → isIo die = true →
      (∀ fn, Completes (.functionLevelReset die fn) s fun t => ∀ w ∈ (t.die die).windows, w.fn ≠ fn) ∧
      (∀ addr bs, (s.die die).cxl = true → addr % 64 = 0 → addr + 64 ≤ (s.die die).hdmSize → bs.length = 64 →
        Completes (.cxlMemRequest die addr (some bs)) s fun t => t.mem = (s.setRamBytes die ((s.die die).hdmBase + addr) bs).mem) ∧
      (∀ cxl, (s.die die).cxl ≠ cxl → Completes (.portModeChange die cxl) s fun t => (t.die die).cxl = cxl ∧ t.mem = s.mem) ∧
      ∀ p t1, (s.die die).spar = [p] → (s.die die).hold = [] → (s.die die).port = [] → (s.die die).ranges = [] → p.smod < 64 → p.svas = p.vas →
        p.ctr = none → p.src = none → putAll (drainHold s die) die p.vas p.va p.data = (.done, t1) →
        Completes (.sparWrite die) s fun t => (t.die die).spar = [] ∧ t.mem = t1.mem)

end Sys2Proof.Claims

/-- R23, R282, R286 to R288, R298 to R304, R397 to R402, R432, R439, R441, R448: events of streamers, combining switches, links, copy engines,
trace units and ports complete with their own effect, where nothing withholds it. The numbers of links and the I/O die that receives a
Spar write are the model's choices (logs 22, 103). -/
def Obligations.EventsComplete : Prop :=
  Sys2Proof.Claims.StreamersComplete ∧ Sys2Proof.Claims.CombiningCompletes ∧ Sys2Proof.Claims.LinksComplete ∧
    Sys2Proof.Claims.DescriptorsComplete ∧ Sys2Proof.Claims.TracingCompletes ∧ Sys2Proof.Claims.PortsComplete

/-! ### Encodings and steps -/

namespace Sys2Proof.Claims

/-- An instruction of the native form: it has a 32-bit word of its own. -/
def Instr.isNative (i : Instr) : Bool :=
  !i.isEvent && (match i with | .glomerWord _ => false | _ => true)

/-- What every step keeps: memory and host memory in their canonical form, and no lane twice in a bundle. -/
structure Inv (s : State) : Prop where
  mem : Memory.wf s.mem = true
  hostMem : Memory.wf s.hostMem = true
  lanes : ∀ p ∈ s.bundles, p.2.lanes.Nodup

end Sys2Proof.Claims

/-- Words written out field by field from the spec's formats decode to the instructions that they stand for (R88 to R109). -/
def Obligations.SampleWordsDecode : Prop :=
  -- IADD v3, v1, v2, without and with S: major 0x0A, minor 0
  decodeWord (0x0A * 2 ^ 25 + 3 * 2 ^ 18 + 1 * 2 ^ 11 + 2 * 2 ^ 4) = some (.iadd false (.reg 3) (.reg 1) (.reg 2)) ∧
  decodeWord (2 ^ 31 + 0x0A * 2 ^ 25 + 3 * 2 ^ 18 + 1 * 2 ^ 11 + 2 * 2 ^ 4) = some (.iadd true (.reg 3) (.reg 1) (.reg 2)) ∧
  -- FADD _, w1, v2: the transient destination, and a source of the forwarding window
  decodeWord (0x19 * 2 ^ 25 + 127 * 2 ^ 18 + 120 * 2 ^ 11 + 2 * 2 ^ 4) = some (.fadd false .trans (.win 1) (.reg 2)) ∧
  -- MOVI v5, -1 and BRZ v4, -2 with S
  decodeWord (0x16 * 2 ^ 25 + 5 * 2 ^ 18 + (2 ^ 18 - 1)) = some (.movi false (.reg 5) (-1)) ∧
  decodeWord (2 ^ 31 + 3 * 2 ^ 25 + 4 * 2 ^ 18 + (2 ^ 18 - 2)) = some (.brz true (.reg 4) (-2)) ∧
  -- LD v8, [v24], GROUP, B16, acquire, NL1
  decodeWord (0x21 * 2 ^ 25 + 8 * 2 ^ 18 + 24 * 2 ^ 11 + 1 * 2 ^ 8 + 1 * 2 ^ 5 + 1 * 2 ^ 3 + 1) =
    some (.ld false (.reg 8) (.reg 24) .group .b16 .acqRel .nl1) ∧
  -- TTSET t3, v16:v23, TTGET v24:v31, t3, and TTCLR t3
  decodeWord 0x74008030 = some (.ttset false (.reg 16) 3) ∧
  decodeWord 0x74600031 = some (.ttget false (.reg 24) 3) ∧
  decodeWord 0x74000032 = some (.ttclr false 3) ∧
  -- a reserved major, a destination code of the forwarding window, and a reserved minor
  decodeWord (0x3F * 2 ^ 25) = none ∧
  decodeWord (0x0A * 2 ^ 25 + 120 * 2 ^ 18 + 1 * 2 ^ 11 + 2 * 2 ^ 4) = none ∧
  decodeWord (0x0A * 2 ^ 25 + 3 * 2 ^ 18 + 1 * 2 ^ 11 + 2 * 2 ^ 4 + 13) = none

/-- Encoding, then decoding, gives back every well-formed native instruction, whatever bytes follow it. -/
def Obligations.DecodeAfterEncode : Prop :=
  ∀ (i : Instr) (rest : List Byte), i.wf = true → Instr.isNative i = true → decode (encode i ++ rest) = some (i, rest)

/-- A word that decodes is the word of the well-formed instruction it decodes to: no two words mean one instruction, and no bit is
dropped. -/
def Obligations.EncodeAfterDecode : Prop :=
  ∀ (w : Nat) (i : Instr), decodeWord w = some i → i.wf = true ∧ Instr.isNative i = true ∧ i.word = w % 2 ^ 32

/-- R86, R112 and log 3: with no turn to come, a step runs the next word of the bundle in focus, decoded; a turn runs a bundle's next word,
or an event. -/
def Obligations.StepRunsTheDecodedWord : Prop :=
  ∀ (s : State) (k w : Nat) (last : Bool) (i : Instr),
    (mget s.bundles k).isSome = true → (s.bundle k).code[(s.bundle k).pos]? = some (w, last) →
    (if (s.bundle k).glomer = true then i = .glomerWord (BitVec.ofNat 64 w) else decode (leBytes 4 w) = some (i, [])) →
    (s.turns = [] → s.focus = some k → step s = exec i { s with turnCore := k / 2 }) ∧
    (∀ core slot rest, s.turns = .issue core slot :: rest → slot < 2 → k = 2 * core + slot → s.midWord (2 * core + (1 - slot)) = false →
      step s = exec i { s with turns := rest, focus := some k, turnCore := core }) ∧
    ∀ ev rest, s.turns = .event ev :: rest → ev.isEvent = true → step s = exec ev { s with turns := rest }

/-- Every state has a next state: no step faults, and none is refused. -/
def Obligations.EveryStepCompletes : Prop := ∀ s : State, ∃ t, step s = .next t

/-- Every step keeps memory in its canonical form and the lanes of a bundle distinct. -/
def Obligations.StepKeepsInvariant : Prop := ∀ s t : State, Inv s → step s = .next t → Inv t

/-- The invariant holds after reset. -/
def Obligations.ResetHasInvariant : Prop := Inv State.reset

/-- R356, R381, R401, R403: after reset no die has joined, control registers, partition slots, rings and admit tables are 0, and nothing
is resident. That nothing is resident, that nothing is verified and that memory reads 0 are the model's choices (logs 4, 6). -/
def Obligations.ResetState : Prop :=
  (∀ die,
    let d := State.reset.die die
    d.life = .out ∧ d.fqBase = 0 ∧ d.fqLog = 0 ∧ d.fqHead = 0 ∧ d.fqTail = 0 ∧ d.bsBase = 0 ∧ d.bsTail = 0 ∧ d.bsHead = 0 ∧ d.brBase = 0 ∧
      d.brHead = 0 ∧ d.brTail = 0 ∧ d.cause = 0 ∧ d.kmbox = 0 ∧ d.poolBase = 0 ∧ d.poolSize = 0 ∧ d.qdesc = 0 ∧ d.qstat = 0 ∧ d.svas = 0 ∧
      (∀ k, mgetD d.slots k {} = {}) ∧ (∀ k, mgetD d.rings k {} = {}) ∧ ∀ k, mgetD d.admits k 0 = 0) ∧
  (∀ a, Memory.get State.reset.mem a = 0) ∧ State.reset.threads = [] ∧ State.reset.flights = [] ∧ State.reset.trains = [] ∧
    State.reset.reqs = [] ∧ (∀ m, (State.reset.keel m).verified = false)
end

