-- ==== Sys2Proof/Laws/Maps.lean ====
section
/-! SUPPORT. Laws of the finite maps and of the memory: read after write, and the canonical form. -/

namespace Sys2Proof.Machine

set_option Elab.async false

/-! ### Maps -/

@[simp] theorem mget_nil {α : Type} (k : Nat) : mget ([] : AMap α) k = none := rfl

/-- A key reads what was put at it. -/
@[simp] theorem mget_mput_same {α : Type} (m : AMap α) (k : Nat) (v : α) : mget (mput m k v) k = some v := by
  induction m with
  | nil => simp [mput, mget]
  | cons p r ih =>
    obtain ⟨j, w⟩ := p
    simp only [mput]
    split
    · simp [mget]
    · split
      · simp [mget]
      · rename_i h1 h2
        have h : ¬ j = k := fun e => h2 e.symm
        simp [mget, h, ih]

/-- Other keys read what they read before. -/
theorem mget_mput_ne {α : Type} (m : AMap α) {k j : Nat} (v : α) (h : j ≠ k) : mget (mput m k v) j = mget m j := by
  have hk : ¬ k = j := fun e => h e.symm
  induction m with
  | nil => simp [mput, mget, hk]
  | cons p r ih =>
    obtain ⟨i, w⟩ := p
    simp only [mput]
    split
    · simp [mget, hk]
    · split
      · rename_i h2
        have hi : ¬ i = j := fun e => hk (h2.trans e)
        simp [mget, hk, hi]
      · simp only [mget, ih]

theorem mget_mput {α : Type} (m : AMap α) (k j : Nat) (v : α) :
    mget (mput m k v) j = if j = k then some v else mget m j := by
  split
  · rename_i h; subst h; simp
  · rename_i h; exact mget_mput_ne m v h

@[simp] theorem mgetD_mput_same {α : Type} (m : AMap α) (k : Nat) (v d : α) : mgetD (mput m k v) k d = v := by
  simp [mgetD]

theorem mgetD_mput_ne {α : Type} (m : AMap α) {k j : Nat} (v d : α) (h : j ≠ k) :
    mgetD (mput m k v) j d = mgetD m j d := by
  simp [mgetD, mget_mput_ne m v h]

theorem mgetD_mput {α : Type} (m : AMap α) (k j : Nat) (v d : α) :
    mgetD (mput m k v) j d = if j = k then v else mgetD m j d := by
  simp only [mgetD, mget_mput]; split <;> rfl

@[simp] theorem mget_mdel_same {α : Type} (m : AMap α) (k : Nat) : mget (mdel m k) k = none := by
  induction m with
  | nil => rfl
  | cons p r ih =>
    obtain ⟨j, w⟩ := p
    simp only [mdel]
    split
    · exact ih
    · rename_i h; simp [mget, h, ih]

theorem mget_mdel_ne {α : Type} (m : AMap α) {k j : Nat} (h : j ≠ k) : mget (mdel m k) j = mget m j := by
  induction m with
  | nil => rfl
  | cons p r ih =>
    obtain ⟨i, w⟩ := p
    simp only [mdel]
    split
    · rename_i hi
      have hn : ¬ i = j := fun e => h (e.symm.trans hi)
      simp [mget, hn, ih]
    · simp [mget, ih]

/-- Changing the listed values at some keys, each once. -/
theorem mget_mmodAll {α : Type} (f : Nat → α → α) (ks : List Nat) (m : AMap α) (h : ks.Nodup) (k : Nat) :
    mget (mmodAll m ks f) k = if k ∈ ks then (mget m k).map (f k) else mget m k := by
  induction ks generalizing m with
  | nil => simp [mmodAll]
  | cons a r ih =>
    have hr := (List.nodup_cons.mp h).2
    have ha := (List.nodup_cons.mp h).1
    simp only [mmodAll]
    split
    · rename_i hn
      rw [ih m hr]
      by_cases hk : k = a
      · subst hk; simp [ha, hn]
      · simp [hk]
    · rename_i v hv
      rw [ih _ hr]
      by_cases hk : k = a
      · subst hk; simp [ha, hv]
      · simp [hk, mget_mput_ne m (f a v) hk]

/-! ### Memory: read after write -/

@[simp] theorem Memory.get_put_same (m : List Host.Cell) (a : Nat) (b : Byte) : Memory.get (Memory.put m a b) a = b := by
  unfold Memory.get Memory.put mgetD
  split
  · rename_i h; subst h; simp
  · simp

theorem Memory.get_put_ne (m : List Host.Cell) {a c : Nat} (b : Byte) (h : c ≠ a) :
    Memory.get (Memory.put m a b) c = Memory.get m c := by
  unfold Memory.get Memory.put mgetD
  split
  · rw [mget_mdel_ne m h]
  · rw [mget_mput_ne m b h]

/-- A write leaves every byte outside it alone. -/
theorem Memory.get_write_out (bs : List Byte) (m : List Host.Cell) (a c : Nat) (h : c < a ∨ a + bs.length ≤ c) :
    Memory.get (Memory.write m a bs) c = Memory.get m c := by
  induction bs generalizing m a with
  | nil => rfl
  | cons b r ih =>
    simp only [Memory.write]
    simp only [List.length_cons] at h
    rw [ih _ (a + 1) (by omega), Memory.get_put_ne m b (by omega)]

/-- A write is read back. -/
theorem Memory.get_write_in (bs : List Byte) (m : List Host.Cell) (a i : Nat) (h : i < bs.length) :
    Memory.get (Memory.write m a bs) (a + i) = bs[i] := by
  induction bs generalizing m a i with
  | nil => simp at h
  | cons b r ih =>
    simp only [Memory.write]
    cases i with
    | zero => rw [Memory.get_write_out r _ (a + 1) (a + 0) (by omega)]; simp
    | succ n =>
      simp only [List.length_cons] at h
      have := ih (Memory.put m a b) (a + 1) n (by omega)
      simpa [Nat.add_assoc, Nat.add_comm 1 n] using this

/-! ### Memory: the canonical form -/

/-- The canonical form as a property: keys rise strictly, and no byte listed is zero. -/
def Memory.Canon (m : List Host.Cell) : Prop := (m.map Prod.fst).Pairwise (· < ·) ∧ ∀ c ∈ m, c.2 ≠ 0

theorem Memory.wf_iff (m : List Host.Cell) : Memory.wf m = true ↔ Memory.Canon m := by
  unfold Memory.Canon
  induction m with
  | nil => simp [Memory.wf]
  | cons p r ih =>
    obtain ⟨j, b⟩ := p
    cases r with
    | nil => simp [Memory.wf]
    | cons q t =>
      obtain ⟨k, c⟩ := q
      simp only [Memory.wf, Bool.and_eq_true, decide_eq_true_eq, ih, List.map_cons, List.pairwise_cons, List.mem_cons,
        List.mem_map, forall_eq_or_imp]
      constructor
      · rintro ⟨⟨hb, hjk⟩, ⟨h1, h2⟩, hc, h3⟩
        refine ⟨⟨⟨hjk, ?_⟩, h1, h2⟩, hb, hc, h3⟩
        intro a ha
        exact Nat.lt_trans hjk (h1 a ha)
      · rintro ⟨⟨⟨hjk, -⟩, h1, h2⟩, hb, hc, h3⟩
        exact ⟨⟨hb, hjk⟩, ⟨h1, h2⟩, hc, h3⟩

theorem mem_mput_fst {α : Type} (m : AMap α) (k : Nat) (v : α) (p : Nat × α) (h : p ∈ mput m k v) :
    p = (k, v) ∨ p ∈ m := by
  induction m with
  | nil => simpa [mput] using h
  | cons q r ih =>
    obtain ⟨j, w⟩ := q
    simp only [mput] at h
    split at h
    · simpa using h
    · split at h
      · rcases List.mem_cons.mp h with h | h
        · exact .inl h
        · exact .inr (List.mem_cons_of_mem _ h)
      · simp only [List.mem_cons] at h ⊢
        rcases h with h | h
        · exact .inr (.inl h)
        · rcases ih h with h | h
          · exact .inl h
          · exact .inr (.inr h)

/-- Putting keeps the keys rising. -/
theorem mput_sorted {α : Type} (m : AMap α) (k : Nat) (v : α) (h : (m.map Prod.fst).Pairwise (· < ·)) :
    ((mput m k v).map Prod.fst).Pairwise (· < ·) := by
  induction m with
  | nil => simp [mput]
  | cons q r ih =>
    obtain ⟨j, w⟩ := q
    simp only [List.map_cons, List.pairwise_cons] at h
    simp only [mput]
    split
    · rename_i hk
      simp only [List.map_cons, List.pairwise_cons, List.mem_cons, forall_eq_or_imp]
      exact ⟨⟨hk, fun a ha => Nat.lt_trans hk (h.1 a ha)⟩, h.1, h.2⟩
    · split
      · rename_i hk
        subst hk
        simp only [List.map_cons, List.pairwise_cons]
        exact h
      · rename_i h1 h2
        simp only [List.map_cons, List.pairwise_cons]
        refine ⟨?_, ih h.2⟩
        intro a ha
        obtain ⟨p, hp, rfl⟩ := List.mem_map.mp ha
        rcases mem_mput_fst r k v p hp with e | e
        · subst e; exact Nat.lt_of_le_of_ne (Nat.not_lt.mp h1) (fun e => h2 e.symm)
        · exact h.1 p.1 (List.mem_map_of_mem (f := Prod.fst) e)

theorem mdel_eq_filter {α : Type} (m : AMap α) (k : Nat) : mdel m k = m.filter fun p => p.1 ≠ k := by
  induction m with
  | nil => rfl
  | cons q r ih =>
    obtain ⟨j, w⟩ := q
    simp only [mdel, List.filter_cons, ih]
    by_cases h : j = k <;> simp [h]

/-- Leaving cells out keeps the form. -/
theorem Memory.wf_filter (m : List Host.Cell) (p : Host.Cell → Bool) (h : Memory.wf m = true) :
    Memory.wf (m.filter p) = true := by
  rw [Memory.wf_iff] at h ⊢
  exact ⟨h.1.sublist (List.Sublist.map _ List.filter_sublist), fun c hc => h.2 c (List.mem_filter.mp hc).1⟩

/-- Writing a byte keeps the form. -/
theorem Memory.wf_put (m : List Host.Cell) (a : Nat) (b : Byte) (h : Memory.wf m = true) :
    Memory.wf (Memory.put m a b) = true := by
  unfold Memory.put
  split
  · rw [mdel_eq_filter]; exact Memory.wf_filter m _ h
  · rename_i hb
    rw [Memory.wf_iff] at h ⊢
    refine ⟨mput_sorted m a b h.1, ?_⟩
    intro c hc
    rcases mem_mput_fst m a b c hc with e | e
    · subst e; exact hb
    · exact h.2 c e

/-- Writing bytes keeps the form. -/
theorem Memory.wf_write (bs : List Byte) (m : List Host.Cell) (a : Nat) (h : Memory.wf m = true) :
    Memory.wf (Memory.write m a bs) = true := by
  induction bs generalizing m a with
  | nil => exact h
  | cons b r ih => exact ih _ _ (Memory.wf_put m a b h)

end Sys2Proof.Machine
end

