-- ==== Sys2Proof/Laws/State.lean ====
section
/-! SUPPORT. Laws of the state: each update changes its own field alone, and reads back what was written. -/

namespace Sys2Proof.Machine

/-! ### setDie -/

@[simp] theorem State.setDie_focus (s : State) (d : Nat) (v : Die) : (s.setDie d v).focus = s.focus := rfl
@[simp] theorem State.setDie_turnCore (s : State) (d : Nat) (v : Die) : (s.setDie d v).turnCore = s.turnCore := rfl
@[simp] theorem State.setDie_turns (s : State) (d : Nat) (v : Die) : (s.setDie d v).turns = s.turns := rfl
@[simp] theorem State.setDie_free (s : State) (d : Nat) (v : Die) : (s.setDie d v).free = s.free := rfl
@[simp] theorem State.setDie_nextId (s : State) (d : Nat) (v : Die) : (s.setDie d v).nextId = s.nextId := rfl
@[simp] theorem State.setDie_mem (s : State) (d : Nat) (v : Die) : (s.setDie d v).mem = s.mem := rfl
@[simp] theorem State.setDie_tags (s : State) (d : Nat) (v : Die) : (s.setDie d v).tags = s.tags := rfl
@[simp] theorem State.setDie_bad (s : State) (d : Nat) (v : Die) : (s.setDie d v).bad = s.bad := rfl
@[simp] theorem State.setDie_cores (s : State) (d : Nat) (v : Die) : (s.setDie d v).cores = s.cores := rfl
@[simp] theorem State.setDie_quads (s : State) (d : Nat) (v : Die) : (s.setDie d v).quads = s.quads := rfl
@[simp] theorem State.setDie_groups (s : State) (d : Nat) (v : Die) : (s.setDie d v).groups = s.groups := rfl
@[simp] theorem State.setDie_waves (s : State) (d : Nat) (v : Die) : (s.setDie d v).waves = s.waves := rfl
@[simp] theorem State.setDie_threads (s : State) (d : Nat) (v : Die) : (s.setDie d v).threads = s.threads := rfl
@[simp] theorem State.setDie_bundles (s : State) (d : Nat) (v : Die) : (s.setDie d v).bundles = s.bundles := rfl
@[simp] theorem State.setDie_flights (s : State) (d : Nat) (v : Die) : (s.setDie d v).flights = s.flights := rfl
@[simp] theorem State.setDie_trains (s : State) (d : Nat) (v : Die) : (s.setDie d v).trains = s.trains := rfl
@[simp] theorem State.setDie_saved (s : State) (d : Nat) (v : Die) : (s.setDie d v).saved = s.saved := rfl
@[simp] theorem State.setDie_reqs (s : State) (d : Nat) (v : Die) : (s.setDie d v).reqs = s.reqs := rfl
@[simp] theorem State.setDie_sessions (s : State) (d : Nat) (v : Die) : (s.setDie d v).sessions = s.sessions := rfl
@[simp] theorem State.setDie_debts (s : State) (d : Nat) (v : Die) : (s.setDie d v).debts = s.debts := rfl
@[simp] theorem State.setDie_links (s : State) (d : Nat) (v : Die) : (s.setDie d v).links = s.links := rfl
@[simp] theorem State.setDie_keels (s : State) (d : Nat) (v : Die) : (s.setDie d v).keels = s.keels := rfl
@[simp] theorem State.setDie_vasIds (s : State) (d : Nat) (v : Die) : (s.setDie d v).vasIds = s.vasIds := rfl
@[simp] theorem State.setDie_hostMem (s : State) (d : Nat) (v : Die) : (s.setDie d v).hostMem = s.hostMem := rfl
@[simp] theorem State.setDie_host (s : State) (d : Nat) (v : Die) : (s.setDie d v).host = s.host := rfl
@[simp] theorem State.setDie_read_core (s : State) (d : Nat) (v : Die) (i : Nat) : (s.setDie d v).core i = s.core i := rfl
@[simp] theorem State.setDie_read_quad (s : State) (d : Nat) (v : Die) (i : Nat) : (s.setDie d v).quad i = s.quad i := rfl
@[simp] theorem State.setDie_read_group (s : State) (d : Nat) (v : Die) (i : Nat) : (s.setDie d v).group i = s.group i := rfl
@[simp] theorem State.setDie_read_wave (s : State) (d : Nat) (v : Die) (i : Nat) : (s.setDie d v).wave i = s.wave i := rfl
@[simp] theorem State.setDie_read_thread (s : State) (d : Nat) (v : Die) (i : Nat) : (s.setDie d v).thread i = s.thread i := rfl
@[simp] theorem State.setDie_read_bundle (s : State) (d : Nat) (v : Die) (i : Nat) : (s.setDie d v).bundle i = s.bundle i := rfl
@[simp] theorem State.setDie_read_flight (s : State) (d : Nat) (v : Die) (i : Nat) : (s.setDie d v).flight i = s.flight i := rfl
@[simp] theorem State.setDie_read_train (s : State) (d : Nat) (v : Die) (i : Nat) : (s.setDie d v).train i = s.train i := rfl

/-! ### modDie -/

@[simp] theorem State.modDie_focus (s : State) (d : Nat) (f : Die → Die) : (s.modDie d f).focus = s.focus := rfl
@[simp] theorem State.modDie_turnCore (s : State) (d : Nat) (f : Die → Die) : (s.modDie d f).turnCore = s.turnCore := rfl
@[simp] theorem State.modDie_turns (s : State) (d : Nat) (f : Die → Die) : (s.modDie d f).turns = s.turns := rfl
@[simp] theorem State.modDie_free (s : State) (d : Nat) (f : Die → Die) : (s.modDie d f).free = s.free := rfl
@[simp] theorem State.modDie_nextId (s : State) (d : Nat) (f : Die → Die) : (s.modDie d f).nextId = s.nextId := rfl
@[simp] theorem State.modDie_mem (s : State) (d : Nat) (f : Die → Die) : (s.modDie d f).mem = s.mem := rfl
@[simp] theorem State.modDie_tags (s : State) (d : Nat) (f : Die → Die) : (s.modDie d f).tags = s.tags := rfl
@[simp] theorem State.modDie_bad (s : State) (d : Nat) (f : Die → Die) : (s.modDie d f).bad = s.bad := rfl
@[simp] theorem State.modDie_cores (s : State) (d : Nat) (f : Die → Die) : (s.modDie d f).cores = s.cores := rfl
@[simp] theorem State.modDie_quads (s : State) (d : Nat) (f : Die → Die) : (s.modDie d f).quads = s.quads := rfl
@[simp] theorem State.modDie_groups (s : State) (d : Nat) (f : Die → Die) : (s.modDie d f).groups = s.groups := rfl
@[simp] theorem State.modDie_waves (s : State) (d : Nat) (f : Die → Die) : (s.modDie d f).waves = s.waves := rfl
@[simp] theorem State.modDie_threads (s : State) (d : Nat) (f : Die → Die) : (s.modDie d f).threads = s.threads := rfl
@[simp] theorem State.modDie_bundles (s : State) (d : Nat) (f : Die → Die) : (s.modDie d f).bundles = s.bundles := rfl
@[simp] theorem State.modDie_flights (s : State) (d : Nat) (f : Die → Die) : (s.modDie d f).flights = s.flights := rfl
@[simp] theorem State.modDie_trains (s : State) (d : Nat) (f : Die → Die) : (s.modDie d f).trains = s.trains := rfl
@[simp] theorem State.modDie_saved (s : State) (d : Nat) (f : Die → Die) : (s.modDie d f).saved = s.saved := rfl
@[simp] theorem State.modDie_reqs (s : State) (d : Nat) (f : Die → Die) : (s.modDie d f).reqs = s.reqs := rfl
@[simp] theorem State.modDie_sessions (s : State) (d : Nat) (f : Die → Die) : (s.modDie d f).sessions = s.sessions := rfl
@[simp] theorem State.modDie_debts (s : State) (d : Nat) (f : Die → Die) : (s.modDie d f).debts = s.debts := rfl
@[simp] theorem State.modDie_links (s : State) (d : Nat) (f : Die → Die) : (s.modDie d f).links = s.links := rfl
@[simp] theorem State.modDie_keels (s : State) (d : Nat) (f : Die → Die) : (s.modDie d f).keels = s.keels := rfl
@[simp] theorem State.modDie_vasIds (s : State) (d : Nat) (f : Die → Die) : (s.modDie d f).vasIds = s.vasIds := rfl
@[simp] theorem State.modDie_hostMem (s : State) (d : Nat) (f : Die → Die) : (s.modDie d f).hostMem = s.hostMem := rfl
@[simp] theorem State.modDie_host (s : State) (d : Nat) (f : Die → Die) : (s.modDie d f).host = s.host := rfl
@[simp] theorem State.modDie_read_core (s : State) (d : Nat) (f : Die → Die) (i : Nat) : (s.modDie d f).core i = s.core i := rfl
@[simp] theorem State.modDie_read_quad (s : State) (d : Nat) (f : Die → Die) (i : Nat) : (s.modDie d f).quad i = s.quad i := rfl
@[simp] theorem State.modDie_read_group (s : State) (d : Nat) (f : Die → Die) (i : Nat) : (s.modDie d f).group i = s.group i := rfl
@[simp] theorem State.modDie_read_wave (s : State) (d : Nat) (f : Die → Die) (i : Nat) : (s.modDie d f).wave i = s.wave i := rfl
@[simp] theorem State.modDie_read_thread (s : State) (d : Nat) (f : Die → Die) (i : Nat) : (s.modDie d f).thread i = s.thread i := rfl
@[simp] theorem State.modDie_read_bundle (s : State) (d : Nat) (f : Die → Die) (i : Nat) : (s.modDie d f).bundle i = s.bundle i := rfl
@[simp] theorem State.modDie_read_flight (s : State) (d : Nat) (f : Die → Die) (i : Nat) : (s.modDie d f).flight i = s.flight i := rfl
@[simp] theorem State.modDie_read_train (s : State) (d : Nat) (f : Die → Die) (i : Nat) : (s.modDie d f).train i = s.train i := rfl

/-! ### setCore -/

@[simp] theorem State.setCore_focus (s : State) (c : Nat) (v : Core) : (s.setCore c v).focus = s.focus := rfl
@[simp] theorem State.setCore_turnCore (s : State) (c : Nat) (v : Core) : (s.setCore c v).turnCore = s.turnCore := rfl
@[simp] theorem State.setCore_turns (s : State) (c : Nat) (v : Core) : (s.setCore c v).turns = s.turns := rfl
@[simp] theorem State.setCore_free (s : State) (c : Nat) (v : Core) : (s.setCore c v).free = s.free := rfl
@[simp] theorem State.setCore_nextId (s : State) (c : Nat) (v : Core) : (s.setCore c v).nextId = s.nextId := rfl
@[simp] theorem State.setCore_mem (s : State) (c : Nat) (v : Core) : (s.setCore c v).mem = s.mem := rfl
@[simp] theorem State.setCore_tags (s : State) (c : Nat) (v : Core) : (s.setCore c v).tags = s.tags := rfl
@[simp] theorem State.setCore_bad (s : State) (c : Nat) (v : Core) : (s.setCore c v).bad = s.bad := rfl
@[simp] theorem State.setCore_dies (s : State) (c : Nat) (v : Core) : (s.setCore c v).dies = s.dies := rfl
@[simp] theorem State.setCore_quads (s : State) (c : Nat) (v : Core) : (s.setCore c v).quads = s.quads := rfl
@[simp] theorem State.setCore_groups (s : State) (c : Nat) (v : Core) : (s.setCore c v).groups = s.groups := rfl
@[simp] theorem State.setCore_waves (s : State) (c : Nat) (v : Core) : (s.setCore c v).waves = s.waves := rfl
@[simp] theorem State.setCore_threads (s : State) (c : Nat) (v : Core) : (s.setCore c v).threads = s.threads := rfl
@[simp] theorem State.setCore_bundles (s : State) (c : Nat) (v : Core) : (s.setCore c v).bundles = s.bundles := rfl
@[simp] theorem State.setCore_flights (s : State) (c : Nat) (v : Core) : (s.setCore c v).flights = s.flights := rfl
@[simp] theorem State.setCore_trains (s : State) (c : Nat) (v : Core) : (s.setCore c v).trains = s.trains := rfl
@[simp] theorem State.setCore_saved (s : State) (c : Nat) (v : Core) : (s.setCore c v).saved = s.saved := rfl
@[simp] theorem State.setCore_reqs (s : State) (c : Nat) (v : Core) : (s.setCore c v).reqs = s.reqs := rfl
@[simp] theorem State.setCore_sessions (s : State) (c : Nat) (v : Core) : (s.setCore c v).sessions = s.sessions := rfl
@[simp] theorem State.setCore_debts (s : State) (c : Nat) (v : Core) : (s.setCore c v).debts = s.debts := rfl
@[simp] theorem State.setCore_links (s : State) (c : Nat) (v : Core) : (s.setCore c v).links = s.links := rfl
@[simp] theorem State.setCore_keels (s : State) (c : Nat) (v : Core) : (s.setCore c v).keels = s.keels := rfl
@[simp] theorem State.setCore_vasIds (s : State) (c : Nat) (v : Core) : (s.setCore c v).vasIds = s.vasIds := rfl
@[simp] theorem State.setCore_hostMem (s : State) (c : Nat) (v : Core) : (s.setCore c v).hostMem = s.hostMem := rfl
@[simp] theorem State.setCore_host (s : State) (c : Nat) (v : Core) : (s.setCore c v).host = s.host := rfl
@[simp] theorem State.setCore_read_die (s : State) (c : Nat) (v : Core) (i : Nat) : (s.setCore c v).die i = s.die i := rfl
@[simp] theorem State.setCore_read_quad (s : State) (c : Nat) (v : Core) (i : Nat) : (s.setCore c v).quad i = s.quad i := rfl
@[simp] theorem State.setCore_read_group (s : State) (c : Nat) (v : Core) (i : Nat) : (s.setCore c v).group i = s.group i := rfl
@[simp] theorem State.setCore_read_wave (s : State) (c : Nat) (v : Core) (i : Nat) : (s.setCore c v).wave i = s.wave i := rfl
@[simp] theorem State.setCore_read_thread (s : State) (c : Nat) (v : Core) (i : Nat) : (s.setCore c v).thread i = s.thread i := rfl
@[simp] theorem State.setCore_read_bundle (s : State) (c : Nat) (v : Core) (i : Nat) : (s.setCore c v).bundle i = s.bundle i := rfl
@[simp] theorem State.setCore_read_flight (s : State) (c : Nat) (v : Core) (i : Nat) : (s.setCore c v).flight i = s.flight i := rfl
@[simp] theorem State.setCore_read_train (s : State) (c : Nat) (v : Core) (i : Nat) : (s.setCore c v).train i = s.train i := rfl

/-! ### modCore -/

@[simp] theorem State.modCore_focus (s : State) (c : Nat) (f : Core → Core) : (s.modCore c f).focus = s.focus := rfl
@[simp] theorem State.modCore_turnCore (s : State) (c : Nat) (f : Core → Core) : (s.modCore c f).turnCore = s.turnCore := rfl
@[simp] theorem State.modCore_turns (s : State) (c : Nat) (f : Core → Core) : (s.modCore c f).turns = s.turns := rfl
@[simp] theorem State.modCore_free (s : State) (c : Nat) (f : Core → Core) : (s.modCore c f).free = s.free := rfl
@[simp] theorem State.modCore_nextId (s : State) (c : Nat) (f : Core → Core) : (s.modCore c f).nextId = s.nextId := rfl
@[simp] theorem State.modCore_mem (s : State) (c : Nat) (f : Core → Core) : (s.modCore c f).mem = s.mem := rfl
@[simp] theorem State.modCore_tags (s : State) (c : Nat) (f : Core → Core) : (s.modCore c f).tags = s.tags := rfl
@[simp] theorem State.modCore_bad (s : State) (c : Nat) (f : Core → Core) : (s.modCore c f).bad = s.bad := rfl
@[simp] theorem State.modCore_dies (s : State) (c : Nat) (f : Core → Core) : (s.modCore c f).dies = s.dies := rfl
@[simp] theorem State.modCore_quads (s : State) (c : Nat) (f : Core → Core) : (s.modCore c f).quads = s.quads := rfl
@[simp] theorem State.modCore_groups (s : State) (c : Nat) (f : Core → Core) : (s.modCore c f).groups = s.groups := rfl
@[simp] theorem State.modCore_waves (s : State) (c : Nat) (f : Core → Core) : (s.modCore c f).waves = s.waves := rfl
@[simp] theorem State.modCore_threads (s : State) (c : Nat) (f : Core → Core) : (s.modCore c f).threads = s.threads := rfl
@[simp] theorem State.modCore_bundles (s : State) (c : Nat) (f : Core → Core) : (s.modCore c f).bundles = s.bundles := rfl
@[simp] theorem State.modCore_flights (s : State) (c : Nat) (f : Core → Core) : (s.modCore c f).flights = s.flights := rfl
@[simp] theorem State.modCore_trains (s : State) (c : Nat) (f : Core → Core) : (s.modCore c f).trains = s.trains := rfl
@[simp] theorem State.modCore_saved (s : State) (c : Nat) (f : Core → Core) : (s.modCore c f).saved = s.saved := rfl
@[simp] theorem State.modCore_reqs (s : State) (c : Nat) (f : Core → Core) : (s.modCore c f).reqs = s.reqs := rfl
@[simp] theorem State.modCore_sessions (s : State) (c : Nat) (f : Core → Core) : (s.modCore c f).sessions = s.sessions := rfl
@[simp] theorem State.modCore_debts (s : State) (c : Nat) (f : Core → Core) : (s.modCore c f).debts = s.debts := rfl
@[simp] theorem State.modCore_links (s : State) (c : Nat) (f : Core → Core) : (s.modCore c f).links = s.links := rfl
@[simp] theorem State.modCore_keels (s : State) (c : Nat) (f : Core → Core) : (s.modCore c f).keels = s.keels := rfl
@[simp] theorem State.modCore_vasIds (s : State) (c : Nat) (f : Core → Core) : (s.modCore c f).vasIds = s.vasIds := rfl
@[simp] theorem State.modCore_hostMem (s : State) (c : Nat) (f : Core → Core) : (s.modCore c f).hostMem = s.hostMem := rfl
@[simp] theorem State.modCore_host (s : State) (c : Nat) (f : Core → Core) : (s.modCore c f).host = s.host := rfl
@[simp] theorem State.modCore_read_die (s : State) (c : Nat) (f : Core → Core) (i : Nat) : (s.modCore c f).die i = s.die i := rfl
@[simp] theorem State.modCore_read_quad (s : State) (c : Nat) (f : Core → Core) (i : Nat) : (s.modCore c f).quad i = s.quad i := rfl
@[simp] theorem State.modCore_read_group (s : State) (c : Nat) (f : Core → Core) (i : Nat) : (s.modCore c f).group i = s.group i := rfl
@[simp] theorem State.modCore_read_wave (s : State) (c : Nat) (f : Core → Core) (i : Nat) : (s.modCore c f).wave i = s.wave i := rfl
@[simp] theorem State.modCore_read_thread (s : State) (c : Nat) (f : Core → Core) (i : Nat) : (s.modCore c f).thread i = s.thread i := rfl
@[simp] theorem State.modCore_read_bundle (s : State) (c : Nat) (f : Core → Core) (i : Nat) : (s.modCore c f).bundle i = s.bundle i := rfl
@[simp] theorem State.modCore_read_flight (s : State) (c : Nat) (f : Core → Core) (i : Nat) : (s.modCore c f).flight i = s.flight i := rfl
@[simp] theorem State.modCore_read_train (s : State) (c : Nat) (f : Core → Core) (i : Nat) : (s.modCore c f).train i = s.train i := rfl

/-! ### setQuad -/

@[simp] theorem State.setQuad_focus (s : State) (q : Nat) (v : Quad) : (s.setQuad q v).focus = s.focus := rfl
@[simp] theorem State.setQuad_turnCore (s : State) (q : Nat) (v : Quad) : (s.setQuad q v).turnCore = s.turnCore := rfl
@[simp] theorem State.setQuad_turns (s : State) (q : Nat) (v : Quad) : (s.setQuad q v).turns = s.turns := rfl
@[simp] theorem State.setQuad_free (s : State) (q : Nat) (v : Quad) : (s.setQuad q v).free = s.free := rfl
@[simp] theorem State.setQuad_nextId (s : State) (q : Nat) (v : Quad) : (s.setQuad q v).nextId = s.nextId := rfl
@[simp] theorem State.setQuad_mem (s : State) (q : Nat) (v : Quad) : (s.setQuad q v).mem = s.mem := rfl
@[simp] theorem State.setQuad_tags (s : State) (q : Nat) (v : Quad) : (s.setQuad q v).tags = s.tags := rfl
@[simp] theorem State.setQuad_bad (s : State) (q : Nat) (v : Quad) : (s.setQuad q v).bad = s.bad := rfl
@[simp] theorem State.setQuad_dies (s : State) (q : Nat) (v : Quad) : (s.setQuad q v).dies = s.dies := rfl
@[simp] theorem State.setQuad_cores (s : State) (q : Nat) (v : Quad) : (s.setQuad q v).cores = s.cores := rfl
@[simp] theorem State.setQuad_groups (s : State) (q : Nat) (v : Quad) : (s.setQuad q v).groups = s.groups := rfl
@[simp] theorem State.setQuad_waves (s : State) (q : Nat) (v : Quad) : (s.setQuad q v).waves = s.waves := rfl
@[simp] theorem State.setQuad_threads (s : State) (q : Nat) (v : Quad) : (s.setQuad q v).threads = s.threads := rfl
@[simp] theorem State.setQuad_bundles (s : State) (q : Nat) (v : Quad) : (s.setQuad q v).bundles = s.bundles := rfl
@[simp] theorem State.setQuad_flights (s : State) (q : Nat) (v : Quad) : (s.setQuad q v).flights = s.flights := rfl
@[simp] theorem State.setQuad_trains (s : State) (q : Nat) (v : Quad) : (s.setQuad q v).trains = s.trains := rfl
@[simp] theorem State.setQuad_saved (s : State) (q : Nat) (v : Quad) : (s.setQuad q v).saved = s.saved := rfl
@[simp] theorem State.setQuad_reqs (s : State) (q : Nat) (v : Quad) : (s.setQuad q v).reqs = s.reqs := rfl
@[simp] theorem State.setQuad_sessions (s : State) (q : Nat) (v : Quad) : (s.setQuad q v).sessions = s.sessions := rfl
@[simp] theorem State.setQuad_debts (s : State) (q : Nat) (v : Quad) : (s.setQuad q v).debts = s.debts := rfl
@[simp] theorem State.setQuad_links (s : State) (q : Nat) (v : Quad) : (s.setQuad q v).links = s.links := rfl
@[simp] theorem State.setQuad_keels (s : State) (q : Nat) (v : Quad) : (s.setQuad q v).keels = s.keels := rfl
@[simp] theorem State.setQuad_vasIds (s : State) (q : Nat) (v : Quad) : (s.setQuad q v).vasIds = s.vasIds := rfl
@[simp] theorem State.setQuad_hostMem (s : State) (q : Nat) (v : Quad) : (s.setQuad q v).hostMem = s.hostMem := rfl
@[simp] theorem State.setQuad_host (s : State) (q : Nat) (v : Quad) : (s.setQuad q v).host = s.host := rfl
@[simp] theorem State.setQuad_read_die (s : State) (q : Nat) (v : Quad) (i : Nat) : (s.setQuad q v).die i = s.die i := rfl
@[simp] theorem State.setQuad_read_core (s : State) (q : Nat) (v : Quad) (i : Nat) : (s.setQuad q v).core i = s.core i := rfl
@[simp] theorem State.setQuad_read_group (s : State) (q : Nat) (v : Quad) (i : Nat) : (s.setQuad q v).group i = s.group i := rfl
@[simp] theorem State.setQuad_read_wave (s : State) (q : Nat) (v : Quad) (i : Nat) : (s.setQuad q v).wave i = s.wave i := rfl
@[simp] theorem State.setQuad_read_thread (s : State) (q : Nat) (v : Quad) (i : Nat) : (s.setQuad q v).thread i = s.thread i := rfl
@[simp] theorem State.setQuad_read_bundle (s : State) (q : Nat) (v : Quad) (i : Nat) : (s.setQuad q v).bundle i = s.bundle i := rfl
@[simp] theorem State.setQuad_read_flight (s : State) (q : Nat) (v : Quad) (i : Nat) : (s.setQuad q v).flight i = s.flight i := rfl
@[simp] theorem State.setQuad_read_train (s : State) (q : Nat) (v : Quad) (i : Nat) : (s.setQuad q v).train i = s.train i := rfl

/-! ### modQuad -/

@[simp] theorem State.modQuad_focus (s : State) (q : Nat) (f : Quad → Quad) : (s.modQuad q f).focus = s.focus := rfl
@[simp] theorem State.modQuad_turnCore (s : State) (q : Nat) (f : Quad → Quad) : (s.modQuad q f).turnCore = s.turnCore := rfl
@[simp] theorem State.modQuad_turns (s : State) (q : Nat) (f : Quad → Quad) : (s.modQuad q f).turns = s.turns := rfl
@[simp] theorem State.modQuad_free (s : State) (q : Nat) (f : Quad → Quad) : (s.modQuad q f).free = s.free := rfl
@[simp] theorem State.modQuad_nextId (s : State) (q : Nat) (f : Quad → Quad) : (s.modQuad q f).nextId = s.nextId := rfl
@[simp] theorem State.modQuad_mem (s : State) (q : Nat) (f : Quad → Quad) : (s.modQuad q f).mem = s.mem := rfl
@[simp] theorem State.modQuad_tags (s : State) (q : Nat) (f : Quad → Quad) : (s.modQuad q f).tags = s.tags := rfl
@[simp] theorem State.modQuad_bad (s : State) (q : Nat) (f : Quad → Quad) : (s.modQuad q f).bad = s.bad := rfl
@[simp] theorem State.modQuad_dies (s : State) (q : Nat) (f : Quad → Quad) : (s.modQuad q f).dies = s.dies := rfl
@[simp] theorem State.modQuad_cores (s : State) (q : Nat) (f : Quad → Quad) : (s.modQuad q f).cores = s.cores := rfl
@[simp] theorem State.modQuad_groups (s : State) (q : Nat) (f : Quad → Quad) : (s.modQuad q f).groups = s.groups := rfl
@[simp] theorem State.modQuad_waves (s : State) (q : Nat) (f : Quad → Quad) : (s.modQuad q f).waves = s.waves := rfl
@[simp] theorem State.modQuad_threads (s : State) (q : Nat) (f : Quad → Quad) : (s.modQuad q f).threads = s.threads := rfl
@[simp] theorem State.modQuad_bundles (s : State) (q : Nat) (f : Quad → Quad) : (s.modQuad q f).bundles = s.bundles := rfl
@[simp] theorem State.modQuad_flights (s : State) (q : Nat) (f : Quad → Quad) : (s.modQuad q f).flights = s.flights := rfl
@[simp] theorem State.modQuad_trains (s : State) (q : Nat) (f : Quad → Quad) : (s.modQuad q f).trains = s.trains := rfl
@[simp] theorem State.modQuad_saved (s : State) (q : Nat) (f : Quad → Quad) : (s.modQuad q f).saved = s.saved := rfl
@[simp] theorem State.modQuad_reqs (s : State) (q : Nat) (f : Quad → Quad) : (s.modQuad q f).reqs = s.reqs := rfl
@[simp] theorem State.modQuad_sessions (s : State) (q : Nat) (f : Quad → Quad) : (s.modQuad q f).sessions = s.sessions := rfl
@[simp] theorem State.modQuad_debts (s : State) (q : Nat) (f : Quad → Quad) : (s.modQuad q f).debts = s.debts := rfl
@[simp] theorem State.modQuad_links (s : State) (q : Nat) (f : Quad → Quad) : (s.modQuad q f).links = s.links := rfl
@[simp] theorem State.modQuad_keels (s : State) (q : Nat) (f : Quad → Quad) : (s.modQuad q f).keels = s.keels := rfl
@[simp] theorem State.modQuad_vasIds (s : State) (q : Nat) (f : Quad → Quad) : (s.modQuad q f).vasIds = s.vasIds := rfl
@[simp] theorem State.modQuad_hostMem (s : State) (q : Nat) (f : Quad → Quad) : (s.modQuad q f).hostMem = s.hostMem := rfl
@[simp] theorem State.modQuad_host (s : State) (q : Nat) (f : Quad → Quad) : (s.modQuad q f).host = s.host := rfl
@[simp] theorem State.modQuad_read_die (s : State) (q : Nat) (f : Quad → Quad) (i : Nat) : (s.modQuad q f).die i = s.die i := rfl
@[simp] theorem State.modQuad_read_core (s : State) (q : Nat) (f : Quad → Quad) (i : Nat) : (s.modQuad q f).core i = s.core i := rfl
@[simp] theorem State.modQuad_read_group (s : State) (q : Nat) (f : Quad → Quad) (i : Nat) : (s.modQuad q f).group i = s.group i := rfl
@[simp] theorem State.modQuad_read_wave (s : State) (q : Nat) (f : Quad → Quad) (i : Nat) : (s.modQuad q f).wave i = s.wave i := rfl
@[simp] theorem State.modQuad_read_thread (s : State) (q : Nat) (f : Quad → Quad) (i : Nat) : (s.modQuad q f).thread i = s.thread i := rfl
@[simp] theorem State.modQuad_read_bundle (s : State) (q : Nat) (f : Quad → Quad) (i : Nat) : (s.modQuad q f).bundle i = s.bundle i := rfl
@[simp] theorem State.modQuad_read_flight (s : State) (q : Nat) (f : Quad → Quad) (i : Nat) : (s.modQuad q f).flight i = s.flight i := rfl
@[simp] theorem State.modQuad_read_train (s : State) (q : Nat) (f : Quad → Quad) (i : Nat) : (s.modQuad q f).train i = s.train i := rfl

/-! ### setGroup -/

@[simp] theorem State.setGroup_focus (s : State) (g : Nat) (v : Group) : (s.setGroup g v).focus = s.focus := rfl
@[simp] theorem State.setGroup_turnCore (s : State) (g : Nat) (v : Group) : (s.setGroup g v).turnCore = s.turnCore := rfl
@[simp] theorem State.setGroup_turns (s : State) (g : Nat) (v : Group) : (s.setGroup g v).turns = s.turns := rfl
@[simp] theorem State.setGroup_free (s : State) (g : Nat) (v : Group) : (s.setGroup g v).free = s.free := rfl
@[simp] theorem State.setGroup_nextId (s : State) (g : Nat) (v : Group) : (s.setGroup g v).nextId = s.nextId := rfl
@[simp] theorem State.setGroup_mem (s : State) (g : Nat) (v : Group) : (s.setGroup g v).mem = s.mem := rfl
@[simp] theorem State.setGroup_tags (s : State) (g : Nat) (v : Group) : (s.setGroup g v).tags = s.tags := rfl
@[simp] theorem State.setGroup_bad (s : State) (g : Nat) (v : Group) : (s.setGroup g v).bad = s.bad := rfl
@[simp] theorem State.setGroup_dies (s : State) (g : Nat) (v : Group) : (s.setGroup g v).dies = s.dies := rfl
@[simp] theorem State.setGroup_cores (s : State) (g : Nat) (v : Group) : (s.setGroup g v).cores = s.cores := rfl
@[simp] theorem State.setGroup_quads (s : State) (g : Nat) (v : Group) : (s.setGroup g v).quads = s.quads := rfl
@[simp] theorem State.setGroup_waves (s : State) (g : Nat) (v : Group) : (s.setGroup g v).waves = s.waves := rfl
@[simp] theorem State.setGroup_threads (s : State) (g : Nat) (v : Group) : (s.setGroup g v).threads = s.threads := rfl
@[simp] theorem State.setGroup_bundles (s : State) (g : Nat) (v : Group) : (s.setGroup g v).bundles = s.bundles := rfl
@[simp] theorem State.setGroup_flights (s : State) (g : Nat) (v : Group) : (s.setGroup g v).flights = s.flights := rfl
@[simp] theorem State.setGroup_trains (s : State) (g : Nat) (v : Group) : (s.setGroup g v).trains = s.trains := rfl
@[simp] theorem State.setGroup_saved (s : State) (g : Nat) (v : Group) : (s.setGroup g v).saved = s.saved := rfl
@[simp] theorem State.setGroup_reqs (s : State) (g : Nat) (v : Group) : (s.setGroup g v).reqs = s.reqs := rfl
@[simp] theorem State.setGroup_sessions (s : State) (g : Nat) (v : Group) : (s.setGroup g v).sessions = s.sessions := rfl
@[simp] theorem State.setGroup_debts (s : State) (g : Nat) (v : Group) : (s.setGroup g v).debts = s.debts := rfl
@[simp] theorem State.setGroup_links (s : State) (g : Nat) (v : Group) : (s.setGroup g v).links = s.links := rfl
@[simp] theorem State.setGroup_keels (s : State) (g : Nat) (v : Group) : (s.setGroup g v).keels = s.keels := rfl
@[simp] theorem State.setGroup_vasIds (s : State) (g : Nat) (v : Group) : (s.setGroup g v).vasIds = s.vasIds := rfl
@[simp] theorem State.setGroup_hostMem (s : State) (g : Nat) (v : Group) : (s.setGroup g v).hostMem = s.hostMem := rfl
@[simp] theorem State.setGroup_host (s : State) (g : Nat) (v : Group) : (s.setGroup g v).host = s.host := rfl
@[simp] theorem State.setGroup_read_die (s : State) (g : Nat) (v : Group) (i : Nat) : (s.setGroup g v).die i = s.die i := rfl
@[simp] theorem State.setGroup_read_core (s : State) (g : Nat) (v : Group) (i : Nat) : (s.setGroup g v).core i = s.core i := rfl
@[simp] theorem State.setGroup_read_quad (s : State) (g : Nat) (v : Group) (i : Nat) : (s.setGroup g v).quad i = s.quad i := rfl
@[simp] theorem State.setGroup_read_wave (s : State) (g : Nat) (v : Group) (i : Nat) : (s.setGroup g v).wave i = s.wave i := rfl
@[simp] theorem State.setGroup_read_thread (s : State) (g : Nat) (v : Group) (i : Nat) : (s.setGroup g v).thread i = s.thread i := rfl
@[simp] theorem State.setGroup_read_bundle (s : State) (g : Nat) (v : Group) (i : Nat) : (s.setGroup g v).bundle i = s.bundle i := rfl
@[simp] theorem State.setGroup_read_flight (s : State) (g : Nat) (v : Group) (i : Nat) : (s.setGroup g v).flight i = s.flight i := rfl
@[simp] theorem State.setGroup_read_train (s : State) (g : Nat) (v : Group) (i : Nat) : (s.setGroup g v).train i = s.train i := rfl

/-! ### modGroup -/

@[simp] theorem State.modGroup_focus (s : State) (g : Nat) (f : Group → Group) : (s.modGroup g f).focus = s.focus := rfl
@[simp] theorem State.modGroup_turnCore (s : State) (g : Nat) (f : Group → Group) : (s.modGroup g f).turnCore = s.turnCore := rfl
@[simp] theorem State.modGroup_turns (s : State) (g : Nat) (f : Group → Group) : (s.modGroup g f).turns = s.turns := rfl
@[simp] theorem State.modGroup_free (s : State) (g : Nat) (f : Group → Group) : (s.modGroup g f).free = s.free := rfl
@[simp] theorem State.modGroup_nextId (s : State) (g : Nat) (f : Group → Group) : (s.modGroup g f).nextId = s.nextId := rfl
@[simp] theorem State.modGroup_mem (s : State) (g : Nat) (f : Group → Group) : (s.modGroup g f).mem = s.mem := rfl
@[simp] theorem State.modGroup_tags (s : State) (g : Nat) (f : Group → Group) : (s.modGroup g f).tags = s.tags := rfl
@[simp] theorem State.modGroup_bad (s : State) (g : Nat) (f : Group → Group) : (s.modGroup g f).bad = s.bad := rfl
@[simp] theorem State.modGroup_dies (s : State) (g : Nat) (f : Group → Group) : (s.modGroup g f).dies = s.dies := rfl
@[simp] theorem State.modGroup_cores (s : State) (g : Nat) (f : Group → Group) : (s.modGroup g f).cores = s.cores := rfl
@[simp] theorem State.modGroup_quads (s : State) (g : Nat) (f : Group → Group) : (s.modGroup g f).quads = s.quads := rfl
@[simp] theorem State.modGroup_waves (s : State) (g : Nat) (f : Group → Group) : (s.modGroup g f).waves = s.waves := rfl
@[simp] theorem State.modGroup_threads (s : State) (g : Nat) (f : Group → Group) : (s.modGroup g f).threads = s.threads := rfl
@[simp] theorem State.modGroup_bundles (s : State) (g : Nat) (f : Group → Group) : (s.modGroup g f).bundles = s.bundles := rfl
@[simp] theorem State.modGroup_flights (s : State) (g : Nat) (f : Group → Group) : (s.modGroup g f).flights = s.flights := rfl
@[simp] theorem State.modGroup_trains (s : State) (g : Nat) (f : Group → Group) : (s.modGroup g f).trains = s.trains := rfl
@[simp] theorem State.modGroup_saved (s : State) (g : Nat) (f : Group → Group) : (s.modGroup g f).saved = s.saved := rfl
@[simp] theorem State.modGroup_reqs (s : State) (g : Nat) (f : Group → Group) : (s.modGroup g f).reqs = s.reqs := rfl
@[simp] theorem State.modGroup_sessions (s : State) (g : Nat) (f : Group → Group) : (s.modGroup g f).sessions = s.sessions := rfl
@[simp] theorem State.modGroup_debts (s : State) (g : Nat) (f : Group → Group) : (s.modGroup g f).debts = s.debts := rfl
@[simp] theorem State.modGroup_links (s : State) (g : Nat) (f : Group → Group) : (s.modGroup g f).links = s.links := rfl
@[simp] theorem State.modGroup_keels (s : State) (g : Nat) (f : Group → Group) : (s.modGroup g f).keels = s.keels := rfl
@[simp] theorem State.modGroup_vasIds (s : State) (g : Nat) (f : Group → Group) : (s.modGroup g f).vasIds = s.vasIds := rfl
@[simp] theorem State.modGroup_hostMem (s : State) (g : Nat) (f : Group → Group) : (s.modGroup g f).hostMem = s.hostMem := rfl
@[simp] theorem State.modGroup_host (s : State) (g : Nat) (f : Group → Group) : (s.modGroup g f).host = s.host := rfl
@[simp] theorem State.modGroup_read_die (s : State) (g : Nat) (f : Group → Group) (i : Nat) : (s.modGroup g f).die i = s.die i := rfl
@[simp] theorem State.modGroup_read_core (s : State) (g : Nat) (f : Group → Group) (i : Nat) : (s.modGroup g f).core i = s.core i := rfl
@[simp] theorem State.modGroup_read_quad (s : State) (g : Nat) (f : Group → Group) (i : Nat) : (s.modGroup g f).quad i = s.quad i := rfl
@[simp] theorem State.modGroup_read_wave (s : State) (g : Nat) (f : Group → Group) (i : Nat) : (s.modGroup g f).wave i = s.wave i := rfl
@[simp] theorem State.modGroup_read_thread (s : State) (g : Nat) (f : Group → Group) (i : Nat) : (s.modGroup g f).thread i = s.thread i := rfl
@[simp] theorem State.modGroup_read_bundle (s : State) (g : Nat) (f : Group → Group) (i : Nat) : (s.modGroup g f).bundle i = s.bundle i := rfl
@[simp] theorem State.modGroup_read_flight (s : State) (g : Nat) (f : Group → Group) (i : Nat) : (s.modGroup g f).flight i = s.flight i := rfl
@[simp] theorem State.modGroup_read_train (s : State) (g : Nat) (f : Group → Group) (i : Nat) : (s.modGroup g f).train i = s.train i := rfl

/-! ### setWave -/

@[simp] theorem State.setWave_focus (s : State) (w : Nat) (v : Wave) : (s.setWave w v).focus = s.focus := rfl
@[simp] theorem State.setWave_turnCore (s : State) (w : Nat) (v : Wave) : (s.setWave w v).turnCore = s.turnCore := rfl
@[simp] theorem State.setWave_turns (s : State) (w : Nat) (v : Wave) : (s.setWave w v).turns = s.turns := rfl
@[simp] theorem State.setWave_free (s : State) (w : Nat) (v : Wave) : (s.setWave w v).free = s.free := rfl
@[simp] theorem State.setWave_nextId (s : State) (w : Nat) (v : Wave) : (s.setWave w v).nextId = s.nextId := rfl
@[simp] theorem State.setWave_mem (s : State) (w : Nat) (v : Wave) : (s.setWave w v).mem = s.mem := rfl
@[simp] theorem State.setWave_tags (s : State) (w : Nat) (v : Wave) : (s.setWave w v).tags = s.tags := rfl
@[simp] theorem State.setWave_bad (s : State) (w : Nat) (v : Wave) : (s.setWave w v).bad = s.bad := rfl
@[simp] theorem State.setWave_dies (s : State) (w : Nat) (v : Wave) : (s.setWave w v).dies = s.dies := rfl
@[simp] theorem State.setWave_cores (s : State) (w : Nat) (v : Wave) : (s.setWave w v).cores = s.cores := rfl
@[simp] theorem State.setWave_quads (s : State) (w : Nat) (v : Wave) : (s.setWave w v).quads = s.quads := rfl
@[simp] theorem State.setWave_groups (s : State) (w : Nat) (v : Wave) : (s.setWave w v).groups = s.groups := rfl
@[simp] theorem State.setWave_threads (s : State) (w : Nat) (v : Wave) : (s.setWave w v).threads = s.threads := rfl
@[simp] theorem State.setWave_bundles (s : State) (w : Nat) (v : Wave) : (s.setWave w v).bundles = s.bundles := rfl
@[simp] theorem State.setWave_flights (s : State) (w : Nat) (v : Wave) : (s.setWave w v).flights = s.flights := rfl
@[simp] theorem State.setWave_trains (s : State) (w : Nat) (v : Wave) : (s.setWave w v).trains = s.trains := rfl
@[simp] theorem State.setWave_saved (s : State) (w : Nat) (v : Wave) : (s.setWave w v).saved = s.saved := rfl
@[simp] theorem State.setWave_reqs (s : State) (w : Nat) (v : Wave) : (s.setWave w v).reqs = s.reqs := rfl
@[simp] theorem State.setWave_sessions (s : State) (w : Nat) (v : Wave) : (s.setWave w v).sessions = s.sessions := rfl
@[simp] theorem State.setWave_debts (s : State) (w : Nat) (v : Wave) : (s.setWave w v).debts = s.debts := rfl
@[simp] theorem State.setWave_links (s : State) (w : Nat) (v : Wave) : (s.setWave w v).links = s.links := rfl
@[simp] theorem State.setWave_keels (s : State) (w : Nat) (v : Wave) : (s.setWave w v).keels = s.keels := rfl
@[simp] theorem State.setWave_vasIds (s : State) (w : Nat) (v : Wave) : (s.setWave w v).vasIds = s.vasIds := rfl
@[simp] theorem State.setWave_hostMem (s : State) (w : Nat) (v : Wave) : (s.setWave w v).hostMem = s.hostMem := rfl
@[simp] theorem State.setWave_host (s : State) (w : Nat) (v : Wave) : (s.setWave w v).host = s.host := rfl
@[simp] theorem State.setWave_read_die (s : State) (w : Nat) (v : Wave) (i : Nat) : (s.setWave w v).die i = s.die i := rfl
@[simp] theorem State.setWave_read_core (s : State) (w : Nat) (v : Wave) (i : Nat) : (s.setWave w v).core i = s.core i := rfl
@[simp] theorem State.setWave_read_quad (s : State) (w : Nat) (v : Wave) (i : Nat) : (s.setWave w v).quad i = s.quad i := rfl
@[simp] theorem State.setWave_read_group (s : State) (w : Nat) (v : Wave) (i : Nat) : (s.setWave w v).group i = s.group i := rfl
@[simp] theorem State.setWave_read_thread (s : State) (w : Nat) (v : Wave) (i : Nat) : (s.setWave w v).thread i = s.thread i := rfl
@[simp] theorem State.setWave_read_bundle (s : State) (w : Nat) (v : Wave) (i : Nat) : (s.setWave w v).bundle i = s.bundle i := rfl
@[simp] theorem State.setWave_read_flight (s : State) (w : Nat) (v : Wave) (i : Nat) : (s.setWave w v).flight i = s.flight i := rfl
@[simp] theorem State.setWave_read_train (s : State) (w : Nat) (v : Wave) (i : Nat) : (s.setWave w v).train i = s.train i := rfl

/-! ### setThread -/

@[simp] theorem State.setThread_focus (s : State) (t : Nat) (v : Thread) : (s.setThread t v).focus = s.focus := rfl
@[simp] theorem State.setThread_turnCore (s : State) (t : Nat) (v : Thread) : (s.setThread t v).turnCore = s.turnCore := rfl
@[simp] theorem State.setThread_turns (s : State) (t : Nat) (v : Thread) : (s.setThread t v).turns = s.turns := rfl
@[simp] theorem State.setThread_free (s : State) (t : Nat) (v : Thread) : (s.setThread t v).free = s.free := rfl
@[simp] theorem State.setThread_nextId (s : State) (t : Nat) (v : Thread) : (s.setThread t v).nextId = s.nextId := rfl
@[simp] theorem State.setThread_mem (s : State) (t : Nat) (v : Thread) : (s.setThread t v).mem = s.mem := rfl
@[simp] theorem State.setThread_tags (s : State) (t : Nat) (v : Thread) : (s.setThread t v).tags = s.tags := rfl
@[simp] theorem State.setThread_bad (s : State) (t : Nat) (v : Thread) : (s.setThread t v).bad = s.bad := rfl
@[simp] theorem State.setThread_dies (s : State) (t : Nat) (v : Thread) : (s.setThread t v).dies = s.dies := rfl
@[simp] theorem State.setThread_cores (s : State) (t : Nat) (v : Thread) : (s.setThread t v).cores = s.cores := rfl
@[simp] theorem State.setThread_quads (s : State) (t : Nat) (v : Thread) : (s.setThread t v).quads = s.quads := rfl
@[simp] theorem State.setThread_groups (s : State) (t : Nat) (v : Thread) : (s.setThread t v).groups = s.groups := rfl
@[simp] theorem State.setThread_waves (s : State) (t : Nat) (v : Thread) : (s.setThread t v).waves = s.waves := rfl
@[simp] theorem State.setThread_bundles (s : State) (t : Nat) (v : Thread) : (s.setThread t v).bundles = s.bundles := rfl
@[simp] theorem State.setThread_flights (s : State) (t : Nat) (v : Thread) : (s.setThread t v).flights = s.flights := rfl
@[simp] theorem State.setThread_trains (s : State) (t : Nat) (v : Thread) : (s.setThread t v).trains = s.trains := rfl
@[simp] theorem State.setThread_saved (s : State) (t : Nat) (v : Thread) : (s.setThread t v).saved = s.saved := rfl
@[simp] theorem State.setThread_reqs (s : State) (t : Nat) (v : Thread) : (s.setThread t v).reqs = s.reqs := rfl
@[simp] theorem State.setThread_sessions (s : State) (t : Nat) (v : Thread) : (s.setThread t v).sessions = s.sessions := rfl
@[simp] theorem State.setThread_debts (s : State) (t : Nat) (v : Thread) : (s.setThread t v).debts = s.debts := rfl
@[simp] theorem State.setThread_links (s : State) (t : Nat) (v : Thread) : (s.setThread t v).links = s.links := rfl
@[simp] theorem State.setThread_keels (s : State) (t : Nat) (v : Thread) : (s.setThread t v).keels = s.keels := rfl
@[simp] theorem State.setThread_vasIds (s : State) (t : Nat) (v : Thread) : (s.setThread t v).vasIds = s.vasIds := rfl
@[simp] theorem State.setThread_hostMem (s : State) (t : Nat) (v : Thread) : (s.setThread t v).hostMem = s.hostMem := rfl
@[simp] theorem State.setThread_host (s : State) (t : Nat) (v : Thread) : (s.setThread t v).host = s.host := rfl
@[simp] theorem State.setThread_read_die (s : State) (t : Nat) (v : Thread) (i : Nat) : (s.setThread t v).die i = s.die i := rfl
@[simp] theorem State.setThread_read_core (s : State) (t : Nat) (v : Thread) (i : Nat) : (s.setThread t v).core i = s.core i := rfl
@[simp] theorem State.setThread_read_quad (s : State) (t : Nat) (v : Thread) (i : Nat) : (s.setThread t v).quad i = s.quad i := rfl
@[simp] theorem State.setThread_read_group (s : State) (t : Nat) (v : Thread) (i : Nat) : (s.setThread t v).group i = s.group i := rfl
@[simp] theorem State.setThread_read_wave (s : State) (t : Nat) (v : Thread) (i : Nat) : (s.setThread t v).wave i = s.wave i := rfl
@[simp] theorem State.setThread_read_bundle (s : State) (t : Nat) (v : Thread) (i : Nat) : (s.setThread t v).bundle i = s.bundle i := rfl
@[simp] theorem State.setThread_read_flight (s : State) (t : Nat) (v : Thread) (i : Nat) : (s.setThread t v).flight i = s.flight i := rfl
@[simp] theorem State.setThread_read_train (s : State) (t : Nat) (v : Thread) (i : Nat) : (s.setThread t v).train i = s.train i := rfl

/-! ### modThread -/

@[simp] theorem State.modThread_focus (s : State) (t : Nat) (f : Thread → Thread) : (s.modThread t f).focus = s.focus := rfl
@[simp] theorem State.modThread_turnCore (s : State) (t : Nat) (f : Thread → Thread) : (s.modThread t f).turnCore = s.turnCore := rfl
@[simp] theorem State.modThread_turns (s : State) (t : Nat) (f : Thread → Thread) : (s.modThread t f).turns = s.turns := rfl
@[simp] theorem State.modThread_free (s : State) (t : Nat) (f : Thread → Thread) : (s.modThread t f).free = s.free := rfl
@[simp] theorem State.modThread_nextId (s : State) (t : Nat) (f : Thread → Thread) : (s.modThread t f).nextId = s.nextId := rfl
@[simp] theorem State.modThread_mem (s : State) (t : Nat) (f : Thread → Thread) : (s.modThread t f).mem = s.mem := rfl
@[simp] theorem State.modThread_tags (s : State) (t : Nat) (f : Thread → Thread) : (s.modThread t f).tags = s.tags := rfl
@[simp] theorem State.modThread_bad (s : State) (t : Nat) (f : Thread → Thread) : (s.modThread t f).bad = s.bad := rfl
@[simp] theorem State.modThread_dies (s : State) (t : Nat) (f : Thread → Thread) : (s.modThread t f).dies = s.dies := rfl
@[simp] theorem State.modThread_cores (s : State) (t : Nat) (f : Thread → Thread) : (s.modThread t f).cores = s.cores := rfl
@[simp] theorem State.modThread_quads (s : State) (t : Nat) (f : Thread → Thread) : (s.modThread t f).quads = s.quads := rfl
@[simp] theorem State.modThread_groups (s : State) (t : Nat) (f : Thread → Thread) : (s.modThread t f).groups = s.groups := rfl
@[simp] theorem State.modThread_waves (s : State) (t : Nat) (f : Thread → Thread) : (s.modThread t f).waves = s.waves := rfl
@[simp] theorem State.modThread_bundles (s : State) (t : Nat) (f : Thread → Thread) : (s.modThread t f).bundles = s.bundles := rfl
@[simp] theorem State.modThread_flights (s : State) (t : Nat) (f : Thread → Thread) : (s.modThread t f).flights = s.flights := rfl
@[simp] theorem State.modThread_trains (s : State) (t : Nat) (f : Thread → Thread) : (s.modThread t f).trains = s.trains := rfl
@[simp] theorem State.modThread_saved (s : State) (t : Nat) (f : Thread → Thread) : (s.modThread t f).saved = s.saved := rfl
@[simp] theorem State.modThread_reqs (s : State) (t : Nat) (f : Thread → Thread) : (s.modThread t f).reqs = s.reqs := rfl
@[simp] theorem State.modThread_sessions (s : State) (t : Nat) (f : Thread → Thread) : (s.modThread t f).sessions = s.sessions := rfl
@[simp] theorem State.modThread_debts (s : State) (t : Nat) (f : Thread → Thread) : (s.modThread t f).debts = s.debts := rfl
@[simp] theorem State.modThread_links (s : State) (t : Nat) (f : Thread → Thread) : (s.modThread t f).links = s.links := rfl
@[simp] theorem State.modThread_keels (s : State) (t : Nat) (f : Thread → Thread) : (s.modThread t f).keels = s.keels := rfl
@[simp] theorem State.modThread_vasIds (s : State) (t : Nat) (f : Thread → Thread) : (s.modThread t f).vasIds = s.vasIds := rfl
@[simp] theorem State.modThread_hostMem (s : State) (t : Nat) (f : Thread → Thread) : (s.modThread t f).hostMem = s.hostMem := rfl
@[simp] theorem State.modThread_host (s : State) (t : Nat) (f : Thread → Thread) : (s.modThread t f).host = s.host := rfl
@[simp] theorem State.modThread_read_die (s : State) (t : Nat) (f : Thread → Thread) (i : Nat) : (s.modThread t f).die i = s.die i := rfl
@[simp] theorem State.modThread_read_core (s : State) (t : Nat) (f : Thread → Thread) (i : Nat) : (s.modThread t f).core i = s.core i := rfl
@[simp] theorem State.modThread_read_quad (s : State) (t : Nat) (f : Thread → Thread) (i : Nat) : (s.modThread t f).quad i = s.quad i := rfl
@[simp] theorem State.modThread_read_group (s : State) (t : Nat) (f : Thread → Thread) (i : Nat) : (s.modThread t f).group i = s.group i := rfl
@[simp] theorem State.modThread_read_wave (s : State) (t : Nat) (f : Thread → Thread) (i : Nat) : (s.modThread t f).wave i = s.wave i := rfl
@[simp] theorem State.modThread_read_bundle (s : State) (t : Nat) (f : Thread → Thread) (i : Nat) : (s.modThread t f).bundle i = s.bundle i := rfl
@[simp] theorem State.modThread_read_flight (s : State) (t : Nat) (f : Thread → Thread) (i : Nat) : (s.modThread t f).flight i = s.flight i := rfl
@[simp] theorem State.modThread_read_train (s : State) (t : Nat) (f : Thread → Thread) (i : Nat) : (s.modThread t f).train i = s.train i := rfl

/-! ### setBundle -/

@[simp] theorem State.setBundle_focus (s : State) (b : Nat) (v : Bundle) : (s.setBundle b v).focus = s.focus := rfl
@[simp] theorem State.setBundle_turnCore (s : State) (b : Nat) (v : Bundle) : (s.setBundle b v).turnCore = s.turnCore := rfl
@[simp] theorem State.setBundle_turns (s : State) (b : Nat) (v : Bundle) : (s.setBundle b v).turns = s.turns := rfl
@[simp] theorem State.setBundle_free (s : State) (b : Nat) (v : Bundle) : (s.setBundle b v).free = s.free := rfl
@[simp] theorem State.setBundle_nextId (s : State) (b : Nat) (v : Bundle) : (s.setBundle b v).nextId = s.nextId := rfl
@[simp] theorem State.setBundle_mem (s : State) (b : Nat) (v : Bundle) : (s.setBundle b v).mem = s.mem := rfl
@[simp] theorem State.setBundle_tags (s : State) (b : Nat) (v : Bundle) : (s.setBundle b v).tags = s.tags := rfl
@[simp] theorem State.setBundle_bad (s : State) (b : Nat) (v : Bundle) : (s.setBundle b v).bad = s.bad := rfl
@[simp] theorem State.setBundle_dies (s : State) (b : Nat) (v : Bundle) : (s.setBundle b v).dies = s.dies := rfl
@[simp] theorem State.setBundle_cores (s : State) (b : Nat) (v : Bundle) : (s.setBundle b v).cores = s.cores := rfl
@[simp] theorem State.setBundle_quads (s : State) (b : Nat) (v : Bundle) : (s.setBundle b v).quads = s.quads := rfl
@[simp] theorem State.setBundle_groups (s : State) (b : Nat) (v : Bundle) : (s.setBundle b v).groups = s.groups := rfl
@[simp] theorem State.setBundle_waves (s : State) (b : Nat) (v : Bundle) : (s.setBundle b v).waves = s.waves := rfl
@[simp] theorem State.setBundle_threads (s : State) (b : Nat) (v : Bundle) : (s.setBundle b v).threads = s.threads := rfl
@[simp] theorem State.setBundle_flights (s : State) (b : Nat) (v : Bundle) : (s.setBundle b v).flights = s.flights := rfl
@[simp] theorem State.setBundle_trains (s : State) (b : Nat) (v : Bundle) : (s.setBundle b v).trains = s.trains := rfl
@[simp] theorem State.setBundle_saved (s : State) (b : Nat) (v : Bundle) : (s.setBundle b v).saved = s.saved := rfl
@[simp] theorem State.setBundle_reqs (s : State) (b : Nat) (v : Bundle) : (s.setBundle b v).reqs = s.reqs := rfl
@[simp] theorem State.setBundle_sessions (s : State) (b : Nat) (v : Bundle) : (s.setBundle b v).sessions = s.sessions := rfl
@[simp] theorem State.setBundle_debts (s : State) (b : Nat) (v : Bundle) : (s.setBundle b v).debts = s.debts := rfl
@[simp] theorem State.setBundle_links (s : State) (b : Nat) (v : Bundle) : (s.setBundle b v).links = s.links := rfl
@[simp] theorem State.setBundle_keels (s : State) (b : Nat) (v : Bundle) : (s.setBundle b v).keels = s.keels := rfl
@[simp] theorem State.setBundle_vasIds (s : State) (b : Nat) (v : Bundle) : (s.setBundle b v).vasIds = s.vasIds := rfl
@[simp] theorem State.setBundle_hostMem (s : State) (b : Nat) (v : Bundle) : (s.setBundle b v).hostMem = s.hostMem := rfl
@[simp] theorem State.setBundle_host (s : State) (b : Nat) (v : Bundle) : (s.setBundle b v).host = s.host := rfl
@[simp] theorem State.setBundle_read_die (s : State) (b : Nat) (v : Bundle) (i : Nat) : (s.setBundle b v).die i = s.die i := rfl
@[simp] theorem State.setBundle_read_core (s : State) (b : Nat) (v : Bundle) (i : Nat) : (s.setBundle b v).core i = s.core i := rfl
@[simp] theorem State.setBundle_read_quad (s : State) (b : Nat) (v : Bundle) (i : Nat) : (s.setBundle b v).quad i = s.quad i := rfl
@[simp] theorem State.setBundle_read_group (s : State) (b : Nat) (v : Bundle) (i : Nat) : (s.setBundle b v).group i = s.group i := rfl
@[simp] theorem State.setBundle_read_wave (s : State) (b : Nat) (v : Bundle) (i : Nat) : (s.setBundle b v).wave i = s.wave i := rfl
@[simp] theorem State.setBundle_read_thread (s : State) (b : Nat) (v : Bundle) (i : Nat) : (s.setBundle b v).thread i = s.thread i := rfl
@[simp] theorem State.setBundle_read_flight (s : State) (b : Nat) (v : Bundle) (i : Nat) : (s.setBundle b v).flight i = s.flight i := rfl
@[simp] theorem State.setBundle_read_train (s : State) (b : Nat) (v : Bundle) (i : Nat) : (s.setBundle b v).train i = s.train i := rfl

/-! ### modFlight -/

@[simp] theorem State.modFlight_focus (s : State) (k : Nat) (f : Flight → Flight) : (s.modFlight k f).focus = s.focus := rfl
@[simp] theorem State.modFlight_turnCore (s : State) (k : Nat) (f : Flight → Flight) : (s.modFlight k f).turnCore = s.turnCore := rfl
@[simp] theorem State.modFlight_turns (s : State) (k : Nat) (f : Flight → Flight) : (s.modFlight k f).turns = s.turns := rfl
@[simp] theorem State.modFlight_free (s : State) (k : Nat) (f : Flight → Flight) : (s.modFlight k f).free = s.free := rfl
@[simp] theorem State.modFlight_nextId (s : State) (k : Nat) (f : Flight → Flight) : (s.modFlight k f).nextId = s.nextId := rfl
@[simp] theorem State.modFlight_mem (s : State) (k : Nat) (f : Flight → Flight) : (s.modFlight k f).mem = s.mem := rfl
@[simp] theorem State.modFlight_tags (s : State) (k : Nat) (f : Flight → Flight) : (s.modFlight k f).tags = s.tags := rfl
@[simp] theorem State.modFlight_bad (s : State) (k : Nat) (f : Flight → Flight) : (s.modFlight k f).bad = s.bad := rfl
@[simp] theorem State.modFlight_dies (s : State) (k : Nat) (f : Flight → Flight) : (s.modFlight k f).dies = s.dies := rfl
@[simp] theorem State.modFlight_cores (s : State) (k : Nat) (f : Flight → Flight) : (s.modFlight k f).cores = s.cores := rfl
@[simp] theorem State.modFlight_quads (s : State) (k : Nat) (f : Flight → Flight) : (s.modFlight k f).quads = s.quads := rfl
@[simp] theorem State.modFlight_groups (s : State) (k : Nat) (f : Flight → Flight) : (s.modFlight k f).groups = s.groups := rfl
@[simp] theorem State.modFlight_waves (s : State) (k : Nat) (f : Flight → Flight) : (s.modFlight k f).waves = s.waves := rfl
@[simp] theorem State.modFlight_threads (s : State) (k : Nat) (f : Flight → Flight) : (s.modFlight k f).threads = s.threads := rfl
@[simp] theorem State.modFlight_bundles (s : State) (k : Nat) (f : Flight → Flight) : (s.modFlight k f).bundles = s.bundles := rfl
@[simp] theorem State.modFlight_trains (s : State) (k : Nat) (f : Flight → Flight) : (s.modFlight k f).trains = s.trains := rfl
@[simp] theorem State.modFlight_saved (s : State) (k : Nat) (f : Flight → Flight) : (s.modFlight k f).saved = s.saved := rfl
@[simp] theorem State.modFlight_reqs (s : State) (k : Nat) (f : Flight → Flight) : (s.modFlight k f).reqs = s.reqs := rfl
@[simp] theorem State.modFlight_sessions (s : State) (k : Nat) (f : Flight → Flight) : (s.modFlight k f).sessions = s.sessions := rfl
@[simp] theorem State.modFlight_debts (s : State) (k : Nat) (f : Flight → Flight) : (s.modFlight k f).debts = s.debts := rfl
@[simp] theorem State.modFlight_links (s : State) (k : Nat) (f : Flight → Flight) : (s.modFlight k f).links = s.links := rfl
@[simp] theorem State.modFlight_keels (s : State) (k : Nat) (f : Flight → Flight) : (s.modFlight k f).keels = s.keels := rfl
@[simp] theorem State.modFlight_vasIds (s : State) (k : Nat) (f : Flight → Flight) : (s.modFlight k f).vasIds = s.vasIds := rfl
@[simp] theorem State.modFlight_hostMem (s : State) (k : Nat) (f : Flight → Flight) : (s.modFlight k f).hostMem = s.hostMem := rfl
@[simp] theorem State.modFlight_host (s : State) (k : Nat) (f : Flight → Flight) : (s.modFlight k f).host = s.host := rfl
@[simp] theorem State.modFlight_read_die (s : State) (k : Nat) (f : Flight → Flight) (i : Nat) : (s.modFlight k f).die i = s.die i := rfl
@[simp] theorem State.modFlight_read_core (s : State) (k : Nat) (f : Flight → Flight) (i : Nat) : (s.modFlight k f).core i = s.core i := rfl
@[simp] theorem State.modFlight_read_quad (s : State) (k : Nat) (f : Flight → Flight) (i : Nat) : (s.modFlight k f).quad i = s.quad i := rfl
@[simp] theorem State.modFlight_read_group (s : State) (k : Nat) (f : Flight → Flight) (i : Nat) : (s.modFlight k f).group i = s.group i := rfl
@[simp] theorem State.modFlight_read_wave (s : State) (k : Nat) (f : Flight → Flight) (i : Nat) : (s.modFlight k f).wave i = s.wave i := rfl
@[simp] theorem State.modFlight_read_thread (s : State) (k : Nat) (f : Flight → Flight) (i : Nat) : (s.modFlight k f).thread i = s.thread i := rfl
@[simp] theorem State.modFlight_read_bundle (s : State) (k : Nat) (f : Flight → Flight) (i : Nat) : (s.modFlight k f).bundle i = s.bundle i := rfl
@[simp] theorem State.modFlight_read_train (s : State) (k : Nat) (f : Flight → Flight) (i : Nat) : (s.modFlight k f).train i = s.train i := rfl

/-! ### modTrain -/

@[simp] theorem State.modTrain_focus (s : State) (k : Nat) (f : Train → Train) : (s.modTrain k f).focus = s.focus := rfl
@[simp] theorem State.modTrain_turnCore (s : State) (k : Nat) (f : Train → Train) : (s.modTrain k f).turnCore = s.turnCore := rfl
@[simp] theorem State.modTrain_turns (s : State) (k : Nat) (f : Train → Train) : (s.modTrain k f).turns = s.turns := rfl
@[simp] theorem State.modTrain_free (s : State) (k : Nat) (f : Train → Train) : (s.modTrain k f).free = s.free := rfl
@[simp] theorem State.modTrain_nextId (s : State) (k : Nat) (f : Train → Train) : (s.modTrain k f).nextId = s.nextId := rfl
@[simp] theorem State.modTrain_mem (s : State) (k : Nat) (f : Train → Train) : (s.modTrain k f).mem = s.mem := rfl
@[simp] theorem State.modTrain_tags (s : State) (k : Nat) (f : Train → Train) : (s.modTrain k f).tags = s.tags := rfl
@[simp] theorem State.modTrain_bad (s : State) (k : Nat) (f : Train → Train) : (s.modTrain k f).bad = s.bad := rfl
@[simp] theorem State.modTrain_dies (s : State) (k : Nat) (f : Train → Train) : (s.modTrain k f).dies = s.dies := rfl
@[simp] theorem State.modTrain_cores (s : State) (k : Nat) (f : Train → Train) : (s.modTrain k f).cores = s.cores := rfl
@[simp] theorem State.modTrain_quads (s : State) (k : Nat) (f : Train → Train) : (s.modTrain k f).quads = s.quads := rfl
@[simp] theorem State.modTrain_groups (s : State) (k : Nat) (f : Train → Train) : (s.modTrain k f).groups = s.groups := rfl
@[simp] theorem State.modTrain_waves (s : State) (k : Nat) (f : Train → Train) : (s.modTrain k f).waves = s.waves := rfl
@[simp] theorem State.modTrain_threads (s : State) (k : Nat) (f : Train → Train) : (s.modTrain k f).threads = s.threads := rfl
@[simp] theorem State.modTrain_bundles (s : State) (k : Nat) (f : Train → Train) : (s.modTrain k f).bundles = s.bundles := rfl
@[simp] theorem State.modTrain_flights (s : State) (k : Nat) (f : Train → Train) : (s.modTrain k f).flights = s.flights := rfl
@[simp] theorem State.modTrain_saved (s : State) (k : Nat) (f : Train → Train) : (s.modTrain k f).saved = s.saved := rfl
@[simp] theorem State.modTrain_reqs (s : State) (k : Nat) (f : Train → Train) : (s.modTrain k f).reqs = s.reqs := rfl
@[simp] theorem State.modTrain_sessions (s : State) (k : Nat) (f : Train → Train) : (s.modTrain k f).sessions = s.sessions := rfl
@[simp] theorem State.modTrain_debts (s : State) (k : Nat) (f : Train → Train) : (s.modTrain k f).debts = s.debts := rfl
@[simp] theorem State.modTrain_links (s : State) (k : Nat) (f : Train → Train) : (s.modTrain k f).links = s.links := rfl
@[simp] theorem State.modTrain_keels (s : State) (k : Nat) (f : Train → Train) : (s.modTrain k f).keels = s.keels := rfl
@[simp] theorem State.modTrain_vasIds (s : State) (k : Nat) (f : Train → Train) : (s.modTrain k f).vasIds = s.vasIds := rfl
@[simp] theorem State.modTrain_hostMem (s : State) (k : Nat) (f : Train → Train) : (s.modTrain k f).hostMem = s.hostMem := rfl
@[simp] theorem State.modTrain_host (s : State) (k : Nat) (f : Train → Train) : (s.modTrain k f).host = s.host := rfl
@[simp] theorem State.modTrain_read_die (s : State) (k : Nat) (f : Train → Train) (i : Nat) : (s.modTrain k f).die i = s.die i := rfl
@[simp] theorem State.modTrain_read_core (s : State) (k : Nat) (f : Train → Train) (i : Nat) : (s.modTrain k f).core i = s.core i := rfl
@[simp] theorem State.modTrain_read_quad (s : State) (k : Nat) (f : Train → Train) (i : Nat) : (s.modTrain k f).quad i = s.quad i := rfl
@[simp] theorem State.modTrain_read_group (s : State) (k : Nat) (f : Train → Train) (i : Nat) : (s.modTrain k f).group i = s.group i := rfl
@[simp] theorem State.modTrain_read_wave (s : State) (k : Nat) (f : Train → Train) (i : Nat) : (s.modTrain k f).wave i = s.wave i := rfl
@[simp] theorem State.modTrain_read_thread (s : State) (k : Nat) (f : Train → Train) (i : Nat) : (s.modTrain k f).thread i = s.thread i := rfl
@[simp] theorem State.modTrain_read_bundle (s : State) (k : Nat) (f : Train → Train) (i : Nat) : (s.modTrain k f).bundle i = s.bundle i := rfl
@[simp] theorem State.modTrain_read_flight (s : State) (k : Nat) (f : Train → Train) (i : Nat) : (s.modTrain k f).flight i = s.flight i := rfl

/-! ### setRam -/

@[simp] theorem State.setRam_focus (s : State) (d pa n v : Nat) : (s.setRam d pa n v).focus = s.focus := rfl
@[simp] theorem State.setRam_turnCore (s : State) (d pa n v : Nat) : (s.setRam d pa n v).turnCore = s.turnCore := rfl
@[simp] theorem State.setRam_turns (s : State) (d pa n v : Nat) : (s.setRam d pa n v).turns = s.turns := rfl
@[simp] theorem State.setRam_free (s : State) (d pa n v : Nat) : (s.setRam d pa n v).free = s.free := rfl
@[simp] theorem State.setRam_nextId (s : State) (d pa n v : Nat) : (s.setRam d pa n v).nextId = s.nextId := rfl
@[simp] theorem State.setRam_tags (s : State) (d pa n v : Nat) : (s.setRam d pa n v).tags = s.tags := rfl
@[simp] theorem State.setRam_bad (s : State) (d pa n v : Nat) : (s.setRam d pa n v).bad = s.bad := rfl
@[simp] theorem State.setRam_dies (s : State) (d pa n v : Nat) : (s.setRam d pa n v).dies = s.dies := rfl
@[simp] theorem State.setRam_cores (s : State) (d pa n v : Nat) : (s.setRam d pa n v).cores = s.cores := rfl
@[simp] theorem State.setRam_quads (s : State) (d pa n v : Nat) : (s.setRam d pa n v).quads = s.quads := rfl
@[simp] theorem State.setRam_groups (s : State) (d pa n v : Nat) : (s.setRam d pa n v).groups = s.groups := rfl
@[simp] theorem State.setRam_waves (s : State) (d pa n v : Nat) : (s.setRam d pa n v).waves = s.waves := rfl
@[simp] theorem State.setRam_threads (s : State) (d pa n v : Nat) : (s.setRam d pa n v).threads = s.threads := rfl
@[simp] theorem State.setRam_bundles (s : State) (d pa n v : Nat) : (s.setRam d pa n v).bundles = s.bundles := rfl
@[simp] theorem State.setRam_flights (s : State) (d pa n v : Nat) : (s.setRam d pa n v).flights = s.flights := rfl
@[simp] theorem State.setRam_trains (s : State) (d pa n v : Nat) : (s.setRam d pa n v).trains = s.trains := rfl
@[simp] theorem State.setRam_saved (s : State) (d pa n v : Nat) : (s.setRam d pa n v).saved = s.saved := rfl
@[simp] theorem State.setRam_reqs (s : State) (d pa n v : Nat) : (s.setRam d pa n v).reqs = s.reqs := rfl
@[simp] theorem State.setRam_sessions (s : State) (d pa n v : Nat) : (s.setRam d pa n v).sessions = s.sessions := rfl
@[simp] theorem State.setRam_debts (s : State) (d pa n v : Nat) : (s.setRam d pa n v).debts = s.debts := rfl
@[simp] theorem State.setRam_links (s : State) (d pa n v : Nat) : (s.setRam d pa n v).links = s.links := rfl
@[simp] theorem State.setRam_keels (s : State) (d pa n v : Nat) : (s.setRam d pa n v).keels = s.keels := rfl
@[simp] theorem State.setRam_vasIds (s : State) (d pa n v : Nat) : (s.setRam d pa n v).vasIds = s.vasIds := rfl
@[simp] theorem State.setRam_hostMem (s : State) (d pa n v : Nat) : (s.setRam d pa n v).hostMem = s.hostMem := rfl
@[simp] theorem State.setRam_host (s : State) (d pa n v : Nat) : (s.setRam d pa n v).host = s.host := rfl
@[simp] theorem State.setRam_read_die (s : State) (d pa n v : Nat) (i : Nat) : (s.setRam d pa n v).die i = s.die i := rfl
@[simp] theorem State.setRam_read_core (s : State) (d pa n v : Nat) (i : Nat) : (s.setRam d pa n v).core i = s.core i := rfl
@[simp] theorem State.setRam_read_quad (s : State) (d pa n v : Nat) (i : Nat) : (s.setRam d pa n v).quad i = s.quad i := rfl
@[simp] theorem State.setRam_read_group (s : State) (d pa n v : Nat) (i : Nat) : (s.setRam d pa n v).group i = s.group i := rfl
@[simp] theorem State.setRam_read_wave (s : State) (d pa n v : Nat) (i : Nat) : (s.setRam d pa n v).wave i = s.wave i := rfl
@[simp] theorem State.setRam_read_thread (s : State) (d pa n v : Nat) (i : Nat) : (s.setRam d pa n v).thread i = s.thread i := rfl
@[simp] theorem State.setRam_read_bundle (s : State) (d pa n v : Nat) (i : Nat) : (s.setRam d pa n v).bundle i = s.bundle i := rfl
@[simp] theorem State.setRam_read_flight (s : State) (d pa n v : Nat) (i : Nat) : (s.setRam d pa n v).flight i = s.flight i := rfl
@[simp] theorem State.setRam_read_train (s : State) (d pa n v : Nat) (i : Nat) : (s.setRam d pa n v).train i = s.train i := rfl

/-! ### setRamBytes -/

@[simp] theorem State.setRamBytes_focus (s : State) (d pa : Nat) (bs : List Byte) : (s.setRamBytes d pa bs).focus = s.focus := rfl
@[simp] theorem State.setRamBytes_turnCore (s : State) (d pa : Nat) (bs : List Byte) : (s.setRamBytes d pa bs).turnCore = s.turnCore := rfl
@[simp] theorem State.setRamBytes_turns (s : State) (d pa : Nat) (bs : List Byte) : (s.setRamBytes d pa bs).turns = s.turns := rfl
@[simp] theorem State.setRamBytes_free (s : State) (d pa : Nat) (bs : List Byte) : (s.setRamBytes d pa bs).free = s.free := rfl
@[simp] theorem State.setRamBytes_nextId (s : State) (d pa : Nat) (bs : List Byte) : (s.setRamBytes d pa bs).nextId = s.nextId := rfl
@[simp] theorem State.setRamBytes_tags (s : State) (d pa : Nat) (bs : List Byte) : (s.setRamBytes d pa bs).tags = s.tags := rfl
@[simp] theorem State.setRamBytes_bad (s : State) (d pa : Nat) (bs : List Byte) : (s.setRamBytes d pa bs).bad = s.bad := rfl
@[simp] theorem State.setRamBytes_dies (s : State) (d pa : Nat) (bs : List Byte) : (s.setRamBytes d pa bs).dies = s.dies := rfl
@[simp] theorem State.setRamBytes_cores (s : State) (d pa : Nat) (bs : List Byte) : (s.setRamBytes d pa bs).cores = s.cores := rfl
@[simp] theorem State.setRamBytes_quads (s : State) (d pa : Nat) (bs : List Byte) : (s.setRamBytes d pa bs).quads = s.quads := rfl
@[simp] theorem State.setRamBytes_groups (s : State) (d pa : Nat) (bs : List Byte) : (s.setRamBytes d pa bs).groups = s.groups := rfl
@[simp] theorem State.setRamBytes_waves (s : State) (d pa : Nat) (bs : List Byte) : (s.setRamBytes d pa bs).waves = s.waves := rfl
@[simp] theorem State.setRamBytes_threads (s : State) (d pa : Nat) (bs : List Byte) : (s.setRamBytes d pa bs).threads = s.threads := rfl
@[simp] theorem State.setRamBytes_bundles (s : State) (d pa : Nat) (bs : List Byte) : (s.setRamBytes d pa bs).bundles = s.bundles := rfl
@[simp] theorem State.setRamBytes_flights (s : State) (d pa : Nat) (bs : List Byte) : (s.setRamBytes d pa bs).flights = s.flights := rfl
@[simp] theorem State.setRamBytes_trains (s : State) (d pa : Nat) (bs : List Byte) : (s.setRamBytes d pa bs).trains = s.trains := rfl
@[simp] theorem State.setRamBytes_saved (s : State) (d pa : Nat) (bs : List Byte) : (s.setRamBytes d pa bs).saved = s.saved := rfl
@[simp] theorem State.setRamBytes_reqs (s : State) (d pa : Nat) (bs : List Byte) : (s.setRamBytes d pa bs).reqs = s.reqs := rfl
@[simp] theorem State.setRamBytes_sessions (s : State) (d pa : Nat) (bs : List Byte) : (s.setRamBytes d pa bs).sessions = s.sessions := rfl
@[simp] theorem State.setRamBytes_debts (s : State) (d pa : Nat) (bs : List Byte) : (s.setRamBytes d pa bs).debts = s.debts := rfl
@[simp] theorem State.setRamBytes_links (s : State) (d pa : Nat) (bs : List Byte) : (s.setRamBytes d pa bs).links = s.links := rfl
@[simp] theorem State.setRamBytes_keels (s : State) (d pa : Nat) (bs : List Byte) : (s.setRamBytes d pa bs).keels = s.keels := rfl
@[simp] theorem State.setRamBytes_vasIds (s : State) (d pa : Nat) (bs : List Byte) : (s.setRamBytes d pa bs).vasIds = s.vasIds := rfl
@[simp] theorem State.setRamBytes_hostMem (s : State) (d pa : Nat) (bs : List Byte) : (s.setRamBytes d pa bs).hostMem = s.hostMem := rfl
@[simp] theorem State.setRamBytes_host (s : State) (d pa : Nat) (bs : List Byte) : (s.setRamBytes d pa bs).host = s.host := rfl
@[simp] theorem State.setRamBytes_read_die (s : State) (d pa : Nat) (bs : List Byte) (i : Nat) : (s.setRamBytes d pa bs).die i = s.die i := rfl
@[simp] theorem State.setRamBytes_read_core (s : State) (d pa : Nat) (bs : List Byte) (i : Nat) : (s.setRamBytes d pa bs).core i = s.core i := rfl
@[simp] theorem State.setRamBytes_read_quad (s : State) (d pa : Nat) (bs : List Byte) (i : Nat) : (s.setRamBytes d pa bs).quad i = s.quad i := rfl
@[simp] theorem State.setRamBytes_read_group (s : State) (d pa : Nat) (bs : List Byte) (i : Nat) : (s.setRamBytes d pa bs).group i = s.group i := rfl
@[simp] theorem State.setRamBytes_read_wave (s : State) (d pa : Nat) (bs : List Byte) (i : Nat) : (s.setRamBytes d pa bs).wave i = s.wave i := rfl
@[simp] theorem State.setRamBytes_read_thread (s : State) (d pa : Nat) (bs : List Byte) (i : Nat) : (s.setRamBytes d pa bs).thread i = s.thread i := rfl
@[simp] theorem State.setRamBytes_read_bundle (s : State) (d pa : Nat) (bs : List Byte) (i : Nat) : (s.setRamBytes d pa bs).bundle i = s.bundle i := rfl
@[simp] theorem State.setRamBytes_read_flight (s : State) (d pa : Nat) (bs : List Byte) (i : Nat) : (s.setRamBytes d pa bs).flight i = s.flight i := rfl
@[simp] theorem State.setRamBytes_read_train (s : State) (d pa : Nat) (bs : List Byte) (i : Nat) : (s.setRamBytes d pa bs).train i = s.train i := rfl

/-! ### mapLanes -/

@[simp] theorem State.mapLanes_focus (s : State) (k : Nat) (f : Nat → Thread → Thread) : (s.mapLanes k f).focus = s.focus := rfl
@[simp] theorem State.mapLanes_turnCore (s : State) (k : Nat) (f : Nat → Thread → Thread) : (s.mapLanes k f).turnCore = s.turnCore := rfl
@[simp] theorem State.mapLanes_turns (s : State) (k : Nat) (f : Nat → Thread → Thread) : (s.mapLanes k f).turns = s.turns := rfl
@[simp] theorem State.mapLanes_free (s : State) (k : Nat) (f : Nat → Thread → Thread) : (s.mapLanes k f).free = s.free := rfl
@[simp] theorem State.mapLanes_nextId (s : State) (k : Nat) (f : Nat → Thread → Thread) : (s.mapLanes k f).nextId = s.nextId := rfl
@[simp] theorem State.mapLanes_mem (s : State) (k : Nat) (f : Nat → Thread → Thread) : (s.mapLanes k f).mem = s.mem := rfl
@[simp] theorem State.mapLanes_tags (s : State) (k : Nat) (f : Nat → Thread → Thread) : (s.mapLanes k f).tags = s.tags := rfl
@[simp] theorem State.mapLanes_bad (s : State) (k : Nat) (f : Nat → Thread → Thread) : (s.mapLanes k f).bad = s.bad := rfl
@[simp] theorem State.mapLanes_dies (s : State) (k : Nat) (f : Nat → Thread → Thread) : (s.mapLanes k f).dies = s.dies := rfl
@[simp] theorem State.mapLanes_cores (s : State) (k : Nat) (f : Nat → Thread → Thread) : (s.mapLanes k f).cores = s.cores := rfl
@[simp] theorem State.mapLanes_quads (s : State) (k : Nat) (f : Nat → Thread → Thread) : (s.mapLanes k f).quads = s.quads := rfl
@[simp] theorem State.mapLanes_groups (s : State) (k : Nat) (f : Nat → Thread → Thread) : (s.mapLanes k f).groups = s.groups := rfl
@[simp] theorem State.mapLanes_waves (s : State) (k : Nat) (f : Nat → Thread → Thread) : (s.mapLanes k f).waves = s.waves := rfl
@[simp] theorem State.mapLanes_bundles (s : State) (k : Nat) (f : Nat → Thread → Thread) : (s.mapLanes k f).bundles = s.bundles := rfl
@[simp] theorem State.mapLanes_flights (s : State) (k : Nat) (f : Nat → Thread → Thread) : (s.mapLanes k f).flights = s.flights := rfl
@[simp] theorem State.mapLanes_trains (s : State) (k : Nat) (f : Nat → Thread → Thread) : (s.mapLanes k f).trains = s.trains := rfl
@[simp] theorem State.mapLanes_saved (s : State) (k : Nat) (f : Nat → Thread → Thread) : (s.mapLanes k f).saved = s.saved := rfl
@[simp] theorem State.mapLanes_reqs (s : State) (k : Nat) (f : Nat → Thread → Thread) : (s.mapLanes k f).reqs = s.reqs := rfl
@[simp] theorem State.mapLanes_sessions (s : State) (k : Nat) (f : Nat → Thread → Thread) : (s.mapLanes k f).sessions = s.sessions := rfl
@[simp] theorem State.mapLanes_debts (s : State) (k : Nat) (f : Nat → Thread → Thread) : (s.mapLanes k f).debts = s.debts := rfl
@[simp] theorem State.mapLanes_links (s : State) (k : Nat) (f : Nat → Thread → Thread) : (s.mapLanes k f).links = s.links := rfl
@[simp] theorem State.mapLanes_keels (s : State) (k : Nat) (f : Nat → Thread → Thread) : (s.mapLanes k f).keels = s.keels := rfl
@[simp] theorem State.mapLanes_vasIds (s : State) (k : Nat) (f : Nat → Thread → Thread) : (s.mapLanes k f).vasIds = s.vasIds := rfl
@[simp] theorem State.mapLanes_hostMem (s : State) (k : Nat) (f : Nat → Thread → Thread) : (s.mapLanes k f).hostMem = s.hostMem := rfl
@[simp] theorem State.mapLanes_host (s : State) (k : Nat) (f : Nat → Thread → Thread) : (s.mapLanes k f).host = s.host := rfl
@[simp] theorem State.mapLanes_read_die (s : State) (k : Nat) (f : Nat → Thread → Thread) (i : Nat) : (s.mapLanes k f).die i = s.die i := rfl
@[simp] theorem State.mapLanes_read_core (s : State) (k : Nat) (f : Nat → Thread → Thread) (i : Nat) : (s.mapLanes k f).core i = s.core i := rfl
@[simp] theorem State.mapLanes_read_quad (s : State) (k : Nat) (f : Nat → Thread → Thread) (i : Nat) : (s.mapLanes k f).quad i = s.quad i := rfl
@[simp] theorem State.mapLanes_read_group (s : State) (k : Nat) (f : Nat → Thread → Thread) (i : Nat) : (s.mapLanes k f).group i = s.group i := rfl
@[simp] theorem State.mapLanes_read_wave (s : State) (k : Nat) (f : Nat → Thread → Thread) (i : Nat) : (s.mapLanes k f).wave i = s.wave i := rfl
@[simp] theorem State.mapLanes_read_bundle (s : State) (k : Nat) (f : Nat → Thread → Thread) (i : Nat) : (s.mapLanes k f).bundle i = s.bundle i := rfl
@[simp] theorem State.mapLanes_read_flight (s : State) (k : Nat) (f : Nat → Thread → Thread) (i : Nat) : (s.mapLanes k f).flight i = s.flight i := rfl
@[simp] theorem State.mapLanes_read_train (s : State) (k : Nat) (f : Nat → Thread → Thread) (i : Nat) : (s.mapLanes k f).train i = s.train i := rfl

/-! ### Reading back -/

theorem State.die_setDie (s : State) (a : Nat) (v : Die) (n : Nat) :
    (s.setDie a v).die n = if n = a then v else s.die n := by
  simp only [State.die, State.setDie, mgetD_mput]
@[simp] theorem State.die_setDie_same (s : State) (a : Nat) (v : Die) : (s.setDie a v).die a = v := by
  simp [State.die_setDie]
theorem State.core_setCore (s : State) (a : Nat) (v : Core) (n : Nat) :
    (s.setCore a v).core n = if n = a then v else s.core n := by
  simp only [State.core, State.setCore, mgetD_mput]
@[simp] theorem State.core_setCore_same (s : State) (a : Nat) (v : Core) : (s.setCore a v).core a = v := by
  simp [State.core_setCore]
theorem State.quad_setQuad (s : State) (a : Nat) (v : Quad) (n : Nat) :
    (s.setQuad a v).quad n = if n = a then v else s.quad n := by
  simp only [State.quad, State.setQuad, mgetD_mput]
@[simp] theorem State.quad_setQuad_same (s : State) (a : Nat) (v : Quad) : (s.setQuad a v).quad a = v := by
  simp [State.quad_setQuad]
theorem State.group_setGroup (s : State) (a : Nat) (v : Group) (n : Nat) :
    (s.setGroup a v).group n = if n = a then v else s.group n := by
  simp only [State.group, State.setGroup, mgetD_mput]
@[simp] theorem State.group_setGroup_same (s : State) (a : Nat) (v : Group) : (s.setGroup a v).group a = v := by
  simp [State.group_setGroup]
theorem State.wave_setWave (s : State) (a : Nat) (v : Wave) (n : Nat) :
    (s.setWave a v).wave n = if n = a then v else s.wave n := by
  simp only [State.wave, State.setWave, mgetD_mput]
@[simp] theorem State.wave_setWave_same (s : State) (a : Nat) (v : Wave) : (s.setWave a v).wave a = v := by
  simp [State.wave_setWave]
theorem State.thread_setThread (s : State) (a : Nat) (v : Thread) (n : Nat) :
    (s.setThread a v).thread n = if n = a then v else s.thread n := by
  simp only [State.thread, State.setThread, mgetD_mput]
@[simp] theorem State.thread_setThread_same (s : State) (a : Nat) (v : Thread) : (s.setThread a v).thread a = v := by
  simp [State.thread_setThread]
theorem State.bundle_setBundle (s : State) (a : Nat) (v : Bundle) (n : Nat) :
    (s.setBundle a v).bundle n = if n = a then v else s.bundle n := by
  simp only [State.bundle, State.setBundle, mgetD_mput]
@[simp] theorem State.bundle_setBundle_same (s : State) (a : Nat) (v : Bundle) : (s.setBundle a v).bundle a = v := by
  simp [State.bundle_setBundle]
theorem State.die_modDie (s : State) (a : Nat) (f : Die → Die) (n : Nat) :
    (s.modDie a f).die n = if n = a then f (s.die a) else s.die n := State.die_setDie s a _ n
@[simp] theorem State.die_modDie_same (s : State) (a : Nat) (f : Die → Die) :
    (s.modDie a f).die a = f (s.die a) := by
  simp [State.die_modDie]
theorem State.core_modCore (s : State) (a : Nat) (f : Core → Core) (n : Nat) :
    (s.modCore a f).core n = if n = a then f (s.core a) else s.core n := State.core_setCore s a _ n
@[simp] theorem State.core_modCore_same (s : State) (a : Nat) (f : Core → Core) :
    (s.modCore a f).core a = f (s.core a) := by
  simp [State.core_modCore]
theorem State.quad_modQuad (s : State) (a : Nat) (f : Quad → Quad) (n : Nat) :
    (s.modQuad a f).quad n = if n = a then f (s.quad a) else s.quad n := State.quad_setQuad s a _ n
@[simp] theorem State.quad_modQuad_same (s : State) (a : Nat) (f : Quad → Quad) :
    (s.modQuad a f).quad a = f (s.quad a) := by
  simp [State.quad_modQuad]
theorem State.group_modGroup (s : State) (a : Nat) (f : Group → Group) (n : Nat) :
    (s.modGroup a f).group n = if n = a then f (s.group a) else s.group n := State.group_setGroup s a _ n
@[simp] theorem State.group_modGroup_same (s : State) (a : Nat) (f : Group → Group) :
    (s.modGroup a f).group a = f (s.group a) := by
  simp [State.group_modGroup]
theorem State.thread_modThread (s : State) (a : Nat) (f : Thread → Thread) (n : Nat) :
    (s.modThread a f).thread n = if n = a then f (s.thread a) else s.thread n := State.thread_setThread s a _ n
@[simp] theorem State.thread_modThread_same (s : State) (a : Nat) (f : Thread → Thread) :
    (s.modThread a f).thread a = f (s.thread a) := by
  simp [State.thread_modThread]
theorem State.flight_modFlight (s : State) (a : Nat) (f : Flight → Flight) (n : Nat) :
    (s.modFlight a f).flight n = if n = a then f (s.flight a) else s.flight n := by
  simp only [State.flight, State.modFlight, mgetD_mput]
@[simp] theorem State.flight_modFlight_same (s : State) (a : Nat) (f : Flight → Flight) :
    (s.modFlight a f).flight a = f (s.flight a) := by
  simp [State.flight_modFlight]
theorem State.train_modTrain (s : State) (a : Nat) (f : Train → Train) (n : Nat) :
    (s.modTrain a f).train n = if n = a then f (s.train a) else s.train n := by
  simp only [State.train, State.modTrain, mgetD_mput]
@[simp] theorem State.train_modTrain_same (s : State) (a : Nat) (f : Train → Train) :
    (s.modTrain a f).train a = f (s.train a) := by
  simp [State.train_modTrain]

end Sys2Proof.Machine
end

