-- ==== Sys2Proof/Laws/Issue.lean ====
section
/-! SUPPORT. Laws of the frame of a word: what the counters change, what the end of a word changes, and what a word whose body
changes its own lanes alone comes to. -/

namespace Sys2Proof.Machine

set_option Elab.async false

/-! ### Folds -/

/-- What every step of a fold keeps, the fold keeps. -/
theorem foldl_keep {σ β γ : Type} (P : σ → γ) (f : σ → β → σ) (l : List β) (s : σ) (h : ∀ s x, P (f s x) = P s) :
    P (l.foldl f s) = P s := by
  induction l generalizing s with
  | nil => rfl
  | cons x r ih => simp only [List.foldl_cons]; rw [ih, h]

/-! ### Counters -/

/-- The state without its cores and groups. -/
def State.base (s : State) : State := { s with cores := [], groups := [] }
/-- Reading a core or a group through an update of one core or group that keeps its bare part. -/
theorem core_bare_modCore (s : State) (ck c : Nat) (f : Core → Core) (h : ∀ c, (f c).bare = c.bare) :
    ((s.modCore ck f).core c).bare = (s.core c).bare := by
  rw [State.core_modCore]
  split
  · rename_i e; subst e; exact h _
  · rfl
theorem group_bare_modGroup (s : State) (gk g : Nat) (f : Group → Group) (h : ∀ g, (f g).bare = g.bare) :
    ((s.modGroup gk f).group g).bare = (s.group g).bare := by
  rw [State.group_modGroup]
  split
  · rename_i e; subst e; exact h _
  · rfl

theorem State.addStall_base (s : State) (gk code n : Nat) : (s.addStall gk code n).base = s.base := rfl
theorem State.addStall_core (s : State) (gk code n c : Nat) : (s.addStall gk code n).core c = s.core c := rfl
theorem State.addStall_group (s : State) (gk code n g : Nat) : ((s.addStall gk code n).group g).bare = (s.group g).bare :=
  group_bare_modGroup s gk g _ fun _ => rfl

/-- The groups of a core charged with cycles. -/
def chargeGroup (n : Nat) (issuing : List Nat) (hold : Option Nat) (s : State) (gk : Nat) : State :=
  if issuing.contains gk then (match hold with | some h => s.addStall gk h n | none => s)
  else s.addStall gk (s.stallReason gk (!issuing.isEmpty)) n

theorem State.elapse_eq (s : State) (ck n : Nat) (gs : List Nat) (h : Option Nat) :
    s.elapse ck n gs h =
      if n = 0 then s
      else ((s.modCore ck fun c => { c with cycles := c.cycles + n }).groupsOn ck).foldl (chargeGroup n gs h)
        (s.modCore ck fun c => { c with cycles := c.cycles + n }) := rfl

theorem chargeGroup_base (n : Nat) (gs : List Nat) (h : Option Nat) (s : State) (gk : Nat) : (chargeGroup n gs h s gk).base = s.base := by
  unfold chargeGroup
  split
  · split
    · exact State.addStall_base ..
    · rfl
  · exact State.addStall_base ..
theorem chargeGroup_core (n : Nat) (gs : List Nat) (h : Option Nat) (s : State) (gk c : Nat) :
    (chargeGroup n gs h s gk).core c = s.core c := by
  unfold chargeGroup
  split
  · split
    · exact State.addStall_core ..
    · rfl
  · exact State.addStall_core ..
theorem chargeGroup_group (n : Nat) (gs : List Nat) (h : Option Nat) (s : State) (gk g : Nat) :
    ((chargeGroup n gs h s gk).group g).bare = (s.group g).bare := by
  unfold chargeGroup
  split
  · split
    · exact State.addStall_group ..
    · rfl
  · exact State.addStall_group ..

theorem State.elapse_base (s : State) (ck n : Nat) (gs : List Nat) (h : Option Nat) : (s.elapse ck n gs h).base = s.base := by
  rw [State.elapse_eq]
  split
  · rfl
  · rw [foldl_keep State.base _ _ _ fun s x => chargeGroup_base n gs h s x]; rfl
theorem State.elapse_group (s : State) (ck n : Nat) (gs : List Nat) (h : Option Nat) (g : Nat) :
    ((s.elapse ck n gs h).group g).bare = (s.group g).bare := by
  rw [State.elapse_eq]
  split
  · rfl
  · rw [foldl_keep (fun s : State => (s.group g).bare) _ _ _ fun s x => chargeGroup_group n gs h s x g]; rfl
theorem State.elapse_core (s : State) (ck n : Nat) (gs : List Nat) (h : Option Nat) (c : Nat) :
    ((s.elapse ck n gs h).core c).bare = (s.core c).bare := by
  rw [State.elapse_eq]
  split
  · rfl
  · rw [foldl_keep (fun s : State => (s.core c).bare) _ _ _ fun s x => by rw [chargeGroup_core]]
    exact core_bare_modCore _ _ _ _ fun _ => rfl

theorem State.countEvent_base (s : State) (ck : Nat) (gks : List Nat) (code n : Nat) :
    (s.countEvent ck gks code n).base = s.base := by
  unfold State.countEvent
  simp only
  split
  · rfl
  · rfl
theorem State.countEvent_group (s : State) (ck : Nat) (gks : List Nat) (code n g : Nat) :
    (s.countEvent ck gks code n).group g = s.group g := by
  unfold State.countEvent
  simp only
  split
  · rfl
  · rfl
theorem State.countEvent_core (s : State) (ck : Nat) (gks : List Nat) (code n c : Nat) :
    ((s.countEvent ck gks code n).core c).bare = (s.core c).bare := by
  unfold State.countEvent
  simp only
  split
  · rfl
  · rw [State.core_setCore]
    split
    · rename_i e; subst e; rfl
    · rfl

theorem noteWriter_base (k : Nat) (i : Instr) (ls : List Nat) (s : State) : (noteWriter k i ls s).base = s.base := by
  unfold noteWriter
  split
  · rfl
  · rfl
theorem noteWriter_group (k : Nat) (i : Instr) (ls : List Nat) (s : State) (g : Nat) : (noteWriter k i ls s).group g = s.group g := by
  unfold noteWriter
  split
  · rfl
  · rfl
theorem noteWriter_core (k : Nat) (i : Instr) (ls : List Nat) (s : State) (c : Nat) :
    ((noteWriter k i ls s).core c).bare = (s.core c).bare := by
  unfold noteWriter
  split
  · rfl
  · exact core_bare_modCore _ _ _ _ fun _ => rfl

/-! ### Reading a field through the base -/

theorem threads_of_base {s t : State} (h : t.base = s.base) : t.threads = s.threads := by
  have := congrArg State.threads h; exact this
theorem bundles_of_base {s t : State} (h : t.base = s.base) : t.bundles = s.bundles := by
  have := congrArg State.bundles h; exact this
theorem bundle_of_base {s t : State} (h : t.base = s.base) (k : Nat) : t.bundle k = s.bundle k := by
  unfold State.bundle; rw [bundles_of_base h]
theorem thread_of_base {s t : State} (h : t.base = s.base) (k : Nat) : t.thread k = s.thread k := by
  unfold State.thread; rw [threads_of_base h]

/-- The lanes of a bundle depend on its lanes and on the states of its threads. -/
theorem lanes_congr {s t : State} (k : Nat) (hb : t.bundle k = s.bundle k) (ht : ∀ n, (t.thread n).stat = (s.thread n).stat) :
    t.lanes k = s.lanes k := by
  unfold State.lanes
  rw [hb]
  simp only [ht]
theorem lanes_of_base {s t : State} (k : Nat) (h : t.base = s.base) : t.lanes k = s.lanes k :=
  lanes_congr k (bundle_of_base h k) fun n => by rw [thread_of_base h]

/-! ### Lanes -/

theorem thread_listed {s : State} {tk : Nat} (h : (s.thread tk).stat = .stream) : mget s.threads tk = some (s.thread tk) := by
  unfold State.thread mgetD at *
  cases hm : mget s.threads tk with
  | none => simp [hm] at h
  | some v => rfl

theorem stat_of_lane {s : State} {k tk : Nat} (h : tk ∈ s.lanes k) : (s.thread tk).stat = .stream := by
  simpa [State.lanes] using (List.mem_filter.mp h).2

/-- The lanes of a bundle are distinct threads when its slots are distinct. -/
theorem lanes_nodup {s : State} {k : Nat} (h : (s.bundle k).lanes.Nodup) : (s.lanes k).Nodup := by
  unfold State.lanes
  apply List.Pairwise.filter
  refine List.Pairwise.map _ ?_ h
  intro a b hab e
  exact hab (by simpa [threadKey] using e)

/-- What a change of the lanes does to each thread. -/
theorem thread_mapLanes (s : State) (k : Nat) (f : Nat → Thread → Thread) (h : (s.bundle k).lanes.Nodup) (tk : Nat) :
    (s.mapLanes k f).thread tk = if tk ∈ s.lanes k then f tk (s.thread tk) else s.thread tk := by
  unfold State.mapLanes
  show mgetD (mmodAll s.threads (s.lanes k) f) tk {} = _
  unfold mgetD
  rw [mget_mmodAll f _ _ (lanes_nodup h)]
  split
  · rename_i hl
    rw [thread_listed (stat_of_lane hl)]
    rfl
  · rfl

theorem bundle_mapLanes (s : State) (k : Nat) (f : Nat → Thread → Thread) (j : Nat) : (s.mapLanes k f).bundle j = s.bundle j := rfl

/-- Lanes that go on streaming stay the lanes. -/
theorem lanes_mapLanes (s : State) (k : Nat) (f : Nat → Thread → Thread) (h : (s.bundle k).lanes.Nodup)
    (hf : ∀ tk t, (f tk t).stat = t.stat) : (s.mapLanes k f).lanes k = s.lanes k := by
  refine lanes_congr (s := s) (t := s.mapLanes k f) k rfl ?_
  · intro n
    rw [thread_mapLanes s k f h]
    split
    · rw [hf]
    · rfl

/-! ### The end of a word -/

theorem rest_of_base {s t : State} (h : t.base = s.base) : t.rest = s.rest := by
  have := congrArg State.rest h; exact this

theorem past_stat (i : Instr) (t : Thread) : (t.past i).stat = t.stat := by
  unfold Thread.past
  simp only
  split
  · rfl
  · rfl

/-- The cycles of a word's beats. -/
theorem beats_base (ck n : Nat) (beats : List (List Nat)) (s : State) :
    (beats.foldl (fun s g => s.elapse ck n g none) s).base = s.base :=
  foldl_keep State.base _ _ _ fun s g => State.elapse_base s ck n g none
theorem beats_group (ck n : Nat) (beats : List (List Nat)) (s : State) (g : Nat) :
    ((beats.foldl (fun s g => s.elapse ck n g none) s).group g).bare = (s.group g).bare :=
  foldl_keep (fun s : State => (s.group g).bare) _ _ _ fun s x => State.elapse_group s ck n x none g
theorem beats_core (ck n : Nat) (beats : List (List Nat)) (s : State) (c : Nat) :
    ((beats.foldl (fun s g => s.elapse ck n g none) s).core c).bare = (s.core c).bare :=
  foldl_keep (fun s : State => (s.core c).bare) _ _ _ fun s x => State.elapse_core s ck n x none c

theorem passBeats_base (ck : Nat) (gs : List Nat) (b : List (List Nat)) (e h n : Nat) (s : State) : (passBeats ck gs b e h n s).base = s.base := by
  unfold passBeats
  simp only
  rw [State.countEvent_base, State.countEvent_base, State.elapse_base, beats_base]
theorem passBeats_group (ck : Nat) (gs : List Nat) (b : List (List Nat)) (e h n : Nat) (s : State) (g : Nat) :
    ((passBeats ck gs b e h n s).group g).bare = (s.group g).bare := by
  unfold passBeats
  simp only
  rw [State.countEvent_group, State.countEvent_group, State.elapse_group, beats_group]
theorem passBeats_core (ck : Nat) (gs : List Nat) (b : List (List Nat)) (e h n : Nat) (s : State) (x : Nat) :
    ((passBeats ck gs b e h n s).core x).bare = (s.core x).bare := by
  unfold passBeats
  simp only
  rw [State.countEvent_core, State.countEvent_core, State.elapse_core, beats_core]

theorem wordCounters_base (k : Nat) (i : Instr) (s : State) : (wordCounters k i s).base = s.base := by
  unfold wordCounters
  rw [passBeats_base, noteWriter_base]
theorem wordCounters_group (k : Nat) (i : Instr) (s : State) (g : Nat) : ((wordCounters k i s).group g).bare = (s.group g).bare := by
  unfold wordCounters
  rw [passBeats_group, noteWriter_group]
theorem wordCounters_core (k : Nat) (i : Instr) (s : State) (c : Nat) : ((wordCounters k i s).core c).bare = (s.core c).bare := by
  unfold wordCounters
  rw [passBeats_core, noteWriter_core]

theorem noteSlot_core (k : Nat) (s : State) (c : Nat) : ((noteSlot k s).core c).bare = (s.core c).bare :=
  core_bare_modCore _ _ _ _ fun _ => rfl

/-- The bundle's place moving on keeps everything but bundles and, at the block's end, the lanes. -/
theorem wordPlace_rest (k : Nat) (i : Instr) (b : Bundle) (s : State)
    (hfit : b.code.length ≤ b.pos + 1 → ((b.code[b.pos]?).map (·.2)).getD true = true) :
    (wordPlace k i b s).rest = s.rest ∧ (wordPlace k i b s).groups = s.groups ∧ (wordPlace k i b s).cores = s.cores := by
  unfold wordPlace
  split
  · rename_i h
    rw [hfit h]
    exact ⟨rfl, rfl, rfl⟩
  · split
    · exact ⟨rfl, rfl, rfl⟩
    · exact ⟨rfl, rfl, rfl⟩

theorem wordPlace_thread (k : Nat) (i : Instr) (b : Bundle) (s : State) (hd : (s.bundle k).lanes.Nodup)
    (hfit : b.code.length ≤ b.pos + 1 → ((b.code[b.pos]?).map (·.2)).getD true = true) (tk : Nat) :
    (wordPlace k i b s).thread tk =
      if tk ∈ s.lanes k ∧ b.code.length ≤ b.pos + 1 then
        { s.thread tk with stat := .ret, sEnd := (info i).s, gLeft := 0, gPat := 0 }
      else s.thread tk := by
  unfold wordPlace
  split
  · rename_i h
    rw [hfit h]
    show (s.mapLanes k _).thread tk = _
    rw [thread_mapLanes s k _ hd]
    simp [h]
  · rename_i h
    simp only [h, and_false, ite_false]
    split
    · rfl
    · rfl

theorem noteSlot_thread (k : Nat) (s : State) (n : Nat) : (noteSlot k s).thread n = s.thread n := rfl
theorem noteSlot_bundle (k : Nat) (s : State) (n : Nat) : (noteSlot k s).bundle n = s.bundle n := rfl
theorem noteSlot_lanes (k : Nat) (s : State) (n : Nat) : (noteSlot k s).lanes n = s.lanes n := rfl
theorem focus_thread (s : State) (o : Option Nat) (n : Nat) : ({ s with focus := o } : State).thread n = s.thread n := rfl
theorem focus_group (s : State) (o : Option Nat) (n : Nat) : ({ s with focus := o } : State).group n = s.group n := rfl
theorem focus_core (s : State) (o : Option Nat) (n : Nat) : ({ s with focus := o } : State).core n = s.core n := rfl

/-- The end of a word in two parts. -/
theorem finishWord_eq (k : Nat) (i : Instr) (s : State) :
    ∃ o, finishWord k i s =
      { wordPlace k i (s.bundle k) (noteSlot k ((wordCounters k i s).mapLanes k fun _ t => t.past i)) with focus := o } :=
  ⟨_, rfl⟩

/-- The end of a word changes each lane of its bundle, and no other thread. -/
theorem thread_finishWord (k : Nat) (i : Instr) (s : State) (h : (s.bundle k).lanes.Nodup) (hfit : s.fitsBlock k) (tk : Nat) :
    (finishWord k i s).thread tk = if tk ∈ s.lanes k then lastLane (s.bundle k) i (s.thread tk) else s.thread tk := by
  obtain ⟨o, e⟩ := finishWord_eq k i s
  have hb := wordCounters_base k i s
  have hbun := bundle_of_base hb k
  have hlan := lanes_of_base k hb
  have hth := thread_of_base hb tk
  rw [e, focus_thread]
  clear e
  generalize wordCounters k i s = w at *
  have h1 : (w.bundle k).lanes.Nodup := by rw [hbun]; exact h
  have hlp := lanes_mapLanes w k (fun _ t => t.past i) h1 (fun _ t => past_stat i t)
  rw [wordPlace_thread k i (s.bundle k) _ (by rw [noteSlot_bundle, bundle_mapLanes]; exact h1) hfit tk,
    noteSlot_lanes, noteSlot_thread, hlp, hlan, thread_mapLanes w k _ h1, hlan, hth]
  unfold lastLane
  by_cases hl : tk ∈ s.lanes k
  · simp only [hl, true_and, ite_true]
  · simp only [hl, false_and, ite_false]

theorem noteSlot_groups (k : Nat) (s : State) (f : Nat → Thread → Thread) : (noteSlot k (s.mapLanes k f)).groups = s.groups := rfl
theorem noteSlot_rest (k : Nat) (s : State) : (noteSlot k s).rest = s.rest := rfl
theorem mapLanes_rest (s : State) (k : Nat) (f : Nat → Thread → Thread) : (s.mapLanes k f).rest = s.rest := rfl
theorem focus_rest (s : State) (o : Option Nat) : ({ s with focus := o } : State).rest = s.rest := rfl

/-- The end of a word changes nothing but threads, bundles, focus, cores and groups. -/
theorem finishWord_rest (k : Nat) (i : Instr) (s : State) (hfit : s.fitsBlock k) : (finishWord k i s).rest = s.rest := by
  obtain ⟨o, e⟩ := finishWord_eq k i s
  rw [e, focus_rest, (wordPlace_rest k i (s.bundle k) _ hfit).1, noteSlot_rest, mapLanes_rest]
  exact rest_of_base (wordCounters_base k i s)

theorem finishWord_group (k : Nat) (i : Instr) (s : State) (hfit : s.fitsBlock k) (g : Nat) :
    ((finishWord k i s).group g).bare = (s.group g).bare := by
  obtain ⟨o, e⟩ := finishWord_eq k i s
  have hw := wordCounters_group k i s g
  rw [e, focus_group, ← hw]
  generalize wordCounters k i s = w
  have h := (wordPlace_rest k i (s.bundle k) (noteSlot k (w.mapLanes k fun _ t => t.past i)) hfit).2.1
  unfold State.group
  rw [h]
  rfl

theorem finishWord_core (k : Nat) (i : Instr) (s : State) (hfit : s.fitsBlock k) (c : Nat) :
    ((finishWord k i s).core c).bare = (s.core c).bare := by
  obtain ⟨o, e⟩ := finishWord_eq k i s
  have hw := wordCounters_core k i s c
  rw [e, focus_core, ← hw]
  generalize wordCounters k i s = w
  have h := (wordPlace_rest k i (s.bundle k) (noteSlot k (w.mapLanes k fun _ t => t.past i)) hfit).2.2
  have h2 := noteSlot_core k (w.mapLanes k fun _ t => t.past i) c
  unfold State.core at h2 ⊢
  rw [h]
  exact h2

/-! ### A word that has its own effect -/

theorem parityStep_none (k : Nat) (i : Instr) (s : State) (h : (s.core (k / 2)).parity = []) : parityStep k i s = s := by
  simp [parityStep, h]

theorem txCheck_none (k : Nat) (i : Instr) (s : State) (h : (info i).tx = .free ∨ ∀ tk ∈ s.lanes k, (s.thread tk).tx = []) :
    txCheck k i s = s := by
  have key : (∀ tk ∈ s.lanes k, (s.thread tk).tx = []) → ((s.active k).filter fun t => (s.thread t).tx ≠ []) = [] := by
    intro h
    rw [List.filter_eq_nil_iff]
    intro t ht
    have := h t (List.mem_filter.mp ht).1
    simp [this]
  unfold txCheck
  rcases h with h | h
  · rw [h]
  · simp only [key h]
    split <;> simp [State.forLanes]

/-- A word that is ready does its body, and then the word ends. -/
theorem runWord_ready {i : Instr} {k : Nat} {s : State} (h : Ready i k s) (body : Nat → State → State) :
    runWord i body s = .next (finishWord k i (body k s)) := by
  unfold runWord
  simp only [h.focus, h.legal, parityStep_none k i s h.parity, txCheck_none k i s h.tx]
  simp

/-- A body that changes its lanes alone. -/
theorem runWord_mapLanes {i : Instr} {k : Nat} {s : State} (h : Ready i k s) (f : Nat → Thread → Thread)
    (hf : ∀ tk t, (f tk t).stat = t.stat) (tk : Nat) :
    (finishWord k i (s.mapLanes k f)).thread tk = if tk ∈ s.lanes k then lastLane (s.bundle k) i (f tk (s.thread tk)) else s.thread tk := by
  have hd : ((s.mapLanes k f).bundle k).lanes.Nodup := h.distinct
  rw [thread_finishWord k i _ hd h.fits, lanes_mapLanes s k f h.distinct hf, thread_mapLanes s k f h.distinct]
  split
  · rfl
  · rfl

/-! ### The frame of a word -/

theorem wordPlace_bundle (k : Nat) (i : Instr) (b : Bundle) (s : State) (j : Nat) (h : j ≠ k)
    (hfit : b.code.length ≤ b.pos + 1 → ((b.code[b.pos]?).map (·.2)).getD true = true) :
    (wordPlace k i b s).bundle j = s.bundle j := by
  unfold wordPlace
  split
  · rename_i hl
    rw [hfit hl]
    show mgetD (mdel s.bundles k) j {} = _
    unfold mgetD; rw [mget_mdel_ne _ h]; rfl
  · split
    · show mgetD (mdel s.bundles k) j {} = _
      unfold mgetD; rw [mget_mdel_ne _ h]; rfl
    · rw [State.bundle_setBundle, if_neg h]

theorem focus_bundle (s : State) (o : Option Nat) (n : Nat) : ({ s with focus := o } : State).bundle n = s.bundle n := rfl

theorem finishWord_bundle (k : Nat) (i : Instr) (s : State) (hfit : s.fitsBlock k) (j : Nat) (h : j ≠ k) :
    (finishWord k i s).bundle j = s.bundle j := by
  obtain ⟨o, e⟩ := finishWord_eq k i s
  rw [e, focus_bundle, wordPlace_bundle k i (s.bundle k) _ j h hfit, noteSlot_bundle, bundle_mapLanes,
    bundle_of_base (wordCounters_base k i s)]

/-- The end of a word after a body that keeps the bundle and its lanes: the frame, and each lane past the word. -/
theorem finishWord_around {k : Nat} {i : Instr} {s mid : State} (hd : (s.bundle k).lanes.Nodup) (hf : s.fitsBlock k)
    (hb : mid.bundle k = s.bundle k) (hl : mid.lanes k = s.lanes k) :
    Around k s mid (finishWord k i mid) ∧
      ∀ tk ∈ s.lanes k, (finishWord k i mid).thread tk = lastLane (s.bundle k) i (mid.thread tk) := by
  have hf' : mid.fitsBlock k := by unfold State.fitsBlock; rw [hb]; exact hf
  have hd' : (mid.bundle k).lanes.Nodup := by rw [hb]; exact hd
  have ht := thread_finishWord k i mid hd' hf'
  refine ⟨⟨finishWord_rest k i mid hf', finishWord_group k i mid hf', finishWord_core k i mid hf', ?_,
    fun j h => finishWord_bundle k i mid hf' j h⟩, ?_⟩
  · intro tk h; rw [ht, hl, if_neg h]
  · intro tk h; rw [ht, hl, if_pos h, hb]

/-- A word that is ready and whose body changes its lanes alone, none of which leaves the stream. -/
theorem runWord_lanes {i : Instr} {k : Nat} {s : State} (h : Ready i k s) (f : Nat → Thread → Thread)
    (hf : ∀ tk t, (f tk t).stat = t.stat) :
    ∃ t, runWord i (fun k s => s.mapLanes k f) s = .next t ∧ Around k s s t ∧
      ∀ tk ∈ s.lanes k, t.thread tk = lastLane (s.bundle k) i (f tk (s.thread tk)) := by
  refine ⟨_, runWord_ready h _, ?_⟩
  obtain ⟨ha, ht⟩ := finishWord_around (i := i) (mid := s.mapLanes k f) h.distinct h.fits rfl (lanes_mapLanes s k f h.distinct hf)
  refine ⟨⟨ha.rest, ha.groups, ha.cores, ?_, ha.bundles⟩, ?_⟩
  · intro tk hn; rw [ha.threads tk hn, thread_mapLanes s k f h.distinct, if_neg hn]
  · intro tk hm; rw [ht tk hm, thread_mapLanes s k f h.distinct, if_pos hm]

/-! ### A lane past a word -/

theorem lastLane_eq (b : Bundle) (i : Instr) (t : Thread) :
    lastLane b i t = t.past i ∨
      (b.code.length ≤ b.pos + 1 ∧ lastLane b i t = { t.past i with stat := .ret, sEnd := (info i).s, gLeft := 0, gPat := 0 }) := by
  unfold lastLane
  split
  · rename_i h; exact .inr ⟨h, rfl⟩
  · exact .inl rfl

theorem past_still (i : Instr) (t : Thread) : (t.past i).still = t.still := by
  unfold Thread.past
  by_cases h : (info i).cls = .hint
  · simp only [if_pos h]; rfl
  · simp only [if_neg h]; rfl
theorem past_regs (i : Instr) (t : Thread) : (t.past i).regs = t.regs := by
  unfold Thread.past
  by_cases h : (info i).cls = .hint
  · simp only [if_pos h]
  · simp only [if_neg h]

/-- What the end of a word that is no hint does to a lane. -/
theorem lastLane_passed (b : Bundle) (i : Instr) (t : Thread) (h : (info i).cls ≠ .hint) (hp : ∀ c n p, i ≠ .pblk c n p) :
    Passed (decide (b.code.length ≤ b.pos + 1)) t (lastLane b i t) := by
  by_cases hl : b.code.length ≤ b.pos + 1
  · have : lastLane b i t = { t.past i with stat := .ret, sEnd := (info i).s, gLeft := 0, gPat := 0 } := by
      unfold lastLane; rw [if_pos hl]
    rw [this]
    constructor <;> simp [Thread.past, h, hl]
  · have : lastLane b i t = t.past i := by unfold lastLane; rw [if_neg hl]
    rw [this]
    constructor <;> simp [Thread.past, h, hl]

theorem lastLane_still (b : Bundle) (i : Instr) (t : Thread) : (lastLane b i t).still = t.still := by
  obtain h | ⟨-, h⟩ := lastLane_eq b i t
  · rw [h]; exact past_still i t
  · rw [h]; exact past_still i t

theorem lastLane_regs (b : Bundle) (i : Instr) (t : Thread) : (lastLane b i t).regs = t.regs := by
  obtain h | ⟨-, h⟩ := lastLane_eq b i t
  · rw [h]; exact past_regs i t
  · rw [h]; exact past_regs i t

theorem past_win (i : Instr) (t : Thread) :
    (t.past i).win = match (info i).cls with | .alu _ => t.win | .hint => t.win | _ => none :: t.win := by
  unfold Thread.past
  cases hc : (info i).cls <;> simp [hc]

theorem lastLane_win (b : Bundle) (i : Instr) (t : Thread) :
    (lastLane b i t).win = match (info i).cls with | .alu _ => t.win | .hint => t.win | _ => none :: t.win := by
  obtain h | ⟨-, h⟩ := lastLane_eq b i t
  · rw [h]; exact past_win i t
  · rw [h]; exact past_win i t

end Sys2Proof.Machine
end

