-- ==== Sys2Proof/Laws/Alu.lean ====
section
/-! SUPPORT. Laws of register destinations, and what an ALU-class word comes to. -/

namespace Sys2Proof.Machine

set_option Elab.async false

theorem Thread.setReg_reg (t : Thread) (n r : Nat) (v : Word) :
    (t.setReg n v).reg r = if r = n ∧ r ≠ 0 then v else t.reg r := by
  unfold Thread.setReg Thread.reg
  by_cases hn : n = 0
  · subst hn; by_cases hr : r = 0 <;> simp [hr]
  · by_cases hr : r = 0
    · simp [hr]
    · simp only [hn, hr, if_false, mgetD_mput]; simp [hr]

theorem Thread.setRegs_reg (vs : List Word) (t : Thread) (n r : Nat) :
    (t.setRegs n vs).reg r = ((landsAt (.reg n) r).bind fun i => vs[i]?).getD (t.reg r) := by
  induction vs generalizing t n with
  | nil => unfold landsAt Thread.setRegs; simp only; split <;> simp
  | cons v vs ih =>
    rw [Thread.setRegs, ih, Thread.setReg_reg]
    unfold landsAt
    simp only
    by_cases h0 : r = 0
    · simp [h0]
    · by_cases hn : n ≤ r
      · by_cases he : r = n
        · subst he; simp [h0, show ¬ r + 1 ≤ r by omega]
        · have h1 : n + 1 ≤ r := by omega
          have h2 : r - n = (r - (n + 1)) + 1 := by omega
          simp [h0, hn, h1, h2, he]
      · have h1 : ¬ n + 1 ≤ r := by omega
        have he : r ≠ n := by omega
        simp [h0, hn, h1, he]

theorem Thread.note_regs (k : Nat) (t : Thread) (n : Nat) : (t.note n k).regs = t.regs := by
  induction k generalizing t n with
  | zero => rfl
  | succ k ih => rw [Thread.note, ih]
theorem Thread.note_stillNoRegs (k : Nat) (t : Thread) (n : Nat) : (t.note n k).stillNoRegs = t.stillNoRegs := by
  induction k generalizing t n with
  | zero => rfl
  | succ k ih => rw [Thread.note, ih]; rfl
theorem Thread.setReg_stillNoRegs (t : Thread) (n : Nat) (v : Word) : (t.setReg n v).stillNoRegs = t.stillNoRegs := by
  unfold Thread.setReg; split <;> rfl
theorem Thread.setRegs_stillNoRegs (vs : List Word) (t : Thread) (n : Nat) : (t.setRegs n vs).stillNoRegs = t.stillNoRegs := by
  induction vs generalizing t n with
  | nil => rfl
  | cons v vs ih => rw [Thread.setRegs, ih, Thread.setReg_stillNoRegs]

/-- A lane without its registers and its window. -/
def Thread.noWrite (t : Thread) : Thread := { t with regs := [], wrote := [], win := [] }

theorem Thread.note_noWrite (k : Nat) (t : Thread) (n : Nat) : (t.note n k).noWrite = t.noWrite := by
  induction k generalizing t n with
  | zero => rfl
  | succ k ih => rw [Thread.note, ih]; rfl
theorem Thread.setReg_noWrite (t : Thread) (n : Nat) (v : Word) : (t.setReg n v).noWrite = t.noWrite := by
  unfold Thread.setReg; split <;> rfl
theorem Thread.setRegs_noWrite (vs : List Word) (t : Thread) (n : Nat) : (t.setRegs n vs).noWrite = t.noWrite := by
  induction vs generalizing t n with
  | nil => rfl
  | cons v vs ih => rw [Thread.setRegs, ih, Thread.setReg_noWrite]

theorem Thread.write_reg (t : Thread) (d : Dst) (vs : List Word) (r : Nat) :
    (t.write d vs).reg r = ((landsAt d r).bind fun i => vs[i]?).getD (t.reg r) := by
  cases d with
  | trans => rfl
  | reg n =>
    rw [← Thread.setRegs_reg]
    unfold Thread.write Thread.reg
    simp only [Thread.note_regs]
theorem Thread.write_noWrite (t : Thread) (d : Dst) (vs : List Word) : (t.write d vs).noWrite = t.noWrite := by
  cases d with
  | trans => rfl
  | reg n => unfold Thread.write; simp only [Thread.note_noWrite, Thread.setRegs_noWrite]

/-- What emit leaves of a thread. -/
theorem Thread.emit_noWrite (t : Thread) (d : Dst) (n : Nat) (f : Thread → List Word) : (t.emit d n f).noWrite = t.noWrite := by
  unfold Thread.emit
  split
  · exact Thread.write_noWrite t d (f t)
  · rfl
theorem Thread.emit_stat (t : Thread) (d : Dst) (n : Nat) (f : Thread → List Word) : (t.emit d n f).stat = t.stat := by
  have h := congrArg Thread.stat (Thread.emit_noWrite t d n f); exact h
theorem Thread.emit_reg (t : Thread) (d : Dst) (n : Nat) (f : Thread → List Word) (r : Nat) :
    (t.emit d n f).reg r = if t.on then ((landsAt d r).bind fun i => (f t)[i]?).getD (t.reg r) else t.reg r := by
  unfold Thread.emit
  split
  · exact Thread.write_reg t d (f t) r
  · rfl
theorem Thread.emit_win (t : Thread) (d : Dst) (n : Nat) (f : Thread → List Word) :
    (t.emit d n f).win = some (if t.on then f t else t.oldWords d n) :: t.win := by
  unfold Thread.emit
  split
  · rfl
  · rfl

/-- Moving past a word depends on nothing that a word writes. -/
theorem Passed.of_noWrite {last : Bool} {t u v : Thread} (h : u.noWrite = t.noWrite) (p : Passed last u v) : Passed last t v := by
  have e := fun {β : Type} (g : Thread → β) => congrArg g h
  have e1 : u.off = t.off := e Thread.off
  have e2 : u.stat = t.stat := e Thread.stat
  have e3 : u.gLeft = t.gLeft := e Thread.gLeft
  have e4 : u.gPat = t.gPat := e Thread.gPat
  have e5 : u.on = t.on := e Thread.on
  have e6 : u.hPrio = t.hPrio := e Thread.hPrio
  have e7 : u.boost = t.boost := e Thread.boost
  obtain ⟨a, b, c, d, f⟩ := p
  exact ⟨e1 ▸ a, e2 ▸ b, c, by rw [e3, e4] at d; exact d, by rw [e5, e6, e7] at f; exact f⟩

/-- An ALU-class word over `emit`: the frame, and each lane's result. -/
theorem runWord_emit {i : Instr} {k : Nat} {s : State} (h : Ready i k s) (w : Nat) (hc : (info i).cls = .alu w)
    (d : Dst) (n : Nat) (f : Thread → List Word) (hn : ∀ t, (f t).length = n) :
    ∃ t, runWord i (fun k s => s.mapLanes k fun _ t => t.emit d n f) s = .next t ∧ Around k s s t ∧
      ∀ tk ∈ s.lanes k, Result (s.atLast k) d (f (s.thread tk)) (s.thread tk) (t.thread tk) := by
  obtain ⟨t, e, ha, ht⟩ := runWord_lanes h (fun _ t => t.emit d n f) fun _ t => Thread.emit_stat t d n f
  refine ⟨t, e, ha, fun tk hm => ?_⟩
  rw [ht tk hm]
  generalize s.thread tk = u
  have hp : ∀ c n p, i ≠ .pblk c n p := by rintro c n p rfl; nomatch hc
  refine ⟨Passed.of_noWrite (Thread.emit_noWrite u d n f) (lastLane_passed (s.bundle k) i _ (by rw [hc]; simp) hp), ?_, ?_, ?_⟩
  · intro r
    rw [← Thread.emit_reg]
    unfold Thread.reg
    rw [lastLane_regs]
  · rw [lastLane_win, hc, hn]; exact Thread.emit_win u d n f
  · have := congrArg Thread.stillNoRegs (Thread.emit_noWrite u d n f)
    have h2 := congrArg (fun t : Thread => { t with regs := [], wrote := [] }) (lastLane_still (s.bundle k) i (u.emit d n f))
    exact h2.trans this

/-- One 32-bit result for each lane. -/
theorem runWord_aluWord {i : Instr} {k : Nat} {s : State} (h : Ready i k s) (w : Nat) (hc : (info i).cls = .alu w)
    (d : Dst) (f : Thread → Word) :
    ∃ t, runWord i (aluWord d f) s = .next t ∧ Around k s s t ∧
      ∀ tk ∈ s.lanes k, Result (s.atLast k) d [f (s.thread tk)] (s.thread tk) (t.thread tk) :=
  runWord_emit h w hc d 1 (fun t => [f t]) fun _ => rfl

/-- One 64-bit result for each lane. -/
theorem runWord_aluPair {i : Instr} {k : Nat} {s : State} (h : Ready i k s) (w : Nat) (hc : (info i).cls = .alu w)
    (d : Dst) (f : Thread → Dword) :
    ∃ t, runWord i (aluPair d f) s = .next t ∧ Around k s s t ∧
      ∀ tk ∈ s.lanes k, Result (s.atLast k) d (pairWords (f (s.thread tk))) (s.thread tk) (t.thread tk) :=
  runWord_emit h w hc d 2 (fun t => pairWords (f t)) fun _ => rfl

end Sys2Proof.Machine
end

