-- ==== Sys2Proof/Laws/Asked.lean ====
section
/-! SUPPORT. What making requests changes: one relation that every operation of a memory, queue or request word keeps, and what a word
comes to whose body keeps it. -/

namespace Sys2Proof.Machine

set_option Elab.async false

/-- The state without its numbers, dies, cores, groups, threads, requests and links. -/
def State.fixed (s : State) : State := { s with nextId := 0, dies := [], cores := [], groups := [], threads := [], reqs := [], links := [] }

/-- Between s and t only requests were made and traps taken. -/
structure Asked (s t : State) : Prop where
  fixed : t.fixed = s.fixed
  dies : ∀ d, (t.die d).noFaults = (s.die d).noFaults
  cores : ∀ c, (t.core c).calm = (s.core c).calm
  groups : ∀ g, (t.group g).calm = (s.group g).calm
  threads : ∀ tk, (t.thread tk).noAsks = (s.thread tk).noAsks
  cands : ∀ tk, ∃ more, (t.thread tk).cands = more ++ (s.thread tk).cands
  stays : ∀ tk, (t.thread tk).cands = (s.thread tk).cands → (t.thread tk).stat = (s.thread tk).stat
  ids : s.nextId ≤ t.nextId
  links : Forwarded s.nextId s t
  reqs : ∃ new, t.reqs = s.reqs ++ new ∧ ∀ r ∈ new, s.nextId ≤ r.id

/-- Links that stay as they are. -/
theorem Forwarded.same {n : Nat} {s t : State} (h : t.links = s.links) : Forwarded n s t :=
  fun l => ⟨[], by unfold State.link; rw [h, List.append_nil], by simp⟩
theorem Forwarded.trans {n m : Nat} {s t u : State} (h : Forwarded n s t) (g : Forwarded m t u) (le : n ≤ m) : Forwarded n s u := by
  intro l
  obtain ⟨a, ha, pa⟩ := h l
  obtain ⟨b, hb, pb⟩ := g l
  refine ⟨a ++ b, by rw [hb, ha, List.append_assoc], fun p hp => ?_⟩
  rcases List.mem_append.mp hp with hp | hp
  · exact pa p hp
  · obtain ⟨id, hi, e⟩ := pb p hp
    exact ⟨id, Nat.le_trans le hi, e⟩

theorem Asked.refl (s : State) : Asked s s :=
  ⟨rfl, fun _ => rfl, fun _ => rfl, fun _ => rfl, fun _ => rfl, fun _ => ⟨[], rfl⟩, fun _ _ => rfl, Nat.le_refl _, .same rfl, ⟨[], by simp, by simp⟩⟩

theorem Asked.trans {s t u : State} (h : Asked s t) (g : Asked t u) : Asked s u := by
  refine ⟨g.fixed.trans h.fixed, fun d => (g.dies d).trans (h.dies d), fun c => (g.cores c).trans (h.cores c),
    fun x => (g.groups x).trans (h.groups x), fun x => (g.threads x).trans (h.threads x), ?_, ?_, Nat.le_trans h.ids g.ids,
    h.links.trans g.links h.ids, ?_⟩
  · intro tk
    obtain ⟨a, ha⟩ := h.cands tk
    obtain ⟨b, hb⟩ := g.cands tk
    exact ⟨b ++ a, by rw [hb, ha, List.append_assoc]⟩
  · intro tk e
    obtain ⟨a, ha⟩ := h.cands tk
    obtain ⟨b, hb⟩ := g.cands tk
    have : b ++ a = [] := by
      have h1 : b ++ (a ++ (s.thread tk).cands) = (s.thread tk).cands := by rw [← ha, ← hb, e]
      have h2 := congrArg List.length h1
      have h3 : (b ++ a).length = 0 := by simp only [List.length_append] at h2 ⊢; omega
      exact List.eq_nil_of_length_eq_zero h3
    have hb0 : b = [] := (List.append_eq_nil_iff.mp this).1
    have ha0 : a = [] := (List.append_eq_nil_iff.mp this).2
    rw [g.stays tk (by rw [hb, hb0]; rfl), h.stays tk (by rw [ha, ha0]; rfl)]
  · obtain ⟨a, ha, hi⟩ := h.reqs
    obtain ⟨b, hb, hj⟩ := g.reqs
    refine ⟨a ++ b, by rw [hb, ha, List.append_assoc], fun r hr => ?_⟩
    rcases List.mem_append.mp hr with hr | hr
    · exact hi r hr
    · exact Nat.le_trans h.ids (hj r hr)

/-! ### Steps that ask -/

theorem Asked.ofThread (s : State) (a : Nat) (f : Thread → Thread) (h : ∀ t, (f t).noAsks = t.noAsks)
    (hc : ∀ t, ∃ more, (f t).cands = more ++ t.cands) (hs : ∀ t, (f t).cands = t.cands → (f t).stat = t.stat) :
    Asked s (s.modThread a f) := by
  refine ⟨rfl, fun _ => rfl, fun _ => rfl, fun _ => rfl, ?_, ?_, ?_, Nat.le_refl _, .same rfl, ⟨[], by simp, by simp⟩⟩
  · intro tk; rw [State.thread_modThread]; split
    · rename_i e; subst e; exact h _
    · rfl
  · intro tk; rw [State.thread_modThread]; split
    · rename_i e; subst e; exact hc _
    · exact ⟨[], rfl⟩
  · intro tk; rw [State.thread_modThread]; split
    · rename_i e; subst e; exact hs _
    · exact fun _ => rfl

/-- A change of a thread that touches neither its state nor its traps. -/
theorem Asked.ofThread' (s : State) (a : Nat) (f : Thread → Thread) (h : ∀ t, (f t).noAsks = t.noAsks)
    (hc : ∀ t, (f t).cands = t.cands) (hs : ∀ t, (f t).stat = t.stat) : Asked s (s.modThread a f) :=
  Asked.ofThread s a f h (fun t => ⟨[], by rw [hc]; rfl⟩) fun t _ => hs t

theorem Asked.ofGroup (s : State) (a : Nat) (f : Group → Group) (h : ∀ g, (f g).calm = g.calm) : Asked s (s.modGroup a f) := by
  refine ⟨rfl, fun _ => rfl, fun _ => rfl, ?_, fun _ => rfl, fun _ => ⟨[], rfl⟩, fun _ _ => rfl, Nat.le_refl _, .same rfl, ⟨[], by simp, by simp⟩⟩
  intro g; rw [State.group_modGroup]; split
  · rename_i e; subst e; exact h _
  · rfl

theorem Asked.ofCore (s : State) (a : Nat) (f : Core → Core) (h : ∀ c, (f c).calm = c.calm) : Asked s (s.modCore a f) := by
  refine ⟨rfl, fun _ => rfl, ?_, fun _ => rfl, fun _ => rfl, fun _ => ⟨[], rfl⟩, fun _ _ => rfl, Nat.le_refl _, .same rfl, ⟨[], by simp, by simp⟩⟩
  intro c; rw [State.core_modCore]; split
  · rename_i e; subst e; exact h _
  · rfl

theorem Asked.ofDie (s : State) (a : Nat) (f : Die → Die) (h : ∀ d, (f d).noFaults = d.noFaults) : Asked s (s.modDie a f) := by
  refine ⟨rfl, ?_, fun _ => rfl, fun _ => rfl, fun _ => rfl, fun _ => ⟨[], rfl⟩, fun _ _ => rfl, Nat.le_refl _, .same rfl, ⟨[], by simp, by simp⟩⟩
  intro d; rw [State.die_modDie]; split
  · rename_i e; subst e; exact h _
  · rfl

theorem calm_of_bare {c d : Core} (h : c.bare = d.bare) : c.calm = d.calm := by
  unfold Core.calm; rw [h]
theorem Group.calm_of_bare {c d : Group} (h : c.bare = d.bare) : c.calm = d.calm := by
  unfold Group.calm; rw [h]

/-- What changes cores and groups only in what streaming words move. -/
theorem Asked.ofBase {s t : State} (hb : t.base = s.base) (hg : ∀ g, (t.group g).bare = (s.group g).bare)
    (hc : ∀ c, (t.core c).bare = (s.core c).bare) : Asked s t := by
  have e := fun {β : Type} (f : State → β) => congrArg f hb
  have ht := fun tk => thread_of_base hb tk
  refine ⟨?_, ?_, fun c => calm_of_bare (hc c), fun g => Group.calm_of_bare (hg g), fun tk => by rw [ht], fun tk => ⟨[], by rw [ht]; rfl⟩,
    fun tk _ => by rw [ht], ?_, .same (e State.links), ⟨[], ?_, by simp⟩⟩
  · show t.base.fixed = s.base.fixed; rw [hb]
  · intro d
    have hd : t.dies = s.dies := e State.dies
    unfold State.die; rw [hd]
  · have hi : t.nextId = s.nextId := e State.nextId
    exact Nat.le_of_eq hi.symm
  · have hr : t.reqs = s.reqs := e State.reqs
    rw [hr, List.append_nil]

theorem Asked.countEvent (s : State) (ck : Nat) (gks : List Nat) (code n : Nat) : Asked s (s.countEvent ck gks code n) :=
  Asked.ofBase (State.countEvent_base ..) (fun _ => by rw [State.countEvent_group]) fun _ => State.countEvent_core ..
theorem Asked.elapse (s : State) (ck n : Nat) (gs : List Nat) (h : Option Nat) : Asked s (s.elapse ck n gs h) :=
  Asked.ofBase (State.elapse_base ..) (fun _ => State.elapse_group ..) fun _ => State.elapse_core ..

theorem Asked.number (s : State) (n : Nat) (h : s.nextId ≤ n) : Asked s { s with nextId := n } :=
  ⟨rfl, fun _ => rfl, fun _ => rfl, fun _ => rfl, fun _ => rfl, fun _ => ⟨[], rfl⟩, fun _ _ => rfl, h, .same rfl, ⟨[], by simp, by simp⟩⟩

theorem countReq_spec (s : State) (r : Req) :
    Asked s (countReq s r) ∧ (countReq s r).reqs = s.reqs ∧ (countReq s r).nextId = s.nextId := by
  have one : ∀ (u : State) (c : Bool) (code ck : Nat) (gks : List Nat), Asked s u → u.reqs = s.reqs → u.nextId = s.nextId →
      Asked s (if c = true then u.countEvent ck gks code 1 else u) ∧ (if c = true then u.countEvent ck gks code 1 else u).reqs = s.reqs
        ∧ (if c = true then u.countEvent ck gks code 1 else u).nextId = s.nextId := by
    intro u c code ck gks h hr hi
    split
    · refine ⟨h.trans (Asked.countEvent ..), ?_, ?_⟩
      · rw [← hr]; have := congrArg State.reqs (State.countEvent_base u ck gks code 1); exact this
      · rw [← hi]; have := congrArg State.nextId (State.countEvent_base u ck gks code 1); exact this
    · exact ⟨h, hr, hi⟩
  obtain ⟨a, b, c⟩ := one s (r.kind.isGlobal && r.phase = .walk) 9 r.core (r.lanes.map fun l => s.groupKey (threadKey r.core l.slot))
    (Asked.refl s) rfl rfl
  exact one _ _ 8 r.core _ a b c

/-- A routed request is the one that was asked for, sent or left to be walked. -/
theorem routeReq_spec (s : State) (r : Req) : ∃ ph leaf home, routeReq s r = { r with phase := ph, leaf := leaf, home := home } := by
  unfold routeReq
  split
  · exact ⟨_, _, _, rfl⟩
  · split
    · simp only
      split
      · exact ⟨_, _, _, rfl⟩
      · exact ⟨_, _, _, rfl⟩
    · exact ⟨_, _, _, rfl⟩

/-- A request that is sent out is one packet more, or none. -/
theorem sentOut_spec (s : State) (r : Req) (n : Nat) (hr : n ≤ r.id) :
    Forwarded n s (sentOut s r) ∧ (∃ i, s.nextId ≤ i ∧ sentOut s r = { s with nextId := i, links := (sentOut s r).links }) := by
  unfold sentOut
  split
  · rename_i hne
    have hd : r.die ≠ r.home := fun h => by simp [h] at hne
    unfold sendPacket
    simp only
    rw [if_neg hd]
    split
    · exact ⟨.same rfl, s.nextId, Nat.le_refl _, rfl⟩
    · refine ⟨?_, s.nextId + 1, Nat.le_succ _, rfl⟩
      unfold inject setLink
      simp only
      intro l
      unfold State.link
      simp only [mgetD_mput]
      split
      · rename_i e; subst e; exact ⟨[_], rfl, fun p hp => by cases List.mem_singleton.mp hp; exact ⟨_, hr, rfl⟩⟩
      · exact ⟨[], by rw [List.append_nil], by simp⟩
  · exact ⟨.same rfl, s.nextId, Nat.le_refl _, rfl⟩

/-- pushReq puts one request behind the others: the one it is given, numbered, and sent or left to be walked. -/
theorem pushReq_spec (s : State) (r : Req) :
    Asked s (pushReq s r) ∧
      ∃ ph leaf home, (pushReq s r).reqs = s.reqs ++ [{ r with id := s.nextId, phase := ph, leaf := leaf, home := home }] := by
  obtain ⟨ph, leaf, home, e⟩ := routeReq_spec s { r with id := s.nextId }
  obtain ⟨h, hr, hi⟩ := countReq_spec s (routeReq s { r with id := s.nextId })
  have hq : (routeReq s { r with id := s.nextId }).id = s.nextId := by rw [e]
  let u : State :=
    { countReq s (routeReq s { r with id := s.nextId }) with
      reqs := (countReq s (routeReq s { r with id := s.nextId })).reqs ++ [routeReq s { r with id := s.nextId }]
      nextId := (countReq s (routeReq s { r with id := s.nextId })).nextId + 1 }
  have hu : u.reqs = s.reqs ++ [routeReq s { r with id := s.nextId }] := by
    show (countReq _ _).reqs ++ _ = _; rw [hr]
  obtain ⟨hl, i, hle, eq⟩ := sentOut_spec u (routeReq s { r with id := s.nextId }) s.nextId (Nat.le_of_eq hq.symm)
  have hni : s.nextId ≤ u.nextId := by show s.nextId ≤ (countReq _ _).nextId + 1; omega
  have ep : pushReq s r = sentOut u (routeReq s { r with id := s.nextId }) := rfl
  rw [ep, eq]
  rw [eq] at hl
  refine ⟨⟨h.fixed, h.dies, h.cores, h.groups, h.threads, h.cands, h.stays, Nat.le_trans hni hle, ?_, ⟨_, hu, ?_⟩⟩, ph, leaf, home, ?_⟩
  · exact Forwarded.trans (t := u) (fun l => h.links l) hl (Nat.le_refl _)
  · intro x hx; cases List.mem_singleton.mp hx; exact Nat.le_of_eq hq.symm
  · show u.reqs = _; rw [hu, e]

theorem Asked.push (s : State) (r : Req) : Asked s (pushReq s r) := (pushReq_spec s r).1

theorem Asked.renumber {s t : State} (h : Asked s t) (n : Nat) (hn : t.nextId ≤ n) : Asked s { t with nextId := n } :=
  h.trans (Asked.number t n hn)

theorem Asked.thenGroup {s t : State} (h : Asked s t) (a : Nat) (f : Group → Group) (hf : ∀ g, (f g).calm = g.calm) :
    Asked s (t.modGroup a f) := h.trans (Asked.ofGroup t a f hf)
theorem Asked.thenCore {s t : State} (h : Asked s t) (a : Nat) (f : Core → Core) (hf : ∀ c, (f c).calm = c.calm) :
    Asked s (t.modCore a f) := h.trans (Asked.ofCore t a f hf)

/-! ### The operations of the words -/

theorem Asked.trap (s : State) (tk : Nat) (ti : TrapInfo) : Asked s (trapThread s tk ti) :=
  Asked.ofThread s tk _ (fun _ => rfl) (fun _ => ⟨[_], rfl⟩) fun t h => absurd (congrArg List.length h) (by simp)

theorem Asked.issueTrap (s : State) (tk : Nat) (wr : Bool) (ti : TrapInfo) : Asked s (issueTrap s tk wr ti) := by
  unfold Machine.issueTrap
  split
  · refine Asked.trans ?_ (Asked.trap _ _ _)
    refine Asked.trans ?_ (Asked.number _ _ (Nat.le_succ _))
    exact Asked.ofDie s _ _ fun _ => rfl
  · exact Asked.trap _ _ _

theorem Asked.noteStore (s : State) (tk op addr size : Nat) (data : List Byte) : Asked s (noteStore s tk op addr size data) :=
  Asked.ofThread' s tk _ (fun _ => rfl) (fun _ => rfl) fun _ => rfl
theorem Asked.noteSend (s : State) (tk op addr : Nat) (data : List Byte) : Asked s (noteSend s tk op addr data) :=
  Asked.ofThread' s tk _ (fun _ => rfl) (fun _ => rfl) fun _ => rfl
theorem Asked.twinTake (s : State) (tk : Nat) : Asked s (twinTake s tk) :=
  Asked.ofThread' s tk _ (fun _ => rfl) (fun _ => rfl) fun _ => rfl
theorem Asked.takeSignal (s : State) (tk : Nat) : Asked s (takeSignal s tk).2 :=
  Asked.ofThread' s tk (fun t => { t with relSig := none }) (fun _ => rfl) (fun _ => rfl) fun _ => rfl
theorem Asked.putBallast (s : State) (tk addr : Nat) (data : List Byte) (held : Bool) (sig : Option Scope) (pol : CPol) :
    Asked s (putBallast s tk addr data held sig pol) := by
  unfold Machine.putBallast Machine.addBallast
  refine Asked.renumber ?_ _ (Nat.le_succ s.nextId)
  exact Asked.ofGroup s _ _ fun _ => rfl

/-- A fold of steps that ask. -/
theorem Asked.fold {β : Type} (l : List β) (f : State → β → State) (h : ∀ s x, Asked s (f s x)) (s : State) : Asked s (l.foldl f s) := by
  induction l generalizing s with
  | nil => exact Asked.refl s
  | cons x r ih => exact (h s x).trans (ih _)

theorem Asked.sendBallast (s : State) (tk : Nat) (p : BStore → Bool) : Asked s (sendBallast s tk p) := by
  unfold Machine.sendBallast
  simp only
  refine Asked.trans (Asked.ofGroup s (s.groupKey tk) (fun g => { g with opened := false }) fun _ => rfl) (Asked.fold _ _ ?_ _)
  intro u i
  split
  · exact Asked.refl u
  · split
    · exact Asked.refl u
    · refine Asked.thenGroup ?_ _ _ ?_
      · exact Asked.push u _
      · exact fun _ => rfl

theorem Asked.commitBallast (s : State) (tk : Nat) : Asked s (commitBallast s tk) := by
  unfold Machine.commitBallast
  split
  · exact Asked.sendBallast ..
  · exact Asked.refl s

theorem Asked.submitLoad (s : State) (tk : Nat) (r : Req) : Asked s (submitLoad s tk r) := by
  unfold Machine.submitLoad
  split
  · exact Asked.twinTake s tk
  · exact Asked.push s r

theorem Asked.submitAct (s : State) (tk op addr : Nat) (data : List Byte) (r : Req) : Asked s (submitAct s tk op addr data r) := by
  unfold Machine.submitAct
  simp only
  split
  · exact Asked.noteSend ..
  · exact (Asked.noteSend ..).trans (Asked.push _ _)

theorem Asked.probeStore (s : State) (r : Req) : Asked s (probeStore s r) := by
  unfold Machine.probeStore
  simp only
  split
  · exact Asked.push ..
  · exact Asked.refl s

/-- A store of a lane stands in the ballast, or waits for room in it. -/
theorem Asked.joinBallast (s : State) (tk : Nat) (r : Req) (data : List Byte) (held : Bool) : Asked s (joinBallast s tk r data held) := by
  unfold Machine.joinBallast
  simp only
  split
  · exact (Asked.probeStore ..).trans (Asked.putBallast ..)
  · exact ((Asked.probeStore ..).trans (Asked.commitBallast ..)).trans (Asked.push ..)

theorem Asked.submitStore (s : State) (tk : Nat) (r : Req) (data : List Byte) : Asked s (submitStore s tk r data) := by
  unfold Machine.submitStore
  simp only
  have h0 := Asked.noteStore s tk 0 r.va data.length data
  split
  · exact h0
  · split
    · exact h0.trans (Asked.push _ _)
    · split
      · exact h0.trans (Asked.push _ _)
      · split
        · exact h0.trans (Asked.joinBallast ..)
        · exact h0.trans (Asked.push _ _)

theorem Asked.loadLane (b : Opnd) (align : Nat) (r : Req) (ps : List (Nat × Size × Dst)) (hits : List (Nat × List Nat)) (s : State) (tk : Nat) :
    Asked s (loadLane b align r ps hits s tk) := by
  unfold Machine.loadLane
  simp only
  split
  · exact Asked.issueTrap ..
  · exact Asked.fold _ _ (fun _ _ => Asked.submitLoad ..) _

theorem Asked.storeLane (b : Opnd) (align : Nat) (r : Req) (ps : Thread → List (Nat × Size × List Byte)) (s : State) (tk : Nat) :
    Asked s (storeLane b align r ps s tk) := by
  unfold Machine.storeLane
  simp only
  split
  · exact Asked.issueTrap ..
  · refine Asked.trans ?_ (Asked.fold _ _ (fun _ _ => Asked.submitStore ..) _)
    split
    · exact Asked.refl s
    · exact Asked.takeSignal s tk

theorem Asked.l1Touch (s : State) (ck : Nat) (gks : List Nat) (line : Nat) : Asked s (l1Touch s ck gks line) := by
  unfold Machine.l1Touch
  split
  · exact Asked.countEvent ..
  · exact Asked.countEvent ..
  · refine Asked.thenCore ?_ _ _ ?_
    · exact Asked.countEvent ..
    · exact fun _ => rfl

theorem Asked.l1Beats (s : State) (ck : Nat) (gks : List Nat) (keys : List (List Nat)) (n : Nat) : Asked s (l1Beats s ck gks keys n).2 := by
  induction n generalizing s keys with
  | zero => exact Asked.refl s
  | succ n ih => exact (Asked.fold _ _ (fun _ _ => Asked.l1Touch ..) _).trans (ih _ _)

theorem Asked.eachOn (f : State → Nat → State) (h : ∀ s tk, Asked s (f s tk)) (k : Nat) (s : State) : Asked s (eachOn f k s) :=
  Asked.fold _ _ h s

theorem Asked.loadWord (b : Opnd) (align : Nat) (r : Req) (ps : List (Nat × Size × Dst)) (k : Nat) (s : State) :
    Asked s (loadWord b align r ps k s) := by
  unfold Machine.loadWord
  simp only
  exact (Asked.l1Beats ..).trans (Asked.eachOn _ (fun _ _ => Asked.loadLane ..) k _)

theorem Asked.cacheLane (a : Opnd) (r : Req) (s : State) (tk : Nat) : Asked s (cacheLane a r s tk) := by
  unfold Machine.cacheLane
  simp only
  split
  · exact Asked.issueTrap ..
  · exact Asked.submitLoad ..

theorem Asked.submitFlush (keep : Bool) (a : Opnd) (s : State) (tk : Nat) : Asked s (submitFlush keep a s tk) := by
  unfold Machine.submitFlush
  simp only
  split
  · exact Asked.issueTrap ..
  · split
    · exact Asked.refl s
    · exact Asked.push ..

theorem Asked.aggregate (r : Req) (op : Nat) (b : Opnd) (commit : Bool) (lane : Thread → ReqLane) (k : Nat) (s : State) :
    Asked s (aggregate r op b commit lane k s) := by
  unfold Machine.aggregate
  simp only
  refine Asked.trans (Asked.trans (Asked.trans (Asked.fold _ _ ?_ s) (Asked.fold _ _ ?_ _)) (Asked.fold _ _ ?_ _))
    (Asked.fold _ _ (fun _ _ => Asked.push ..) _)
  · intro u tk
    split
    · exact Asked.issueTrap ..
    · exact Asked.refl u
  · intro u tk
    split
    · exact (Asked.noteSend ..).trans (Asked.twinTake ..)
    · exact Asked.noteSend ..
  · intro u tk
    exact Asked.ofThread' u tk _ (fun _ => rfl) (fun _ => rfl) fun _ => rfl

theorem Asked.fenceLane (kind : Nat) (c : Scope) (s : State) (tk : Nat) : Asked s (fenceLane kind c s tk) := by
  unfold Machine.fenceLane
  split
  · exact Asked.refl s
  · exact Asked.push ..

theorem Asked.copyLane (kind : CopyKind) (dt sl : Nat) (c y : Opnd) (byCtr : Bool) (s : State) (tk : Nat) :
    Asked s (copyLane kind dt sl c y byCtr s tk) := by
  unfold Machine.copyLane
  simp only
  split
  · exact Asked.trap ..
  · split
    · exact Asked.issueTrap ..
    · split
      · exact Asked.noteSend ..
      · exact (Asked.noteSend ..).trans (Asked.push ..)

theorem Asked.reelLane (op : Nat) (d : Dst) (a b : Opnd) (s : State) (tk : Nat) : Asked s (reelLane op d a b s tk) := by
  unfold Machine.reelLane
  simp only
  split
  · exact Asked.trap ..
  · exact Asked.submitLoad ..

theorem Asked.trapAll (s : State) (k : Nat) (ti : TrapInfo) : Asked s (trapAll s k ti) :=
  Asked.fold _ _ (fun _ _ => Asked.trap ..) s

theorem Asked.matrixWord (sb : Bool) (p : Opnd) (e : MEntry) (k : Nat) (s : State) : Asked s (matrixWord sb p e k s) := by
  unfold Machine.matrixWord
  simp only
  split
  · exact Asked.refl s
  · split
    · exact Asked.trapAll ..
    · have h : ∀ code data, Asked s (State.forLanes s (s.lanes k) fun s tk => Machine.noteSend s tk code 0 data) :=
        fun _ _ => Asked.fold _ _ (fun _ _ => Asked.noteSend ..) s
      split
      · split
        · exact (h _ _).trans (Asked.fold _ _ (fun _ _ => Asked.twinTake ..) _)
        · exact h _ _
      · exact (h _ _).trans (Asked.push ..)

theorem Asked.markWave (op : Nat) (ws : Thread → List Word) (ls : List Nat) (s : State) (wk : Nat) : Asked s (markWave op ws ls s wk) := by
  unfold Machine.markWave
  simp only
  split
  · exact Asked.refl s
  · split
    · exact Asked.refl s
    · exact Asked.push ..

theorem Asked.markWord (op : Nat) (ws : Thread → List Word) (k : Nat) (s : State) : Asked s (markWord op ws k s) := by
  unfold Machine.markWord
  simp only
  exact (Asked.fold _ _ (fun _ _ => Asked.noteSend ..) s).trans (Asked.fold _ _ (fun _ _ => Asked.markWave ..) _)

/-! ### A word that only asks -/

theorem past_noAsks_calm (i : Instr) (t : Thread) : (t.past i).calm = t.calm := by
  have h := congrArg Thread.noAsks (past_still i t)
  exact h

theorem lastLane_calm (b : Bundle) (i : Instr) (t : Thread) : (lastLane b i t).calm = t.calm := by
  obtain h | ⟨-, h⟩ := lastLane_eq b i t
  · rw [h]; exact past_noAsks_calm i t
  · rw [h]; exact past_noAsks_calm i t

theorem calm_of_noAsks {t u : Thread} (h : t.noAsks = u.noAsks) : t.calm = u.calm := by
  unfold Thread.calm; rw [h]
theorem regs_of_noAsks {t u : Thread} (h : t.noAsks = u.noAsks) : t.regs = u.regs := by
  have := congrArg Thread.regs h; exact this

theorem lastLane_cands (b : Bundle) (i : Instr) (t : Thread) : (lastLane b i t).cands = t.cands := by
  have e : (t.past i).cands = t.cands := by have := congrArg Thread.cands (past_still i t); exact this
  obtain h | ⟨-, h⟩ := lastLane_eq b i t
  · rw [h]; exact e
  · rw [h]; exact e

/-- Moving past a word depends on nothing that asking moves. -/
theorem Passed.of_noAsks {last : Bool} {t u v : Thread} (h : u.noAsks = t.noAsks) (hs : u.stat = t.stat) (p : Passed last u v) :
    Passed last t v := by
  have e := fun {β : Type} (g : Thread → β) => congrArg g h
  have e1 : u.off = t.off := e Thread.off
  have e3 : u.gLeft = t.gLeft := e Thread.gLeft
  have e4 : u.gPat = t.gPat := e Thread.gPat
  have e5 : u.on = t.on := e Thread.on
  have e6 : u.hPrio = t.hPrio := e Thread.hPrio
  have e7 : u.boost = t.boost := e Thread.boost
  obtain ⟨a, b, c, d, f⟩ := p
  exact ⟨e1 ▸ a, hs ▸ b, c, by rw [e3, e4] at d; exact d, by rw [e5, e6, e7] at f; exact f⟩

/-- What a word comes to whose body only asks. -/
theorem finishWord_asked {i : Instr} {k : Nat} {s mid : State} (hr : Ready i k s) (ha : Asked s mid)
    (hc : ∀ w, (info i).cls ≠ .alu w) (hh : (info i).cls ≠ .hint) (hp : ∀ c n p, i ≠ .pblk c n p) :
    OnlyAsked k s (finishWord k i mid) := by
  have hf := ha.fixed
  have hb : mid.bundles = s.bundles := by have := congrArg State.bundles hf; exact this
  have hbk : ∀ j, mid.bundle j = s.bundle j := fun j => by unfold State.bundle; rw [hb]
  have hfit : mid.fitsBlock k := by unfold State.fitsBlock; rw [hbk]; exact hr.fits
  have hd : (mid.bundle k).lanes.Nodup := by rw [hbk]; exact hr.distinct
  have ht := thread_finishWord k i mid hd hfit
  have hrest := finishWord_rest k i mid hfit
  have er := fun {β : Type} (g : State → β) => congrArg g hrest
  have ereqs : (finishWord k i mid).reqs = mid.reqs := er State.reqs
  have edies : (finishWord k i mid).dies = mid.dies := er State.dies
  refine ⟨?_, ?_, ?_, ?_, ?_, ?_, ?_, ?_, ?_, ?_⟩
  · have h1 : (finishWord k i mid).aside = mid.aside := by
      have := er State.aside; exact this
    have h2 : mid.aside = s.aside := by
      have := congrArg State.aside hf; exact this
    exact h1.trans h2
  · intro d
    have : (finishWord k i mid).die d = mid.die d := by unfold State.die; rw [edies]
    rw [this]; exact ha.dies d
  · intro c; exact (calm_of_bare (finishWord_core k i mid hfit c)).trans (ha.cores c)
  · intro g; exact (Group.calm_of_bare (finishWord_group k i mid hfit g)).trans (ha.groups g)
  · intro tk
    rw [ht]
    split
    · rw [lastLane_calm]; exact calm_of_noAsks (ha.threads tk)
    · exact calm_of_noAsks (ha.threads tk)
  · intro tk r
    unfold Thread.reg
    have hx : ((finishWord k i mid).thread tk).regs = (s.thread tk).regs := by
      rw [ht]
      split
      · rw [lastLane_regs]; exact regs_of_noAsks (ha.threads tk)
      · exact regs_of_noAsks (ha.threads tk)
    rw [hx]
  · intro j hj; rw [finishWord_bundle k i mid hfit j hj, hbk]
  · exact ha.links.trans (.same (er State.links)) (Nat.le_refl _)
  · obtain ⟨new, e, h⟩ := ha.reqs
    exact ⟨new, by rw [ereqs, e], h⟩
  · intro tk hl hcand
    rw [ht] at hcand ⊢
    have hcm : (mid.thread tk).cands = (s.thread tk).cands := by
      split at hcand
      · rw [lastLane_cands] at hcand; exact hcand
      · exact hcand
    have hst := ha.stays tk hcm
    have hin : tk ∈ mid.lanes k := by
      unfold State.lanes at hl ⊢
      rw [hbk]
      have := List.mem_filter.mp hl
      exact List.mem_filter.mpr ⟨this.1, by rw [hst]; exact this.2⟩
    rw [if_pos hin, hbk]
    refine ⟨Passed.of_noAsks (ha.threads tk) hst (lastLane_passed (s.bundle k) i _ hh hp), ?_⟩
    have hw : (mid.thread tk).win = (s.thread tk).win := by
      have := congrArg Thread.win (ha.threads tk); exact this
    rw [lastLane_win, ← hw]
    split
    · rename_i w hcw; exact absurd hcw (hc w)
    · rename_i hcw; exact absurd hcw hh
    · rfl

/-- A word whose body only asks answers a next state, and has only asked. -/
theorem runWord_asked {i : Instr} {k : Nat} {s : State} (hr : Ready i k s) (body : Nat → State → State) (ha : Asked s (body k s))
    (hc : ∀ w, (info i).cls ≠ .alu w) (hh : (info i).cls ≠ .hint) (hp : ∀ c n p, i ≠ .pblk c n p) :
    ∃ t, runWord i body s = .next t ∧ OnlyAsked k s t ∧ t.reqs = (body k s).reqs := by
  refine ⟨_, runWord_ready hr body, finishWord_asked hr ha hc hh hp, ?_⟩
  have hb : (body k s).bundle k = s.bundle k := by
    have : (body k s).bundles = s.bundles := by have := congrArg State.bundles ha.fixed; exact this
    unfold State.bundle; rw [this]
  have hfit : (body k s).fitsBlock k := by unfold State.fitsBlock; rw [hb]; exact hr.fits
  have := congrArg State.reqs (finishWord_rest k i (body k s) hfit)
  exact this

/-! ### Effects of one lane among many -/

/-- What each lane's turn adds to the requests is there in the end. -/
theorem forLanes_adds (f : State → Nat → State) (hA : ∀ s tk, Asked s (f s tk)) (Φ : Nat → Req → Prop) (s0 : State) (ls : List Nat)
    (s : State) (h0 : Asked s0 s) (hE : ∀ u, Asked s0 u → ∀ tk ∈ ls, ∃ r ∈ (f u tk).reqs, u.nextId ≤ r.id ∧ Φ tk r) :
    ∀ tk ∈ ls, ∃ r ∈ (s.forLanes ls f).reqs, s.nextId ≤ r.id ∧ Φ tk r := by
  induction ls generalizing s with
  | nil => intro tk h; cases h
  | cons x l ih =>
    intro tk h
    have hx := hA s x
    have hl : Asked (f s x) (State.forLanes (f s x) l f) := Asked.fold l f hA (f s x)
    show ∃ r ∈ (State.forLanes (f s x) l f).reqs, _
    rcases List.mem_cons.mp h with rfl | h
    · obtain ⟨r, hr, hi, hp⟩ := hE s h0 tk (List.mem_cons_self ..)
      obtain ⟨new, e, -⟩ := hl.reqs
      exact ⟨r, by rw [e]; exact List.mem_append_left _ hr, hi, hp⟩
    · obtain ⟨r, hr, hi, hp⟩ := ih (f s x) (h0.trans hx) (fun u hu tk ht => hE u hu tk (List.mem_cons_of_mem _ ht)) tk h
      exact ⟨r, hr, Nat.le_trans hx.ids hi, hp⟩

/-! ### What asking leaves readable -/

theorem Asked.waves {s t : State} (h : Asked s t) : t.waves = s.waves := by have := congrArg State.waves h.fixed; exact this
theorem Asked.wave {s t : State} (h : Asked s t) (w : Nat) : t.wave w = s.wave w := by unfold State.wave; rw [h.waves]
theorem Asked.flight {s t : State} (h : Asked s t) (f : Nat) : t.flight f = s.flight f := by
  have : t.flights = s.flights := by have := congrArg State.flights h.fixed; exact this
  unfold State.flight; rw [this]
theorem Asked.train {s t : State} (h : Asked s t) (f : Nat) : t.train f = s.train f := by
  have : t.trains = s.trains := by have := congrArg State.trains h.fixed; exact this
  unfold State.train; rw [this]
theorem Asked.groupKey {s t : State} (h : Asked s t) (tk : Nat) : t.groupKey tk = s.groupKey tk := by
  unfold State.groupKey; rw [h.wave]
theorem Asked.groupTrain {s t : State} (h : Asked s t) (g : Nat) : (t.group g).train = (s.group g).train := by
  have := congrArg Group.train (h.groups g); exact this
theorem Asked.flightKey {s t : State} (h : Asked s t) (g : Nat) : t.flightKey g = s.flightKey g := by
  unfold State.flightKey; rw [h.groupTrain, h.train]
theorem Asked.flightOf {s t : State} (h : Asked s t) (tk : Nat) : t.flightOf tk = s.flightOf tk := by
  unfold State.flightOf; rw [h.groupKey, h.flightKey, h.flight]
theorem Asked.vasOf {s t : State} (h : Asked s t) (tk : Nat) : t.vasOf tk = s.vasOf tk := by
  unfold State.vasOf; rw [h.flightOf]
theorem Asked.hdrOf {s t : State} (h : Asked s t) (tk : Nat) : t.hdrOf tk = s.hdrOf tk := by
  unfold State.hdrOf; rw [h.flightOf]
/-- A field of a thread that asking does not move. -/
theorem Asked.field {s t : State} (h : Asked s t) {β : Type} (g : Thread → β) (hg : ∀ t, g t.noAsks = g t) (tk : Nat) :
    g (t.thread tk) = g (s.thread tk) := by rw [← hg, h.threads, hg]
/-- What a request of one lane's word takes from the state. -/
theorem Asked.reqOf {s t : State} (h : Asked s t) (tk : Nat) : Req.of t tk = Req.of s tk := by
  unfold Req.of
  simp only
  rw [h.vasOf, h.field Thread.off (fun _ => rfl), h.field Thread.ord (fun _ => rfl), h.field Thread.tx (fun _ => rfl)]

end Sys2Proof.Machine
end

