-- ==== Sys2Proof/Laws/PerInstr.lean ====
section
/-! SUPPORT. The family WordFits: the word of a well-formed instruction has 32 bits (R86). -/

namespace Sys2Proof.Laws.WordFits

set_option Elab.async false

/-- The word of a well-formed instruction has 32 bits. -/
def Statement (i : Instr) : Prop := i.wf = true → i.word < 2 ^ 32

theorem opnd_fits {a : Opnd} (h : a.wf = true) : a.code < 128 := by
  cases a <;> simp only [Opnd.wf, Bool.and_eq_true, decide_eq_true_eq] at h <;> simp only [Opnd.code] <;> omega
theorem dst_fits {d : Dst} (h : d.wf = true) : d.code < 128 := by
  cases d <;> simp [Dst.wf, Dst.code] at h ⊢ <;> omega
theorem link_fits {d : Dst} (h : d.wfLink = true) : d.code < 128 := by
  cases d <;> simp [Dst.wfLink, Dst.code] at h ⊢ <;> omega
theorem bool_fits (b : Bool) : b.toNat ≤ 1 := by cases b <;> decide
theorem size_fits (x : Size) : x.code < 7 := by cases x <;> decide
theorem order_fits (x : MemOrder) : x.code < 3 := by cases x <;> decide
theorem pol_fits (x : CPol) : x.code < 4 := by cases x <;> decide
theorem atom_fits (x : AtomOp) : x.code < 12 := by cases x <;> decide
theorem rnd_fits (x : Rnd) : x.code < 4 := by cases x <;> decide
theorem sreg_fits (x : SReg) : x.code < 16 := by cases x <;> decide
theorem swreg_fits (x : SWReg) : x.code < 2 := by cases x <;> decide
theorem drain_fits (x : DrainMode) : x.code < 5 := by cases x <;> decide
theorem scope_fits (x : Scope) : x.code < 5 := by cases x <;> decide
theorem hpol_fits (x : Option CPol) : hpolCode x < 4 := by
  cases x with
  | none => decide
  | some p => exact pol_fits p

theorem hintImm (p : BitVec 21) : Statement (.hintImm p) := by
  intro _
  have := p.isLt
  show 0x0 + p.toNat < 2 ^ 32
  omega
theorem hintOff (p : BitVec 22) : Statement (.hintOff p) := by
  intro _
  have := p.isLt
  show 0x400000 + p.toNat < 2 ^ 32
  omega
theorem hintMod (rov : Bool) (pol : Option CPol) (sat : Bool) (ftz : Bool) (rnd : Rnd) : Statement (.hintMod rov pol sat ftz rnd) := by
  intro h
  replace h : (hpolWf pol : Bool) = true := h
  have := bool_fits rov
  have := hpol_fits pol
  have := bool_fits sat
  have := bool_fits ftz
  have := rnd_fits rnd
  show 0x800000 + rov.toNat * 128 + (hpolCode pol) * 16 + sat.toNat * 8 + ftz.toNat * 4 + rnd.code < 2 ^ 32
  omega
theorem hintPrio (p : Nat) : Statement (.hintPrio p) := by
  intro h
  replace h : (p < 4 : Bool) = true := h
  simp only [decide_eq_true_eq] at h
  show 0xc00000 + p < 2 ^ 32
  omega
theorem pblk (c : Opnd) (n : Nat) (p : BitVec 8) : Statement (.pblk c n p) := by
  intro h
  replace h : (c.wf && (1 ≤ n && n ≤ 8) : Bool) = true := h
  simp only [Bool.and_eq_true, decide_eq_true_eq] at h
  have := opnd_fits (a := c) (by simp_all)
  have := p.isLt
  show 0x2000000 + c.code * 262144 + (n - 1) * 32768 + p.toNat * 128 < 2 ^ 32
  omega
theorem bra (s : Bool) (disp : BitVec 18) : Statement (.bra s disp) := by
  intro _
  have := bool_fits s
  have := disp.isLt
  show 0x4000000 + s.toNat * 2147483648 + disp.toNat < 2 ^ 32
  omega
theorem brz (s : Bool) (a : Opnd) (disp : BitVec 18) : Statement (.brz s a disp) := by
  intro h
  replace h : (a.wf : Bool) = true := h
  have := bool_fits s
  have := opnd_fits (a := a) (by simp_all)
  have := disp.isLt
  show 0x6000000 + s.toNat * 2147483648 + a.code * 262144 + disp.toNat < 2 ^ 32
  omega
theorem brnz (s : Bool) (a : Opnd) (disp : BitVec 18) : Statement (.brnz s a disp) := by
  intro h
  replace h : (a.wf : Bool) = true := h
  have := bool_fits s
  have := opnd_fits (a := a) (by simp_all)
  have := disp.isLt
  show 0x8000000 + s.toNat * 2147483648 + a.code * 262144 + disp.toNat < 2 ^ 32
  omega
theorem call (s : Bool) (l : Dst) (disp : BitVec 18) : Statement (.call s l disp) := by
  intro h
  replace h : (l.wfLink : Bool) = true := h
  have := bool_fits s
  have := link_fits (d := l) (by simp_all)
  have := disp.isLt
  show 0xa000000 + s.toNat * 2147483648 + l.code * 262144 + disp.toNat < 2 ^ 32
  omega
theorem brx (s : Bool) (a : Opnd) : Statement (.brx s a) := by
  intro h
  replace h : (a.wf : Bool) = true := h
  have := bool_fits s
  have := opnd_fits (a := a) (by simp_all)
  show 0xc000000 + s.toNat * 2147483648 + a.code * 2048 < 2 ^ 32
  omega
theorem ret (s : Bool) (a : Opnd) : Statement (.ret s a) := by
  intro h
  replace h : (a.wf : Bool) = true := h
  have := bool_fits s
  have := opnd_fits (a := a) (by simp_all)
  show 0xc000001 + s.toNat * 2147483648 + a.code * 2048 < 2 ^ 32
  omega
theorem callx (s : Bool) (d : Dst) (a : Opnd) : Statement (.callx s d a) := by
  intro h
  replace h : (d.wf && a.wf : Bool) = true := h
  simp only [Bool.and_eq_true] at h
  have := bool_fits s
  have := dst_fits (d := d) (by simp_all)
  have := opnd_fits (a := a) (by simp_all)
  show 0xc000002 + s.toNat * 2147483648 + d.code * 262144 + a.code * 2048 < 2 ^ 32
  omega
theorem nop (s : Bool) : Statement (.nop s) := by
  intro _
  have := bool_fits s
  show 0xe000000 + s.toNat * 2147483648 < 2 ^ 32
  omega
theorem exit (s : Bool) : Statement (.exit s) := by
  intro _
  have := bool_fits s
  show 0xe000001 + s.toNat * 2147483648 < 2 ^ 32
  omega
theorem trap (s : Bool) (a : Opnd) : Statement (.trap s a) := by
  intro h
  replace h : (a.wf : Bool) = true := h
  have := bool_fits s
  have := opnd_fits (a := a) (by simp_all)
  show 0xe000002 + s.toNat * 2147483648 + a.code * 2048 < 2 ^ 32
  omega
theorem syscall (d : Dst) (a : Opnd) (b : Opnd) : Statement (.syscall d a b) := by
  intro h
  replace h : (d.wf && a.wf && b.wf : Bool) = true := h
  simp only [Bool.and_eq_true] at h
  have := dst_fits (d := d) (by simp_all)
  have := opnd_fits (a := a) (by simp_all)
  have := opnd_fits (a := b) (by simp_all)
  show 0x8e000003 + d.code * 262144 + a.code * 2048 + b.code * 16 < 2 ^ 32
  omega
theorem bkpt (s : Bool) : Statement (.bkpt s) := by
  intro _
  have := bool_fits s
  show 0xe000004 + s.toNat * 2147483648 < 2 ^ 32
  omega
theorem iflush : Statement (.iflush) := by
  intro _
  show 0x8e000005 < 2 ^ 32
  decide
theorem join (s : Bool) (n : Nat) : Statement (.join s n) := by
  intro h
  replace h : (n < 8 : Bool) = true := h
  simp only [decide_eq_true_eq] at h
  have := bool_fits s
  show 0x10000000 + s.toNat * 2147483648 + n * 2048 < 2 ^ 32
  omega
theorem jset (s : Bool) (n : Nat) (b : Opnd) : Statement (.jset s n b) := by
  intro h
  replace h : (n < 8 && b.wf : Bool) = true := h
  simp only [Bool.and_eq_true, decide_eq_true_eq] at h
  have := bool_fits s
  have := opnd_fits (a := b) (by simp_all)
  show 0x10000001 + s.toNat * 2147483648 + n * 2048 + b.code * 16 < 2 ^ 32
  omega
theorem jget (s : Bool) (d : Dst) (n : Nat) : Statement (.jget s d n) := by
  intro h
  replace h : (d.wf && n < 8 : Bool) = true := h
  simp only [Bool.and_eq_true, decide_eq_true_eq] at h
  have := bool_fits s
  have := dst_fits (d := d) (by simp_all)
  show 0x10000002 + s.toNat * 2147483648 + d.code * 262144 + n * 2048 < 2 ^ 32
  omega
theorem jleave (s : Bool) (n : Nat) : Statement (.jleave s n) := by
  intro h
  replace h : (n < 8 : Bool) = true := h
  simp only [decide_eq_true_eq] at h
  have := bool_fits s
  show 0x10000003 + s.toNat * 2147483648 + n * 2048 < 2 ^ 32
  omega
theorem sread (s : Bool) (d : Dst) (c : SReg) : Statement (.sread s d c) := by
  intro h
  replace h : (d.wf : Bool) = true := h
  have := bool_fits s
  have := dst_fits (d := d) (by simp_all)
  have := sreg_fits c
  show 0x12000000 + s.toNat * 2147483648 + d.code * 262144 + c.code * 2048 < 2 ^ 32
  omega
theorem swrite (s : Bool) (c : SWReg) (b : Opnd) : Statement (.swrite s c b) := by
  intro h
  replace h : (b.wf : Bool) = true := h
  have := bool_fits s
  have := swreg_fits c
  have := opnd_fits (a := b) (by simp_all)
  show 0x12020001 + s.toNat * 2147483648 + c.code * 2048 + b.code * 16 < 2 ^ 32
  omega
theorem iadd (s : Bool) (d : Dst) (a : Opnd) (b : Opnd) : Statement (.iadd s d a b) := by
  intro h
  replace h : (d.wf && a.wf && b.wf : Bool) = true := h
  simp only [Bool.and_eq_true] at h
  have := bool_fits s
  have := dst_fits (d := d) (by simp_all)
  have := opnd_fits (a := a) (by simp_all)
  have := opnd_fits (a := b) (by simp_all)
  show 0x14000000 + s.toNat * 2147483648 + d.code * 262144 + a.code * 2048 + b.code * 16 < 2 ^ 32
  omega
theorem isub (s : Bool) (d : Dst) (a : Opnd) (b : Opnd) : Statement (.isub s d a b) := by
  intro h
  replace h : (d.wf && a.wf && b.wf : Bool) = true := h
  simp only [Bool.and_eq_true] at h
  have := bool_fits s
  have := dst_fits (d := d) (by simp_all)
  have := opnd_fits (a := a) (by simp_all)
  have := opnd_fits (a := b) (by simp_all)
  show 0x14000001 + s.toNat * 2147483648 + d.code * 262144 + a.code * 2048 + b.code * 16 < 2 ^ 32
  omega
theorem iadds (s : Bool) (d : Dst) (a : Opnd) (b : Opnd) : Statement (.iadds s d a b) := by
  intro h
  replace h : (d.wf && a.wf && b.wf : Bool) = true := h
  simp only [Bool.and_eq_true] at h
  have := bool_fits s
  have := dst_fits (d := d) (by simp_all)
  have := opnd_fits (a := a) (by simp_all)
  have := opnd_fits (a := b) (by simp_all)
  show 0x14000002 + s.toNat * 2147483648 + d.code * 262144 + a.code * 2048 + b.code * 16 < 2 ^ 32
  omega
theorem isubs (s : Bool) (d : Dst) (a : Opnd) (b : Opnd) : Statement (.isubs s d a b) := by
  intro h
  replace h : (d.wf && a.wf && b.wf : Bool) = true := h
  simp only [Bool.and_eq_true] at h
  have := bool_fits s
  have := dst_fits (d := d) (by simp_all)
  have := opnd_fits (a := a) (by simp_all)
  have := opnd_fits (a := b) (by simp_all)
  show 0x14000003 + s.toNat * 2147483648 + d.code * 262144 + a.code * 2048 + b.code * 16 < 2 ^ 32
  omega
theorem uadds (s : Bool) (d : Dst) (a : Opnd) (b : Opnd) : Statement (.uadds s d a b) := by
  intro h
  replace h : (d.wf && a.wf && b.wf : Bool) = true := h
  simp only [Bool.and_eq_true] at h
  have := bool_fits s
  have := dst_fits (d := d) (by simp_all)
  have := opnd_fits (a := a) (by simp_all)
  have := opnd_fits (a := b) (by simp_all)
  show 0x14000004 + s.toNat * 2147483648 + d.code * 262144 + a.code * 2048 + b.code * 16 < 2 ^ 32
  omega
theorem usubs (s : Bool) (d : Dst) (a : Opnd) (b : Opnd) : Statement (.usubs s d a b) := by
  intro h
  replace h : (d.wf && a.wf && b.wf : Bool) = true := h
  simp only [Bool.and_eq_true] at h
  have := bool_fits s
  have := dst_fits (d := d) (by simp_all)
  have := opnd_fits (a := a) (by simp_all)
  have := opnd_fits (a := b) (by simp_all)
  show 0x14000005 + s.toNat * 2147483648 + d.code * 262144 + a.code * 2048 + b.code * 16 < 2 ^ 32
  omega
theorem imin (s : Bool) (d : Dst) (a : Opnd) (b : Opnd) : Statement (.imin s d a b) := by
  intro h
  replace h : (d.wf && a.wf && b.wf : Bool) = true := h
  simp only [Bool.and_eq_true] at h
  have := bool_fits s
  have := dst_fits (d := d) (by simp_all)
  have := opnd_fits (a := a) (by simp_all)
  have := opnd_fits (a := b) (by simp_all)
  show 0x14000006 + s.toNat * 2147483648 + d.code * 262144 + a.code * 2048 + b.code * 16 < 2 ^ 32
  omega
theorem imax (s : Bool) (d : Dst) (a : Opnd) (b : Opnd) : Statement (.imax s d a b) := by
  intro h
  replace h : (d.wf && a.wf && b.wf : Bool) = true := h
  simp only [Bool.and_eq_true] at h
  have := bool_fits s
  have := dst_fits (d := d) (by simp_all)
  have := opnd_fits (a := a) (by simp_all)
  have := opnd_fits (a := b) (by simp_all)
  show 0x14000007 + s.toNat * 2147483648 + d.code * 262144 + a.code * 2048 + b.code * 16 < 2 ^ 32
  omega
theorem umin (s : Bool) (d : Dst) (a : Opnd) (b : Opnd) : Statement (.umin s d a b) := by
  intro h
  replace h : (d.wf && a.wf && b.wf : Bool) = true := h
  simp only [Bool.and_eq_true] at h
  have := bool_fits s
  have := dst_fits (d := d) (by simp_all)
  have := opnd_fits (a := a) (by simp_all)
  have := opnd_fits (a := b) (by simp_all)
  show 0x14000008 + s.toNat * 2147483648 + d.code * 262144 + a.code * 2048 + b.code * 16 < 2 ^ 32
  omega
theorem umax (s : Bool) (d : Dst) (a : Opnd) (b : Opnd) : Statement (.umax s d a b) := by
  intro h
  replace h : (d.wf && a.wf && b.wf : Bool) = true := h
  simp only [Bool.and_eq_true] at h
  have := bool_fits s
  have := dst_fits (d := d) (by simp_all)
  have := opnd_fits (a := a) (by simp_all)
  have := opnd_fits (a := b) (by simp_all)
  show 0x14000009 + s.toNat * 2147483648 + d.code * 262144 + a.code * 2048 + b.code * 16 < 2 ^ 32
  omega
theorem iabs (s : Bool) (d : Dst) (a : Opnd) : Statement (.iabs s d a) := by
  intro h
  replace h : (d.wf && a.wf : Bool) = true := h
  simp only [Bool.and_eq_true] at h
  have := bool_fits s
  have := dst_fits (d := d) (by simp_all)
  have := opnd_fits (a := a) (by simp_all)
  show 0x1400000a + s.toNat * 2147483648 + d.code * 262144 + a.code * 2048 < 2 ^ 32
  omega
theorem ineg (s : Bool) (d : Dst) (a : Opnd) : Statement (.ineg s d a) := by
  intro h
  replace h : (d.wf && a.wf : Bool) = true := h
  simp only [Bool.and_eq_true] at h
  have := bool_fits s
  have := dst_fits (d := d) (by simp_all)
  have := opnd_fits (a := a) (by simp_all)
  show 0x1400000b + s.toNat * 2147483648 + d.code * 262144 + a.code * 2048 < 2 ^ 32
  omega
theorem idiff (s : Bool) (d : Dst) (a : Opnd) (b : Opnd) : Statement (.idiff s d a b) := by
  intro h
  replace h : (d.wf && a.wf && b.wf : Bool) = true := h
  simp only [Bool.and_eq_true] at h
  have := bool_fits s
  have := dst_fits (d := d) (by simp_all)
  have := opnd_fits (a := a) (by simp_all)
  have := opnd_fits (a := b) (by simp_all)
  show 0x1400000c + s.toNat * 2147483648 + d.code * 262144 + a.code * 2048 + b.code * 16 < 2 ^ 32
  omega
theorem and (s : Bool) (d : Dst) (a : Opnd) (b : Opnd) : Statement (.and s d a b) := by
  intro h
  replace h : (d.wf && a.wf && b.wf : Bool) = true := h
  simp only [Bool.and_eq_true] at h
  have := bool_fits s
  have := dst_fits (d := d) (by simp_all)
  have := opnd_fits (a := a) (by simp_all)
  have := opnd_fits (a := b) (by simp_all)
  show 0x16000000 + s.toNat * 2147483648 + d.code * 262144 + a.code * 2048 + b.code * 16 < 2 ^ 32
  omega
theorem or (s : Bool) (d : Dst) (a : Opnd) (b : Opnd) : Statement (.or s d a b) := by
  intro h
  replace h : (d.wf && a.wf && b.wf : Bool) = true := h
  simp only [Bool.and_eq_true] at h
  have := bool_fits s
  have := dst_fits (d := d) (by simp_all)
  have := opnd_fits (a := a) (by simp_all)
  have := opnd_fits (a := b) (by simp_all)
  show 0x16000001 + s.toNat * 2147483648 + d.code * 262144 + a.code * 2048 + b.code * 16 < 2 ^ 32
  omega
theorem xor (s : Bool) (d : Dst) (a : Opnd) (b : Opnd) : Statement (.xor s d a b) := by
  intro h
  replace h : (d.wf && a.wf && b.wf : Bool) = true := h
  simp only [Bool.and_eq_true] at h
  have := bool_fits s
  have := dst_fits (d := d) (by simp_all)
  have := opnd_fits (a := a) (by simp_all)
  have := opnd_fits (a := b) (by simp_all)
  show 0x16000002 + s.toNat * 2147483648 + d.code * 262144 + a.code * 2048 + b.code * 16 < 2 ^ 32
  omega
theorem andn (s : Bool) (d : Dst) (a : Opnd) (b : Opnd) : Statement (.andn s d a b) := by
  intro h
  replace h : (d.wf && a.wf && b.wf : Bool) = true := h
  simp only [Bool.and_eq_true] at h
  have := bool_fits s
  have := dst_fits (d := d) (by simp_all)
  have := opnd_fits (a := a) (by simp_all)
  have := opnd_fits (a := b) (by simp_all)
  show 0x16000003 + s.toNat * 2147483648 + d.code * 262144 + a.code * 2048 + b.code * 16 < 2 ^ 32
  omega
theorem orn (s : Bool) (d : Dst) (a : Opnd) (b : Opnd) : Statement (.orn s d a b) := by
  intro h
  replace h : (d.wf && a.wf && b.wf : Bool) = true := h
  simp only [Bool.and_eq_true] at h
  have := bool_fits s
  have := dst_fits (d := d) (by simp_all)
  have := opnd_fits (a := a) (by simp_all)
  have := opnd_fits (a := b) (by simp_all)
  show 0x16000004 + s.toNat * 2147483648 + d.code * 262144 + a.code * 2048 + b.code * 16 < 2 ^ 32
  omega
theorem xnor (s : Bool) (d : Dst) (a : Opnd) (b : Opnd) : Statement (.xnor s d a b) := by
  intro h
  replace h : (d.wf && a.wf && b.wf : Bool) = true := h
  simp only [Bool.and_eq_true] at h
  have := bool_fits s
  have := dst_fits (d := d) (by simp_all)
  have := opnd_fits (a := a) (by simp_all)
  have := opnd_fits (a := b) (by simp_all)
  show 0x16000005 + s.toNat * 2147483648 + d.code * 262144 + a.code * 2048 + b.code * 16 < 2 ^ 32
  omega
theorem not (s : Bool) (d : Dst) (a : Opnd) : Statement (.not s d a) := by
  intro h
  replace h : (d.wf && a.wf : Bool) = true := h
  simp only [Bool.and_eq_true] at h
  have := bool_fits s
  have := dst_fits (d := d) (by simp_all)
  have := opnd_fits (a := a) (by simp_all)
  show 0x16000006 + s.toNat * 2147483648 + d.code * 262144 + a.code * 2048 < 2 ^ 32
  omega
theorem shl (s : Bool) (d : Dst) (a : Opnd) (b : Opnd) : Statement (.shl s d a b) := by
  intro h
  replace h : (d.wf && a.wf && b.wf : Bool) = true := h
  simp only [Bool.and_eq_true] at h
  have := bool_fits s
  have := dst_fits (d := d) (by simp_all)
  have := opnd_fits (a := a) (by simp_all)
  have := opnd_fits (a := b) (by simp_all)
  show 0x18000000 + s.toNat * 2147483648 + d.code * 262144 + a.code * 2048 + b.code * 16 < 2 ^ 32
  omega
theorem shr (s : Bool) (d : Dst) (a : Opnd) (b : Opnd) : Statement (.shr s d a b) := by
  intro h
  replace h : (d.wf && a.wf && b.wf : Bool) = true := h
  simp only [Bool.and_eq_true] at h
  have := bool_fits s
  have := dst_fits (d := d) (by simp_all)
  have := opnd_fits (a := a) (by simp_all)
  have := opnd_fits (a := b) (by simp_all)
  show 0x18000001 + s.toNat * 2147483648 + d.code * 262144 + a.code * 2048 + b.code * 16 < 2 ^ 32
  omega
theorem sar (s : Bool) (d : Dst) (a : Opnd) (b : Opnd) : Statement (.sar s d a b) := by
  intro h
  replace h : (d.wf && a.wf && b.wf : Bool) = true := h
  simp only [Bool.and_eq_true] at h
  have := bool_fits s
  have := dst_fits (d := d) (by simp_all)
  have := opnd_fits (a := a) (by simp_all)
  have := opnd_fits (a := b) (by simp_all)
  show 0x18000002 + s.toNat * 2147483648 + d.code * 262144 + a.code * 2048 + b.code * 16 < 2 ^ 32
  omega
theorem rol (s : Bool) (d : Dst) (a : Opnd) (b : Opnd) : Statement (.rol s d a b) := by
  intro h
  replace h : (d.wf && a.wf && b.wf : Bool) = true := h
  simp only [Bool.and_eq_true] at h
  have := bool_fits s
  have := dst_fits (d := d) (by simp_all)
  have := opnd_fits (a := a) (by simp_all)
  have := opnd_fits (a := b) (by simp_all)
  show 0x18000003 + s.toNat * 2147483648 + d.code * 262144 + a.code * 2048 + b.code * 16 < 2 ^ 32
  omega
theorem ror (s : Bool) (d : Dst) (a : Opnd) (b : Opnd) : Statement (.ror s d a b) := by
  intro h
  replace h : (d.wf && a.wf && b.wf : Bool) = true := h
  simp only [Bool.and_eq_true] at h
  have := bool_fits s
  have := dst_fits (d := d) (by simp_all)
  have := opnd_fits (a := a) (by simp_all)
  have := opnd_fits (a := b) (by simp_all)
  show 0x18000004 + s.toNat * 2147483648 + d.code * 262144 + a.code * 2048 + b.code * 16 < 2 ^ 32
  omega
theorem popc (s : Bool) (d : Dst) (a : Opnd) : Statement (.popc s d a) := by
  intro h
  replace h : (d.wf && a.wf : Bool) = true := h
  simp only [Bool.and_eq_true] at h
  have := bool_fits s
  have := dst_fits (d := d) (by simp_all)
  have := opnd_fits (a := a) (by simp_all)
  show 0x1a000000 + s.toNat * 2147483648 + d.code * 262144 + a.code * 2048 < 2 ^ 32
  omega
theorem clz (s : Bool) (d : Dst) (a : Opnd) : Statement (.clz s d a) := by
  intro h
  replace h : (d.wf && a.wf : Bool) = true := h
  simp only [Bool.and_eq_true] at h
  have := bool_fits s
  have := dst_fits (d := d) (by simp_all)
  have := opnd_fits (a := a) (by simp_all)
  show 0x1a000001 + s.toNat * 2147483648 + d.code * 262144 + a.code * 2048 < 2 ^ 32
  omega
theorem ctz (s : Bool) (d : Dst) (a : Opnd) : Statement (.ctz s d a) := by
  intro h
  replace h : (d.wf && a.wf : Bool) = true := h
  simp only [Bool.and_eq_true] at h
  have := bool_fits s
  have := dst_fits (d := d) (by simp_all)
  have := opnd_fits (a := a) (by simp_all)
  show 0x1a000002 + s.toNat * 2147483648 + d.code * 262144 + a.code * 2048 < 2 ^ 32
  omega
theorem brev (s : Bool) (d : Dst) (a : Opnd) : Statement (.brev s d a) := by
  intro h
  replace h : (d.wf && a.wf : Bool) = true := h
  simp only [Bool.and_eq_true] at h
  have := bool_fits s
  have := dst_fits (d := d) (by simp_all)
  have := opnd_fits (a := a) (by simp_all)
  show 0x1a000003 + s.toNat * 2147483648 + d.code * 262144 + a.code * 2048 < 2 ^ 32
  omega
theorem bfe (s : Bool) (d : Dst) (a : Opnd) (b : Opnd) : Statement (.bfe s d a b) := by
  intro h
  replace h : (d.wf && a.wf && b.wf : Bool) = true := h
  simp only [Bool.and_eq_true] at h
  have := bool_fits s
  have := dst_fits (d := d) (by simp_all)
  have := opnd_fits (a := a) (by simp_all)
  have := opnd_fits (a := b) (by simp_all)
  show 0x1a000004 + s.toNat * 2147483648 + d.code * 262144 + a.code * 2048 + b.code * 16 < 2 ^ 32
  omega
theorem bfeu (s : Bool) (d : Dst) (a : Opnd) (b : Opnd) : Statement (.bfeu s d a b) := by
  intro h
  replace h : (d.wf && a.wf && b.wf : Bool) = true := h
  simp only [Bool.and_eq_true] at h
  have := bool_fits s
  have := dst_fits (d := d) (by simp_all)
  have := opnd_fits (a := a) (by simp_all)
  have := opnd_fits (a := b) (by simp_all)
  show 0x1a000005 + s.toNat * 2147483648 + d.code * 262144 + a.code * 2048 + b.code * 16 < 2 ^ 32
  omega
theorem bfi (s : Bool) (d : Dst) (a : Opnd) (b : Opnd) : Statement (.bfi s d a b) := by
  intro h
  replace h : (d.wf && a.wf && b.wf : Bool) = true := h
  simp only [Bool.and_eq_true] at h
  have := bool_fits s
  have := dst_fits (d := d) (by simp_all)
  have := opnd_fits (a := a) (by simp_all)
  have := opnd_fits (a := b) (by simp_all)
  show 0x1a000006 + s.toNat * 2147483648 + d.code * 262144 + a.code * 2048 + b.code * 16 < 2 ^ 32
  omega
theorem bperm (s : Bool) (d : Dst) (a : Opnd) (b : Opnd) : Statement (.bperm s d a b) := by
  intro h
  replace h : (d.wf && a.wf && b.wf : Bool) = true := h
  simp only [Bool.and_eq_true] at h
  have := bool_fits s
  have := dst_fits (d := d) (by simp_all)
  have := opnd_fits (a := a) (by simp_all)
  have := opnd_fits (a := b) (by simp_all)
  show 0x1a000007 + s.toNat * 2147483648 + d.code * 262144 + a.code * 2048 + b.code * 16 < 2 ^ 32
  omega
theorem bswap (s : Bool) (d : Dst) (a : Opnd) : Statement (.bswap s d a) := by
  intro h
  replace h : (d.wf && a.wf : Bool) = true := h
  simp only [Bool.and_eq_true] at h
  have := bool_fits s
  have := dst_fits (d := d) (by simp_all)
  have := opnd_fits (a := a) (by simp_all)
  show 0x1a000008 + s.toNat * 2147483648 + d.code * 262144 + a.code * 2048 < 2 ^ 32
  omega
theorem imul (s : Bool) (d : Dst) (a : Opnd) (b : Opnd) : Statement (.imul s d a b) := by
  intro h
  replace h : (d.wf && a.wf && b.wf : Bool) = true := h
  simp only [Bool.and_eq_true] at h
  have := bool_fits s
  have := dst_fits (d := d) (by simp_all)
  have := opnd_fits (a := a) (by simp_all)
  have := opnd_fits (a := b) (by simp_all)
  show 0x1c000000 + s.toNat * 2147483648 + d.code * 262144 + a.code * 2048 + b.code * 16 < 2 ^ 32
  omega
theorem imulhi (s : Bool) (d : Dst) (a : Opnd) (b : Opnd) : Statement (.imulhi s d a b) := by
  intro h
  replace h : (d.wf && a.wf && b.wf : Bool) = true := h
  simp only [Bool.and_eq_true] at h
  have := bool_fits s
  have := dst_fits (d := d) (by simp_all)
  have := opnd_fits (a := a) (by simp_all)
  have := opnd_fits (a := b) (by simp_all)
  show 0x1c000001 + s.toNat * 2147483648 + d.code * 262144 + a.code * 2048 + b.code * 16 < 2 ^ 32
  omega
theorem umulhi (s : Bool) (d : Dst) (a : Opnd) (b : Opnd) : Statement (.umulhi s d a b) := by
  intro h
  replace h : (d.wf && a.wf && b.wf : Bool) = true := h
  simp only [Bool.and_eq_true] at h
  have := bool_fits s
  have := dst_fits (d := d) (by simp_all)
  have := opnd_fits (a := a) (by simp_all)
  have := opnd_fits (a := b) (by simp_all)
  show 0x1c000002 + s.toNat * 2147483648 + d.code * 262144 + a.code * 2048 + b.code * 16 < 2 ^ 32
  omega
theorem imad (s : Bool) (d : Dst) (a : Opnd) (b : Opnd) : Statement (.imad s d a b) := by
  intro h
  replace h : (d.wf && a.wf && b.wf : Bool) = true := h
  simp only [Bool.and_eq_true] at h
  have := bool_fits s
  have := dst_fits (d := d) (by simp_all)
  have := opnd_fits (a := a) (by simp_all)
  have := opnd_fits (a := b) (by simp_all)
  show 0x1c000003 + s.toNat * 2147483648 + d.code * 262144 + a.code * 2048 + b.code * 16 < 2 ^ 32
  omega
theorem umadw (s : Bool) (d : Dst) (a : Opnd) (b : Opnd) : Statement (.umadw s d a b) := by
  intro h
  replace h : (d.wf && a.wf && b.wf : Bool) = true := h
  simp only [Bool.and_eq_true] at h
  have := bool_fits s
  have := dst_fits (d := d) (by simp_all)
  have := opnd_fits (a := a) (by simp_all)
  have := opnd_fits (a := b) (by simp_all)
  show 0x1c000004 + s.toNat * 2147483648 + d.code * 262144 + a.code * 2048 + b.code * 16 < 2 ^ 32
  omega
theorem imadw (s : Bool) (d : Dst) (a : Opnd) (b : Opnd) : Statement (.imadw s d a b) := by
  intro h
  replace h : (d.wf && a.wf && b.wf : Bool) = true := h
  simp only [Bool.and_eq_true] at h
  have := bool_fits s
  have := dst_fits (d := d) (by simp_all)
  have := opnd_fits (a := a) (by simp_all)
  have := opnd_fits (a := b) (by simp_all)
  show 0x1c000005 + s.toNat * 2147483648 + d.code * 262144 + a.code * 2048 + b.code * 16 < 2 ^ 32
  omega
theorem idot4 (s : Bool) (d : Dst) (a : Opnd) (b : Opnd) : Statement (.idot4 s d a b) := by
  intro h
  replace h : (d.wf && a.wf && b.wf : Bool) = true := h
  simp only [Bool.and_eq_true] at h
  have := bool_fits s
  have := dst_fits (d := d) (by simp_all)
  have := opnd_fits (a := a) (by simp_all)
  have := opnd_fits (a := b) (by simp_all)
  show 0x1c000006 + s.toNat * 2147483648 + d.code * 262144 + a.code * 2048 + b.code * 16 < 2 ^ 32
  omega
theorem udot4 (s : Bool) (d : Dst) (a : Opnd) (b : Opnd) : Statement (.udot4 s d a b) := by
  intro h
  replace h : (d.wf && a.wf && b.wf : Bool) = true := h
  simp only [Bool.and_eq_true] at h
  have := bool_fits s
  have := dst_fits (d := d) (by simp_all)
  have := opnd_fits (a := a) (by simp_all)
  have := opnd_fits (a := b) (by simp_all)
  show 0x1c000007 + s.toNat * 2147483648 + d.code * 262144 + a.code * 2048 + b.code * 16 < 2 ^ 32
  omega
theorem isetEq (s : Bool) (d : Dst) (a : Opnd) (b : Opnd) : Statement (.isetEq s d a b) := by
  intro h
  replace h : (d.wf && a.wf && b.wf : Bool) = true := h
  simp only [Bool.and_eq_true] at h
  have := bool_fits s
  have := dst_fits (d := d) (by simp_all)
  have := opnd_fits (a := a) (by simp_all)
  have := opnd_fits (a := b) (by simp_all)
  show 0x1e000000 + s.toNat * 2147483648 + d.code * 262144 + a.code * 2048 + b.code * 16 < 2 ^ 32
  omega
theorem isetNe (s : Bool) (d : Dst) (a : Opnd) (b : Opnd) : Statement (.isetNe s d a b) := by
  intro h
  replace h : (d.wf && a.wf && b.wf : Bool) = true := h
  simp only [Bool.and_eq_true] at h
  have := bool_fits s
  have := dst_fits (d := d) (by simp_all)
  have := opnd_fits (a := a) (by simp_all)
  have := opnd_fits (a := b) (by simp_all)
  show 0x1e000001 + s.toNat * 2147483648 + d.code * 262144 + a.code * 2048 + b.code * 16 < 2 ^ 32
  omega
theorem isetLt (s : Bool) (d : Dst) (a : Opnd) (b : Opnd) : Statement (.isetLt s d a b) := by
  intro h
  replace h : (d.wf && a.wf && b.wf : Bool) = true := h
  simp only [Bool.and_eq_true] at h
  have := bool_fits s
  have := dst_fits (d := d) (by simp_all)
  have := opnd_fits (a := a) (by simp_all)
  have := opnd_fits (a := b) (by simp_all)
  show 0x1e000002 + s.toNat * 2147483648 + d.code * 262144 + a.code * 2048 + b.code * 16 < 2 ^ 32
  omega
theorem isetLe (s : Bool) (d : Dst) (a : Opnd) (b : Opnd) : Statement (.isetLe s d a b) := by
  intro h
  replace h : (d.wf && a.wf && b.wf : Bool) = true := h
  simp only [Bool.and_eq_true] at h
  have := bool_fits s
  have := dst_fits (d := d) (by simp_all)
  have := opnd_fits (a := a) (by simp_all)
  have := opnd_fits (a := b) (by simp_all)
  show 0x1e000003 + s.toNat * 2147483648 + d.code * 262144 + a.code * 2048 + b.code * 16 < 2 ^ 32
  omega
theorem isetGt (s : Bool) (d : Dst) (a : Opnd) (b : Opnd) : Statement (.isetGt s d a b) := by
  intro h
  replace h : (d.wf && a.wf && b.wf : Bool) = true := h
  simp only [Bool.and_eq_true] at h
  have := bool_fits s
  have := dst_fits (d := d) (by simp_all)
  have := opnd_fits (a := a) (by simp_all)
  have := opnd_fits (a := b) (by simp_all)
  show 0x1e000004 + s.toNat * 2147483648 + d.code * 262144 + a.code * 2048 + b.code * 16 < 2 ^ 32
  omega
theorem isetGe (s : Bool) (d : Dst) (a : Opnd) (b : Opnd) : Statement (.isetGe s d a b) := by
  intro h
  replace h : (d.wf && a.wf && b.wf : Bool) = true := h
  simp only [Bool.and_eq_true] at h
  have := bool_fits s
  have := dst_fits (d := d) (by simp_all)
  have := opnd_fits (a := a) (by simp_all)
  have := opnd_fits (a := b) (by simp_all)
  show 0x1e000005 + s.toNat * 2147483648 + d.code * 262144 + a.code * 2048 + b.code * 16 < 2 ^ 32
  omega
theorem usetLt (s : Bool) (d : Dst) (a : Opnd) (b : Opnd) : Statement (.usetLt s d a b) := by
  intro h
  replace h : (d.wf && a.wf && b.wf : Bool) = true := h
  simp only [Bool.and_eq_true] at h
  have := bool_fits s
  have := dst_fits (d := d) (by simp_all)
  have := opnd_fits (a := a) (by simp_all)
  have := opnd_fits (a := b) (by simp_all)
  show 0x1e000006 + s.toNat * 2147483648 + d.code * 262144 + a.code * 2048 + b.code * 16 < 2 ^ 32
  omega
theorem usetLe (s : Bool) (d : Dst) (a : Opnd) (b : Opnd) : Statement (.usetLe s d a b) := by
  intro h
  replace h : (d.wf && a.wf && b.wf : Bool) = true := h
  simp only [Bool.and_eq_true] at h
  have := bool_fits s
  have := dst_fits (d := d) (by simp_all)
  have := opnd_fits (a := a) (by simp_all)
  have := opnd_fits (a := b) (by simp_all)
  show 0x1e000007 + s.toNat * 2147483648 + d.code * 262144 + a.code * 2048 + b.code * 16 < 2 ^ 32
  omega
theorem usetGt (s : Bool) (d : Dst) (a : Opnd) (b : Opnd) : Statement (.usetGt s d a b) := by
  intro h
  replace h : (d.wf && a.wf && b.wf : Bool) = true := h
  simp only [Bool.and_eq_true] at h
  have := bool_fits s
  have := dst_fits (d := d) (by simp_all)
  have := opnd_fits (a := a) (by simp_all)
  have := opnd_fits (a := b) (by simp_all)
  show 0x1e000008 + s.toNat * 2147483648 + d.code * 262144 + a.code * 2048 + b.code * 16 < 2 ^ 32
  omega
theorem usetGe (s : Bool) (d : Dst) (a : Opnd) (b : Opnd) : Statement (.usetGe s d a b) := by
  intro h
  replace h : (d.wf && a.wf && b.wf : Bool) = true := h
  simp only [Bool.and_eq_true] at h
  have := bool_fits s
  have := dst_fits (d := d) (by simp_all)
  have := opnd_fits (a := a) (by simp_all)
  have := opnd_fits (a := b) (by simp_all)
  show 0x1e000009 + s.toNat * 2147483648 + d.code * 262144 + a.code * 2048 + b.code * 16 < 2 ^ 32
  omega
theorem sel (s : Bool) (d : Dst) (a : Opnd) (b : Opnd) : Statement (.sel s d a b) := by
  intro h
  replace h : (d.wf && a.wf && b.wf : Bool) = true := h
  simp only [Bool.and_eq_true] at h
  have := bool_fits s
  have := dst_fits (d := d) (by simp_all)
  have := opnd_fits (a := a) (by simp_all)
  have := opnd_fits (a := b) (by simp_all)
  show 0x1e00000a + s.toNat * 2147483648 + d.code * 262144 + a.code * 2048 + b.code * 16 < 2 ^ 32
  omega
theorem iaddi (s : Bool) (d : Dst) (a : Opnd) (imm : BitVec 11) : Statement (.iaddi s d a imm) := by
  intro h
  replace h : (d.wf && a.wf : Bool) = true := h
  simp only [Bool.and_eq_true] at h
  have := bool_fits s
  have := dst_fits (d := d) (by simp_all)
  have := opnd_fits (a := a) (by simp_all)
  have := imm.isLt
  show 0x20000000 + s.toNat * 2147483648 + d.code * 262144 + a.code * 2048 + imm.toNat < 2 ^ 32
  omega
theorem andi (s : Bool) (d : Dst) (a : Opnd) (imm : BitVec 11) : Statement (.andi s d a imm) := by
  intro h
  replace h : (d.wf && a.wf : Bool) = true := h
  simp only [Bool.and_eq_true] at h
  have := bool_fits s
  have := dst_fits (d := d) (by simp_all)
  have := opnd_fits (a := a) (by simp_all)
  have := imm.isLt
  show 0x22000000 + s.toNat * 2147483648 + d.code * 262144 + a.code * 2048 + imm.toNat < 2 ^ 32
  omega
theorem ori (s : Bool) (d : Dst) (a : Opnd) (imm : BitVec 11) : Statement (.ori s d a imm) := by
  intro h
  replace h : (d.wf && a.wf : Bool) = true := h
  simp only [Bool.and_eq_true] at h
  have := bool_fits s
  have := dst_fits (d := d) (by simp_all)
  have := opnd_fits (a := a) (by simp_all)
  have := imm.isLt
  show 0x24000000 + s.toNat * 2147483648 + d.code * 262144 + a.code * 2048 + imm.toNat < 2 ^ 32
  omega
theorem xori (s : Bool) (d : Dst) (a : Opnd) (imm : BitVec 11) : Statement (.xori s d a imm) := by
  intro h
  replace h : (d.wf && a.wf : Bool) = true := h
  simp only [Bool.and_eq_true] at h
  have := bool_fits s
  have := dst_fits (d := d) (by simp_all)
  have := opnd_fits (a := a) (by simp_all)
  have := imm.isLt
  show 0x26000000 + s.toNat * 2147483648 + d.code * 262144 + a.code * 2048 + imm.toNat < 2 ^ 32
  omega
theorem shli (s : Bool) (d : Dst) (a : Opnd) (n : BitVec 5) : Statement (.shli s d a n) := by
  intro h
  replace h : (d.wf && a.wf : Bool) = true := h
  simp only [Bool.and_eq_true] at h
  have := bool_fits s
  have := dst_fits (d := d) (by simp_all)
  have := opnd_fits (a := a) (by simp_all)
  have := n.isLt
  show 0x28000000 + s.toNat * 2147483648 + d.code * 262144 + a.code * 2048 + n.toNat < 2 ^ 32
  omega
theorem shri (s : Bool) (d : Dst) (a : Opnd) (n : BitVec 5) : Statement (.shri s d a n) := by
  intro h
  replace h : (d.wf && a.wf : Bool) = true := h
  simp only [Bool.and_eq_true] at h
  have := bool_fits s
  have := dst_fits (d := d) (by simp_all)
  have := opnd_fits (a := a) (by simp_all)
  have := n.isLt
  show 0x28000100 + s.toNat * 2147483648 + d.code * 262144 + a.code * 2048 + n.toNat < 2 ^ 32
  omega
theorem sari (s : Bool) (d : Dst) (a : Opnd) (n : BitVec 5) : Statement (.sari s d a n) := by
  intro h
  replace h : (d.wf && a.wf : Bool) = true := h
  simp only [Bool.and_eq_true] at h
  have := bool_fits s
  have := dst_fits (d := d) (by simp_all)
  have := opnd_fits (a := a) (by simp_all)
  have := n.isLt
  show 0x28000200 + s.toNat * 2147483648 + d.code * 262144 + a.code * 2048 + n.toNat < 2 ^ 32
  omega
theorem roli (s : Bool) (d : Dst) (a : Opnd) (n : BitVec 5) : Statement (.roli s d a n) := by
  intro h
  replace h : (d.wf && a.wf : Bool) = true := h
  simp only [Bool.and_eq_true] at h
  have := bool_fits s
  have := dst_fits (d := d) (by simp_all)
  have := opnd_fits (a := a) (by simp_all)
  have := n.isLt
  show 0x28000300 + s.toNat * 2147483648 + d.code * 262144 + a.code * 2048 + n.toNat < 2 ^ 32
  omega
theorem rori (s : Bool) (d : Dst) (a : Opnd) (n : BitVec 5) : Statement (.rori s d a n) := by
  intro h
  replace h : (d.wf && a.wf : Bool) = true := h
  simp only [Bool.and_eq_true] at h
  have := bool_fits s
  have := dst_fits (d := d) (by simp_all)
  have := opnd_fits (a := a) (by simp_all)
  have := n.isLt
  show 0x28000400 + s.toNat * 2147483648 + d.code * 262144 + a.code * 2048 + n.toNat < 2 ^ 32
  omega
theorem movi (s : Bool) (d : Dst) (imm : BitVec 18) : Statement (.movi s d imm) := by
  intro h
  replace h : (d.wf : Bool) = true := h
  have := bool_fits s
  have := dst_fits (d := d) (by simp_all)
  have := imm.isLt
  show 0x2c000000 + s.toNat * 2147483648 + d.code * 262144 + imm.toNat < 2 ^ 32
  omega
theorem movhi (s : Bool) (d : Dst) (imm : BitVec 18) : Statement (.movhi s d imm) := by
  intro h
  replace h : (d.wf : Bool) = true := h
  have := bool_fits s
  have := dst_fits (d := d) (by simp_all)
  have := imm.isLt
  show 0x2e000000 + s.toNat * 2147483648 + d.code * 262144 + imm.toNat < 2 ^ 32
  omega
theorem addp (s : Bool) (d : Dst) (a : Opnd) (b : Opnd) : Statement (.addp s d a b) := by
  intro h
  replace h : (d.wf && a.wf && b.wf : Bool) = true := h
  simp only [Bool.and_eq_true] at h
  have := bool_fits s
  have := dst_fits (d := d) (by simp_all)
  have := opnd_fits (a := a) (by simp_all)
  have := opnd_fits (a := b) (by simp_all)
  show 0x30000000 + s.toNat * 2147483648 + d.code * 262144 + a.code * 2048 + b.code * 16 < 2 ^ 32
  omega
theorem addps (s : Bool) (d : Dst) (a : Opnd) (b : Opnd) : Statement (.addps s d a b) := by
  intro h
  replace h : (d.wf && a.wf && b.wf : Bool) = true := h
  simp only [Bool.and_eq_true] at h
  have := bool_fits s
  have := dst_fits (d := d) (by simp_all)
  have := opnd_fits (a := a) (by simp_all)
  have := opnd_fits (a := b) (by simp_all)
  show 0x30000001 + s.toNat * 2147483648 + d.code * 262144 + a.code * 2048 + b.code * 16 < 2 ^ 32
  omega
theorem leap1 (s : Bool) (d : Dst) (a : Opnd) (b : Opnd) : Statement (.leap1 s d a b) := by
  intro h
  replace h : (d.wf && a.wf && b.wf : Bool) = true := h
  simp only [Bool.and_eq_true] at h
  have := bool_fits s
  have := dst_fits (d := d) (by simp_all)
  have := opnd_fits (a := a) (by simp_all)
  have := opnd_fits (a := b) (by simp_all)
  show 0x30000002 + s.toNat * 2147483648 + d.code * 262144 + a.code * 2048 + b.code * 16 < 2 ^ 32
  omega
theorem leap2 (s : Bool) (d : Dst) (a : Opnd) (b : Opnd) : Statement (.leap2 s d a b) := by
  intro h
  replace h : (d.wf && a.wf && b.wf : Bool) = true := h
  simp only [Bool.and_eq_true] at h
  have := bool_fits s
  have := dst_fits (d := d) (by simp_all)
  have := opnd_fits (a := a) (by simp_all)
  have := opnd_fits (a := b) (by simp_all)
  show 0x30000003 + s.toNat * 2147483648 + d.code * 262144 + a.code * 2048 + b.code * 16 < 2 ^ 32
  omega
theorem leap3 (s : Bool) (d : Dst) (a : Opnd) (b : Opnd) : Statement (.leap3 s d a b) := by
  intro h
  replace h : (d.wf && a.wf && b.wf : Bool) = true := h
  simp only [Bool.and_eq_true] at h
  have := bool_fits s
  have := dst_fits (d := d) (by simp_all)
  have := opnd_fits (a := a) (by simp_all)
  have := opnd_fits (a := b) (by simp_all)
  show 0x30000004 + s.toNat * 2147483648 + d.code * 262144 + a.code * 2048 + b.code * 16 < 2 ^ 32
  omega
theorem leap4 (s : Bool) (d : Dst) (a : Opnd) (b : Opnd) : Statement (.leap4 s d a b) := by
  intro h
  replace h : (d.wf && a.wf && b.wf : Bool) = true := h
  simp only [Bool.and_eq_true] at h
  have := bool_fits s
  have := dst_fits (d := d) (by simp_all)
  have := opnd_fits (a := a) (by simp_all)
  have := opnd_fits (a := b) (by simp_all)
  show 0x30000005 + s.toNat * 2147483648 + d.code * 262144 + a.code * 2048 + b.code * 16 < 2 ^ 32
  omega
theorem subp (s : Bool) (d : Dst) (a : Opnd) (b : Opnd) : Statement (.subp s d a b) := by
  intro h
  replace h : (d.wf && a.wf && b.wf : Bool) = true := h
  simp only [Bool.and_eq_true] at h
  have := bool_fits s
  have := dst_fits (d := d) (by simp_all)
  have := opnd_fits (a := a) (by simp_all)
  have := opnd_fits (a := b) (by simp_all)
  show 0x30000006 + s.toNat * 2147483648 + d.code * 262144 + a.code * 2048 + b.code * 16 < 2 ^ 32
  omega
theorem fadd (s : Bool) (d : Dst) (a : Opnd) (b : Opnd) : Statement (.fadd s d a b) := by
  intro h
  replace h : (d.wf && a.wf && b.wf : Bool) = true := h
  simp only [Bool.and_eq_true] at h
  have := bool_fits s
  have := dst_fits (d := d) (by simp_all)
  have := opnd_fits (a := a) (by simp_all)
  have := opnd_fits (a := b) (by simp_all)
  show 0x32000000 + s.toNat * 2147483648 + d.code * 262144 + a.code * 2048 + b.code * 16 < 2 ^ 32
  omega
theorem fsub (s : Bool) (d : Dst) (a : Opnd) (b : Opnd) : Statement (.fsub s d a b) := by
  intro h
  replace h : (d.wf && a.wf && b.wf : Bool) = true := h
  simp only [Bool.and_eq_true] at h
  have := bool_fits s
  have := dst_fits (d := d) (by simp_all)
  have := opnd_fits (a := a) (by simp_all)
  have := opnd_fits (a := b) (by simp_all)
  show 0x32000001 + s.toNat * 2147483648 + d.code * 262144 + a.code * 2048 + b.code * 16 < 2 ^ 32
  omega
theorem fmul (s : Bool) (d : Dst) (a : Opnd) (b : Opnd) : Statement (.fmul s d a b) := by
  intro h
  replace h : (d.wf && a.wf && b.wf : Bool) = true := h
  simp only [Bool.and_eq_true] at h
  have := bool_fits s
  have := dst_fits (d := d) (by simp_all)
  have := opnd_fits (a := a) (by simp_all)
  have := opnd_fits (a := b) (by simp_all)
  show 0x32000002 + s.toNat * 2147483648 + d.code * 262144 + a.code * 2048 + b.code * 16 < 2 ^ 32
  omega
theorem fmin (s : Bool) (d : Dst) (a : Opnd) (b : Opnd) : Statement (.fmin s d a b) := by
  intro h
  replace h : (d.wf && a.wf && b.wf : Bool) = true := h
  simp only [Bool.and_eq_true] at h
  have := bool_fits s
  have := dst_fits (d := d) (by simp_all)
  have := opnd_fits (a := a) (by simp_all)
  have := opnd_fits (a := b) (by simp_all)
  show 0x32000003 + s.toNat * 2147483648 + d.code * 262144 + a.code * 2048 + b.code * 16 < 2 ^ 32
  omega
theorem fmax (s : Bool) (d : Dst) (a : Opnd) (b : Opnd) : Statement (.fmax s d a b) := by
  intro h
  replace h : (d.wf && a.wf && b.wf : Bool) = true := h
  simp only [Bool.and_eq_true] at h
  have := bool_fits s
  have := dst_fits (d := d) (by simp_all)
  have := opnd_fits (a := a) (by simp_all)
  have := opnd_fits (a := b) (by simp_all)
  show 0x32000004 + s.toNat * 2147483648 + d.code * 262144 + a.code * 2048 + b.code * 16 < 2 ^ 32
  omega
theorem fabs (s : Bool) (d : Dst) (a : Opnd) : Statement (.fabs s d a) := by
  intro h
  replace h : (d.wf && a.wf : Bool) = true := h
  simp only [Bool.and_eq_true] at h
  have := bool_fits s
  have := dst_fits (d := d) (by simp_all)
  have := opnd_fits (a := a) (by simp_all)
  show 0x32000005 + s.toNat * 2147483648 + d.code * 262144 + a.code * 2048 < 2 ^ 32
  omega
theorem fneg (s : Bool) (d : Dst) (a : Opnd) : Statement (.fneg s d a) := by
  intro h
  replace h : (d.wf && a.wf : Bool) = true := h
  simp only [Bool.and_eq_true] at h
  have := bool_fits s
  have := dst_fits (d := d) (by simp_all)
  have := opnd_fits (a := a) (by simp_all)
  show 0x32000006 + s.toNat * 2147483648 + d.code * 262144 + a.code * 2048 < 2 ^ 32
  omega
theorem fcopysign (s : Bool) (d : Dst) (a : Opnd) (b : Opnd) : Statement (.fcopysign s d a b) := by
  intro h
  replace h : (d.wf && a.wf && b.wf : Bool) = true := h
  simp only [Bool.and_eq_true] at h
  have := bool_fits s
  have := dst_fits (d := d) (by simp_all)
  have := opnd_fits (a := a) (by simp_all)
  have := opnd_fits (a := b) (by simp_all)
  show 0x32000007 + s.toNat * 2147483648 + d.code * 262144 + a.code * 2048 + b.code * 16 < 2 ^ 32
  omega
theorem ffma (s : Bool) (d : Dst) (a : Opnd) (b : Opnd) : Statement (.ffma s d a b) := by
  intro h
  replace h : (d.wf && a.wf && b.wf : Bool) = true := h
  simp only [Bool.and_eq_true] at h
  have := bool_fits s
  have := dst_fits (d := d) (by simp_all)
  have := opnd_fits (a := a) (by simp_all)
  have := opnd_fits (a := b) (by simp_all)
  show 0x34000000 + s.toNat * 2147483648 + d.code * 262144 + a.code * 2048 + b.code * 16 < 2 ^ 32
  omega
theorem ffms (s : Bool) (d : Dst) (a : Opnd) (b : Opnd) : Statement (.ffms s d a b) := by
  intro h
  replace h : (d.wf && a.wf && b.wf : Bool) = true := h
  simp only [Bool.and_eq_true] at h
  have := bool_fits s
  have := dst_fits (d := d) (by simp_all)
  have := opnd_fits (a := a) (by simp_all)
  have := opnd_fits (a := b) (by simp_all)
  show 0x34000001 + s.toNat * 2147483648 + d.code * 262144 + a.code * 2048 + b.code * 16 < 2 ^ 32
  omega
theorem fdot2 (s : Bool) (d : Dst) (a : Opnd) (b : Opnd) : Statement (.fdot2 s d a b) := by
  intro h
  replace h : (d.wf && a.wf && b.wf : Bool) = true := h
  simp only [Bool.and_eq_true] at h
  have := bool_fits s
  have := dst_fits (d := d) (by simp_all)
  have := opnd_fits (a := a) (by simp_all)
  have := opnd_fits (a := b) (by simp_all)
  show 0x34000002 + s.toNat * 2147483648 + d.code * 262144 + a.code * 2048 + b.code * 16 < 2 ^ 32
  omega
theorem fsetEq (s : Bool) (d : Dst) (a : Opnd) (b : Opnd) : Statement (.fsetEq s d a b) := by
  intro h
  replace h : (d.wf && a.wf && b.wf : Bool) = true := h
  simp only [Bool.and_eq_true] at h
  have := bool_fits s
  have := dst_fits (d := d) (by simp_all)
  have := opnd_fits (a := a) (by simp_all)
  have := opnd_fits (a := b) (by simp_all)
  show 0x36000000 + s.toNat * 2147483648 + d.code * 262144 + a.code * 2048 + b.code * 16 < 2 ^ 32
  omega
theorem fsetNe (s : Bool) (d : Dst) (a : Opnd) (b : Opnd) : Statement (.fsetNe s d a b) := by
  intro h
  replace h : (d.wf && a.wf && b.wf : Bool) = true := h
  simp only [Bool.and_eq_true] at h
  have := bool_fits s
  have := dst_fits (d := d) (by simp_all)
  have := opnd_fits (a := a) (by simp_all)
  have := opnd_fits (a := b) (by simp_all)
  show 0x36000001 + s.toNat * 2147483648 + d.code * 262144 + a.code * 2048 + b.code * 16 < 2 ^ 32
  omega
theorem fsetLt (s : Bool) (d : Dst) (a : Opnd) (b : Opnd) : Statement (.fsetLt s d a b) := by
  intro h
  replace h : (d.wf && a.wf && b.wf : Bool) = true := h
  simp only [Bool.and_eq_true] at h
  have := bool_fits s
  have := dst_fits (d := d) (by simp_all)
  have := opnd_fits (a := a) (by simp_all)
  have := opnd_fits (a := b) (by simp_all)
  show 0x36000002 + s.toNat * 2147483648 + d.code * 262144 + a.code * 2048 + b.code * 16 < 2 ^ 32
  omega
theorem fsetLe (s : Bool) (d : Dst) (a : Opnd) (b : Opnd) : Statement (.fsetLe s d a b) := by
  intro h
  replace h : (d.wf && a.wf && b.wf : Bool) = true := h
  simp only [Bool.and_eq_true] at h
  have := bool_fits s
  have := dst_fits (d := d) (by simp_all)
  have := opnd_fits (a := a) (by simp_all)
  have := opnd_fits (a := b) (by simp_all)
  show 0x36000003 + s.toNat * 2147483648 + d.code * 262144 + a.code * 2048 + b.code * 16 < 2 ^ 32
  omega
theorem fsetGt (s : Bool) (d : Dst) (a : Opnd) (b : Opnd) : Statement (.fsetGt s d a b) := by
  intro h
  replace h : (d.wf && a.wf && b.wf : Bool) = true := h
  simp only [Bool.and_eq_true] at h
  have := bool_fits s
  have := dst_fits (d := d) (by simp_all)
  have := opnd_fits (a := a) (by simp_all)
  have := opnd_fits (a := b) (by simp_all)
  show 0x36000004 + s.toNat * 2147483648 + d.code * 262144 + a.code * 2048 + b.code * 16 < 2 ^ 32
  omega
theorem fsetGe (s : Bool) (d : Dst) (a : Opnd) (b : Opnd) : Statement (.fsetGe s d a b) := by
  intro h
  replace h : (d.wf && a.wf && b.wf : Bool) = true := h
  simp only [Bool.and_eq_true] at h
  have := bool_fits s
  have := dst_fits (d := d) (by simp_all)
  have := opnd_fits (a := a) (by simp_all)
  have := opnd_fits (a := b) (by simp_all)
  show 0x36000005 + s.toNat * 2147483648 + d.code * 262144 + a.code * 2048 + b.code * 16 < 2 ^ 32
  omega
theorem fsetUn (s : Bool) (d : Dst) (a : Opnd) (b : Opnd) : Statement (.fsetUn s d a b) := by
  intro h
  replace h : (d.wf && a.wf && b.wf : Bool) = true := h
  simp only [Bool.and_eq_true] at h
  have := bool_fits s
  have := dst_fits (d := d) (by simp_all)
  have := opnd_fits (a := a) (by simp_all)
  have := opnd_fits (a := b) (by simp_all)
  show 0x36000006 + s.toNat * 2147483648 + d.code * 262144 + a.code * 2048 + b.code * 16 < 2 ^ 32
  omega
theorem fclass (s : Bool) (d : Dst) (a : Opnd) : Statement (.fclass s d a) := by
  intro h
  replace h : (d.wf && a.wf : Bool) = true := h
  simp only [Bool.and_eq_true] at h
  have := bool_fits s
  have := dst_fits (d := d) (by simp_all)
  have := opnd_fits (a := a) (by simp_all)
  show 0x36000007 + s.toNat * 2147483648 + d.code * 262144 + a.code * 2048 < 2 ^ 32
  omega
theorem frcp (s : Bool) (d : Dst) (a : Opnd) : Statement (.frcp s d a) := by
  intro h
  replace h : (d.wf && a.wf : Bool) = true := h
  simp only [Bool.and_eq_true] at h
  have := bool_fits s
  have := dst_fits (d := d) (by simp_all)
  have := opnd_fits (a := a) (by simp_all)
  show 0x38000000 + s.toNat * 2147483648 + d.code * 262144 + a.code * 2048 < 2 ^ 32
  omega
theorem frsq (s : Bool) (d : Dst) (a : Opnd) : Statement (.frsq s d a) := by
  intro h
  replace h : (d.wf && a.wf : Bool) = true := h
  simp only [Bool.and_eq_true] at h
  have := bool_fits s
  have := dst_fits (d := d) (by simp_all)
  have := opnd_fits (a := a) (by simp_all)
  show 0x38000001 + s.toNat * 2147483648 + d.code * 262144 + a.code * 2048 < 2 ^ 32
  omega
theorem fsqrt (s : Bool) (d : Dst) (a : Opnd) : Statement (.fsqrt s d a) := by
  intro h
  replace h : (d.wf && a.wf : Bool) = true := h
  simp only [Bool.and_eq_true] at h
  have := bool_fits s
  have := dst_fits (d := d) (by simp_all)
  have := opnd_fits (a := a) (by simp_all)
  show 0x38000002 + s.toNat * 2147483648 + d.code * 262144 + a.code * 2048 < 2 ^ 32
  omega
theorem fexp2 (s : Bool) (d : Dst) (a : Opnd) : Statement (.fexp2 s d a) := by
  intro h
  replace h : (d.wf && a.wf : Bool) = true := h
  simp only [Bool.and_eq_true] at h
  have := bool_fits s
  have := dst_fits (d := d) (by simp_all)
  have := opnd_fits (a := a) (by simp_all)
  show 0x38000003 + s.toNat * 2147483648 + d.code * 262144 + a.code * 2048 < 2 ^ 32
  omega
theorem flog2 (s : Bool) (d : Dst) (a : Opnd) : Statement (.flog2 s d a) := by
  intro h
  replace h : (d.wf && a.wf : Bool) = true := h
  simp only [Bool.and_eq_true] at h
  have := bool_fits s
  have := dst_fits (d := d) (by simp_all)
  have := opnd_fits (a := a) (by simp_all)
  show 0x38000004 + s.toNat * 2147483648 + d.code * 262144 + a.code * 2048 < 2 ^ 32
  omega
theorem fsin2pi (s : Bool) (d : Dst) (a : Opnd) : Statement (.fsin2pi s d a) := by
  intro h
  replace h : (d.wf && a.wf : Bool) = true := h
  simp only [Bool.and_eq_true] at h
  have := bool_fits s
  have := dst_fits (d := d) (by simp_all)
  have := opnd_fits (a := a) (by simp_all)
  show 0x38000005 + s.toNat * 2147483648 + d.code * 262144 + a.code * 2048 < 2 ^ 32
  omega
theorem fcos2pi (s : Bool) (d : Dst) (a : Opnd) : Statement (.fcos2pi s d a) := by
  intro h
  replace h : (d.wf && a.wf : Bool) = true := h
  simp only [Bool.and_eq_true] at h
  have := bool_fits s
  have := dst_fits (d := d) (by simp_all)
  have := opnd_fits (a := a) (by simp_all)
  show 0x38000006 + s.toNat * 2147483648 + d.code * 262144 + a.code * 2048 < 2 ^ 32
  omega
theorem ftanh (s : Bool) (d : Dst) (a : Opnd) : Statement (.ftanh s d a) := by
  intro h
  replace h : (d.wf && a.wf : Bool) = true := h
  simp only [Bool.and_eq_true] at h
  have := bool_fits s
  have := dst_fits (d := d) (by simp_all)
  have := opnd_fits (a := a) (by simp_all)
  show 0x38000007 + s.toNat * 2147483648 + d.code * 262144 + a.code * 2048 < 2 ^ 32
  omega
theorem fdiv (s : Bool) (d : Dst) (a : Opnd) (b : Opnd) : Statement (.fdiv s d a b) := by
  intro h
  replace h : (d.wf && a.wf && b.wf : Bool) = true := h
  simp only [Bool.and_eq_true] at h
  have := bool_fits s
  have := dst_fits (d := d) (by simp_all)
  have := opnd_fits (a := a) (by simp_all)
  have := opnd_fits (a := b) (by simp_all)
  show 0x38000008 + s.toNat * 2147483648 + d.code * 262144 + a.code * 2048 + b.code * 16 < 2 ^ 32
  omega
theorem hadd2Bf (s : Bool) (d : Dst) (a : Opnd) (b : Opnd) : Statement (.hadd2Bf s d a b) := by
  intro h
  replace h : (d.wf && a.wf && b.wf : Bool) = true := h
  simp only [Bool.and_eq_true] at h
  have := bool_fits s
  have := dst_fits (d := d) (by simp_all)
  have := opnd_fits (a := a) (by simp_all)
  have := opnd_fits (a := b) (by simp_all)
  show 0x3a000000 + s.toNat * 2147483648 + d.code * 262144 + a.code * 2048 + b.code * 16 < 2 ^ 32
  omega
theorem hsub2Bf (s : Bool) (d : Dst) (a : Opnd) (b : Opnd) : Statement (.hsub2Bf s d a b) := by
  intro h
  replace h : (d.wf && a.wf && b.wf : Bool) = true := h
  simp only [Bool.and_eq_true] at h
  have := bool_fits s
  have := dst_fits (d := d) (by simp_all)
  have := opnd_fits (a := a) (by simp_all)
  have := opnd_fits (a := b) (by simp_all)
  show 0x3a000001 + s.toNat * 2147483648 + d.code * 262144 + a.code * 2048 + b.code * 16 < 2 ^ 32
  omega
theorem hmul2Bf (s : Bool) (d : Dst) (a : Opnd) (b : Opnd) : Statement (.hmul2Bf s d a b) := by
  intro h
  replace h : (d.wf && a.wf && b.wf : Bool) = true := h
  simp only [Bool.and_eq_true] at h
  have := bool_fits s
  have := dst_fits (d := d) (by simp_all)
  have := opnd_fits (a := a) (by simp_all)
  have := opnd_fits (a := b) (by simp_all)
  show 0x3a000002 + s.toNat * 2147483648 + d.code * 262144 + a.code * 2048 + b.code * 16 < 2 ^ 32
  omega
theorem hfma2Bf (s : Bool) (d : Dst) (a : Opnd) (b : Opnd) : Statement (.hfma2Bf s d a b) := by
  intro h
  replace h : (d.wf && a.wf && b.wf : Bool) = true := h
  simp only [Bool.and_eq_true] at h
  have := bool_fits s
  have := dst_fits (d := d) (by simp_all)
  have := opnd_fits (a := a) (by simp_all)
  have := opnd_fits (a := b) (by simp_all)
  show 0x3a000003 + s.toNat * 2147483648 + d.code * 262144 + a.code * 2048 + b.code * 16 < 2 ^ 32
  omega
theorem hmin2Bf (s : Bool) (d : Dst) (a : Opnd) (b : Opnd) : Statement (.hmin2Bf s d a b) := by
  intro h
  replace h : (d.wf && a.wf && b.wf : Bool) = true := h
  simp only [Bool.and_eq_true] at h
  have := bool_fits s
  have := dst_fits (d := d) (by simp_all)
  have := opnd_fits (a := a) (by simp_all)
  have := opnd_fits (a := b) (by simp_all)
  show 0x3a000004 + s.toNat * 2147483648 + d.code * 262144 + a.code * 2048 + b.code * 16 < 2 ^ 32
  omega
theorem hmax2Bf (s : Bool) (d : Dst) (a : Opnd) (b : Opnd) : Statement (.hmax2Bf s d a b) := by
  intro h
  replace h : (d.wf && a.wf && b.wf : Bool) = true := h
  simp only [Bool.and_eq_true] at h
  have := bool_fits s
  have := dst_fits (d := d) (by simp_all)
  have := opnd_fits (a := a) (by simp_all)
  have := opnd_fits (a := b) (by simp_all)
  show 0x3a000005 + s.toNat * 2147483648 + d.code * 262144 + a.code * 2048 + b.code * 16 < 2 ^ 32
  omega
theorem hadd2H (s : Bool) (d : Dst) (a : Opnd) (b : Opnd) : Statement (.hadd2H s d a b) := by
  intro h
  replace h : (d.wf && a.wf && b.wf : Bool) = true := h
  simp only [Bool.and_eq_true] at h
  have := bool_fits s
  have := dst_fits (d := d) (by simp_all)
  have := opnd_fits (a := a) (by simp_all)
  have := opnd_fits (a := b) (by simp_all)
  show 0x3a000008 + s.toNat * 2147483648 + d.code * 262144 + a.code * 2048 + b.code * 16 < 2 ^ 32
  omega
theorem hsub2H (s : Bool) (d : Dst) (a : Opnd) (b : Opnd) : Statement (.hsub2H s d a b) := by
  intro h
  replace h : (d.wf && a.wf && b.wf : Bool) = true := h
  simp only [Bool.and_eq_true] at h
  have := bool_fits s
  have := dst_fits (d := d) (by simp_all)
  have := opnd_fits (a := a) (by simp_all)
  have := opnd_fits (a := b) (by simp_all)
  show 0x3a000009 + s.toNat * 2147483648 + d.code * 262144 + a.code * 2048 + b.code * 16 < 2 ^ 32
  omega
theorem hmul2H (s : Bool) (d : Dst) (a : Opnd) (b : Opnd) : Statement (.hmul2H s d a b) := by
  intro h
  replace h : (d.wf && a.wf && b.wf : Bool) = true := h
  simp only [Bool.and_eq_true] at h
  have := bool_fits s
  have := dst_fits (d := d) (by simp_all)
  have := opnd_fits (a := a) (by simp_all)
  have := opnd_fits (a := b) (by simp_all)
  show 0x3a00000a + s.toNat * 2147483648 + d.code * 262144 + a.code * 2048 + b.code * 16 < 2 ^ 32
  omega
theorem hfma2H (s : Bool) (d : Dst) (a : Opnd) (b : Opnd) : Statement (.hfma2H s d a b) := by
  intro h
  replace h : (d.wf && a.wf && b.wf : Bool) = true := h
  simp only [Bool.and_eq_true] at h
  have := bool_fits s
  have := dst_fits (d := d) (by simp_all)
  have := opnd_fits (a := a) (by simp_all)
  have := opnd_fits (a := b) (by simp_all)
  show 0x3a00000b + s.toNat * 2147483648 + d.code * 262144 + a.code * 2048 + b.code * 16 < 2 ^ 32
  omega
theorem hmin2H (s : Bool) (d : Dst) (a : Opnd) (b : Opnd) : Statement (.hmin2H s d a b) := by
  intro h
  replace h : (d.wf && a.wf && b.wf : Bool) = true := h
  simp only [Bool.and_eq_true] at h
  have := bool_fits s
  have := dst_fits (d := d) (by simp_all)
  have := opnd_fits (a := a) (by simp_all)
  have := opnd_fits (a := b) (by simp_all)
  show 0x3a00000c + s.toNat * 2147483648 + d.code * 262144 + a.code * 2048 + b.code * 16 < 2 ^ 32
  omega
theorem hmax2H (s : Bool) (d : Dst) (a : Opnd) (b : Opnd) : Statement (.hmax2H s d a b) := by
  intro h
  replace h : (d.wf && a.wf && b.wf : Bool) = true := h
  simp only [Bool.and_eq_true] at h
  have := bool_fits s
  have := dst_fits (d := d) (by simp_all)
  have := opnd_fits (a := a) (by simp_all)
  have := opnd_fits (a := b) (by simp_all)
  show 0x3a00000d + s.toNat * 2147483648 + d.code * 262144 + a.code * 2048 + b.code * 16 < 2 ^ 32
  omega
theorem cfma (s : Bool) (d : Dst) (a : Opnd) (b : Opnd) : Statement (.cfma s d a b) := by
  intro h
  replace h : (d.wf && a.wf && b.wf : Bool) = true := h
  simp only [Bool.and_eq_true] at h
  have := bool_fits s
  have := dst_fits (d := d) (by simp_all)
  have := opnd_fits (a := a) (by simp_all)
  have := opnd_fits (a := b) (by simp_all)
  show 0x3c000000 + s.toNat * 2147483648 + d.code * 262144 + a.code * 2048 + b.code * 16 < 2 ^ 32
  omega
theorem cfms (s : Bool) (d : Dst) (a : Opnd) (b : Opnd) : Statement (.cfms s d a b) := by
  intro h
  replace h : (d.wf && a.wf && b.wf : Bool) = true := h
  simp only [Bool.and_eq_true] at h
  have := bool_fits s
  have := dst_fits (d := d) (by simp_all)
  have := opnd_fits (a := a) (by simp_all)
  have := opnd_fits (a := b) (by simp_all)
  show 0x3c000001 + s.toNat * 2147483648 + d.code * 262144 + a.code * 2048 + b.code * 16 < 2 ^ 32
  omega
theorem cmul (s : Bool) (d : Dst) (a : Opnd) (b : Opnd) : Statement (.cmul s d a b) := by
  intro h
  replace h : (d.wf && a.wf && b.wf : Bool) = true := h
  simp only [Bool.and_eq_true] at h
  have := bool_fits s
  have := dst_fits (d := d) (by simp_all)
  have := opnd_fits (a := a) (by simp_all)
  have := opnd_fits (a := b) (by simp_all)
  show 0x3c000002 + s.toNat * 2147483648 + d.code * 262144 + a.code * 2048 + b.code * 16 < 2 ^ 32
  omega
theorem f2i (s : Bool) (d : Dst) (a : Opnd) : Statement (.f2i s d a) := by
  intro h
  replace h : (d.wf && a.wf : Bool) = true := h
  simp only [Bool.and_eq_true] at h
  have := bool_fits s
  have := dst_fits (d := d) (by simp_all)
  have := opnd_fits (a := a) (by simp_all)
  show 0x3e000000 + s.toNat * 2147483648 + d.code * 262144 + a.code * 2048 < 2 ^ 32
  omega
theorem f2u (s : Bool) (d : Dst) (a : Opnd) : Statement (.f2u s d a) := by
  intro h
  replace h : (d.wf && a.wf : Bool) = true := h
  simp only [Bool.and_eq_true] at h
  have := bool_fits s
  have := dst_fits (d := d) (by simp_all)
  have := opnd_fits (a := a) (by simp_all)
  show 0x3e000001 + s.toNat * 2147483648 + d.code * 262144 + a.code * 2048 < 2 ^ 32
  omega
theorem i2f (s : Bool) (d : Dst) (a : Opnd) : Statement (.i2f s d a) := by
  intro h
  replace h : (d.wf && a.wf : Bool) = true := h
  simp only [Bool.and_eq_true] at h
  have := bool_fits s
  have := dst_fits (d := d) (by simp_all)
  have := opnd_fits (a := a) (by simp_all)
  show 0x3e000002 + s.toNat * 2147483648 + d.code * 262144 + a.code * 2048 < 2 ^ 32
  omega
theorem u2f (s : Bool) (d : Dst) (a : Opnd) : Statement (.u2f s d a) := by
  intro h
  replace h : (d.wf && a.wf : Bool) = true := h
  simp only [Bool.and_eq_true] at h
  have := bool_fits s
  have := dst_fits (d := d) (by simp_all)
  have := opnd_fits (a := a) (by simp_all)
  show 0x3e000003 + s.toNat * 2147483648 + d.code * 262144 + a.code * 2048 < 2 ^ 32
  omega
theorem f2bf (s : Bool) (d : Dst) (a : Opnd) (b : Opnd) : Statement (.f2bf s d a b) := by
  intro h
  replace h : (d.wf && a.wf && b.wf : Bool) = true := h
  simp only [Bool.and_eq_true] at h
  have := bool_fits s
  have := dst_fits (d := d) (by simp_all)
  have := opnd_fits (a := a) (by simp_all)
  have := opnd_fits (a := b) (by simp_all)
  show 0x3e000004 + s.toNat * 2147483648 + d.code * 262144 + a.code * 2048 + b.code * 16 < 2 ^ 32
  omega
theorem bf2f (s : Bool) (d : Dst) (a : Opnd) : Statement (.bf2f s d a) := by
  intro h
  replace h : (d.wf && a.wf : Bool) = true := h
  simp only [Bool.and_eq_true] at h
  have := bool_fits s
  have := dst_fits (d := d) (by simp_all)
  have := opnd_fits (a := a) (by simp_all)
  show 0x3e000005 + s.toNat * 2147483648 + d.code * 262144 + a.code * 2048 < 2 ^ 32
  omega
theorem f2h (s : Bool) (d : Dst) (a : Opnd) (b : Opnd) : Statement (.f2h s d a b) := by
  intro h
  replace h : (d.wf && a.wf && b.wf : Bool) = true := h
  simp only [Bool.and_eq_true] at h
  have := bool_fits s
  have := dst_fits (d := d) (by simp_all)
  have := opnd_fits (a := a) (by simp_all)
  have := opnd_fits (a := b) (by simp_all)
  show 0x3e000006 + s.toNat * 2147483648 + d.code * 262144 + a.code * 2048 + b.code * 16 < 2 ^ 32
  omega
theorem h2f (s : Bool) (d : Dst) (a : Opnd) : Statement (.h2f s d a) := by
  intro h
  replace h : (d.wf && a.wf : Bool) = true := h
  simp only [Bool.and_eq_true] at h
  have := bool_fits s
  have := dst_fits (d := d) (by simp_all)
  have := opnd_fits (a := a) (by simp_all)
  show 0x3e000007 + s.toNat * 2147483648 + d.code * 262144 + a.code * 2048 < 2 ^ 32
  omega
theorem f2e4 (s : Bool) (d : Dst) (a : Opnd) (b : Opnd) : Statement (.f2e4 s d a b) := by
  intro h
  replace h : (d.wf && a.wf && b.wf : Bool) = true := h
  simp only [Bool.and_eq_true] at h
  have := bool_fits s
  have := dst_fits (d := d) (by simp_all)
  have := opnd_fits (a := a) (by simp_all)
  have := opnd_fits (a := b) (by simp_all)
  show 0x3e000008 + s.toNat * 2147483648 + d.code * 262144 + a.code * 2048 + b.code * 16 < 2 ^ 32
  omega
theorem e42f (s : Bool) (d : Dst) (a : Opnd) : Statement (.e42f s d a) := by
  intro h
  replace h : (d.wf && a.wf : Bool) = true := h
  simp only [Bool.and_eq_true] at h
  have := bool_fits s
  have := dst_fits (d := d) (by simp_all)
  have := opnd_fits (a := a) (by simp_all)
  show 0x3e000009 + s.toNat * 2147483648 + d.code * 262144 + a.code * 2048 < 2 ^ 32
  omega
theorem f2e5 (s : Bool) (d : Dst) (a : Opnd) (b : Opnd) : Statement (.f2e5 s d a b) := by
  intro h
  replace h : (d.wf && a.wf && b.wf : Bool) = true := h
  simp only [Bool.and_eq_true] at h
  have := bool_fits s
  have := dst_fits (d := d) (by simp_all)
  have := opnd_fits (a := a) (by simp_all)
  have := opnd_fits (a := b) (by simp_all)
  show 0x3e00000a + s.toNat * 2147483648 + d.code * 262144 + a.code * 2048 + b.code * 16 < 2 ^ 32
  omega
theorem e52f (s : Bool) (d : Dst) (a : Opnd) : Statement (.e52f s d a) := by
  intro h
  replace h : (d.wf && a.wf : Bool) = true := h
  simp only [Bool.and_eq_true] at h
  have := bool_fits s
  have := dst_fits (d := d) (by simp_all)
  have := opnd_fits (a := a) (by simp_all)
  show 0x3e00000b + s.toNat * 2147483648 + d.code * 262144 + a.code * 2048 < 2 ^ 32
  omega
theorem qnt (s : Bool) (d : Dst) (a : Opnd) (b : Opnd) : Statement (.qnt s d a b) := by
  intro h
  replace h : (d.wf && a.wf && b.wf : Bool) = true := h
  simp only [Bool.and_eq_true] at h
  have := bool_fits s
  have := dst_fits (d := d) (by simp_all)
  have := opnd_fits (a := a) (by simp_all)
  have := opnd_fits (a := b) (by simp_all)
  show 0x3e00000c + s.toNat * 2147483648 + d.code * 262144 + a.code * 2048 + b.code * 16 < 2 ^ 32
  omega
theorem dqnt (s : Bool) (d : Dst) (a : Opnd) (b : Opnd) : Statement (.dqnt s d a b) := by
  intro h
  replace h : (d.wf && a.wf && b.wf : Bool) = true := h
  simp only [Bool.and_eq_true] at h
  have := bool_fits s
  have := dst_fits (d := d) (by simp_all)
  have := opnd_fits (a := a) (by simp_all)
  have := opnd_fits (a := b) (by simp_all)
  show 0x3e00000d + s.toNat * 2147483648 + d.code * 262144 + a.code * 2048 + b.code * 16 < 2 ^ 32
  omega
theorem pack8 (s : Bool) (d : Dst) (a : Opnd) (b : Opnd) : Statement (.pack8 s d a b) := by
  intro h
  replace h : (d.wf && a.wf && b.wf : Bool) = true := h
  simp only [Bool.and_eq_true] at h
  have := bool_fits s
  have := dst_fits (d := d) (by simp_all)
  have := opnd_fits (a := a) (by simp_all)
  have := opnd_fits (a := b) (by simp_all)
  show 0x3e00000e + s.toNat * 2147483648 + d.code * 262144 + a.code * 2048 + b.code * 16 < 2 ^ 32
  omega
theorem frnd (s : Bool) (d : Dst) (a : Opnd) : Statement (.frnd s d a) := by
  intro h
  replace h : (d.wf && a.wf : Bool) = true := h
  simp only [Bool.and_eq_true] at h
  have := bool_fits s
  have := dst_fits (d := d) (by simp_all)
  have := opnd_fits (a := a) (by simp_all)
  show 0x3e00000f + s.toNat * 2147483648 + d.code * 262144 + a.code * 2048 < 2 ^ 32
  omega
theorem shflIdx (s : Bool) (d : Dst) (a : Opnd) (b : Opnd) : Statement (.shflIdx s d a b) := by
  intro h
  replace h : (d.wf && a.wf && b.wf : Bool) = true := h
  simp only [Bool.and_eq_true] at h
  have := bool_fits s
  have := dst_fits (d := d) (by simp_all)
  have := opnd_fits (a := a) (by simp_all)
  have := opnd_fits (a := b) (by simp_all)
  show 0x40000000 + s.toNat * 2147483648 + d.code * 262144 + a.code * 2048 + b.code * 16 < 2 ^ 32
  omega
theorem shflUp (s : Bool) (d : Dst) (a : Opnd) (b : Opnd) : Statement (.shflUp s d a b) := by
  intro h
  replace h : (d.wf && a.wf && b.wf : Bool) = true := h
  simp only [Bool.and_eq_true] at h
  have := bool_fits s
  have := dst_fits (d := d) (by simp_all)
  have := opnd_fits (a := a) (by simp_all)
  have := opnd_fits (a := b) (by simp_all)
  show 0x40000001 + s.toNat * 2147483648 + d.code * 262144 + a.code * 2048 + b.code * 16 < 2 ^ 32
  omega
theorem shflDown (s : Bool) (d : Dst) (a : Opnd) (b : Opnd) : Statement (.shflDown s d a b) := by
  intro h
  replace h : (d.wf && a.wf && b.wf : Bool) = true := h
  simp only [Bool.and_eq_true] at h
  have := bool_fits s
  have := dst_fits (d := d) (by simp_all)
  have := opnd_fits (a := a) (by simp_all)
  have := opnd_fits (a := b) (by simp_all)
  show 0x40000002 + s.toNat * 2147483648 + d.code * 262144 + a.code * 2048 + b.code * 16 < 2 ^ 32
  omega
theorem shflXor (s : Bool) (d : Dst) (a : Opnd) (b : Opnd) : Statement (.shflXor s d a b) := by
  intro h
  replace h : (d.wf && a.wf && b.wf : Bool) = true := h
  simp only [Bool.and_eq_true] at h
  have := bool_fits s
  have := dst_fits (d := d) (by simp_all)
  have := opnd_fits (a := a) (by simp_all)
  have := opnd_fits (a := b) (by simp_all)
  show 0x40000003 + s.toNat * 2147483648 + d.code * 262144 + a.code * 2048 + b.code * 16 < 2 ^ 32
  omega
theorem voteAll (s : Bool) (d : Dst) (a : Opnd) : Statement (.voteAll s d a) := by
  intro h
  replace h : (d.wf && a.wf : Bool) = true := h
  simp only [Bool.and_eq_true] at h
  have := bool_fits s
  have := dst_fits (d := d) (by simp_all)
  have := opnd_fits (a := a) (by simp_all)
  show 0x40000004 + s.toNat * 2147483648 + d.code * 262144 + a.code * 2048 < 2 ^ 32
  omega
theorem voteAny (s : Bool) (d : Dst) (a : Opnd) : Statement (.voteAny s d a) := by
  intro h
  replace h : (d.wf && a.wf : Bool) = true := h
  simp only [Bool.and_eq_true] at h
  have := bool_fits s
  have := dst_fits (d := d) (by simp_all)
  have := opnd_fits (a := a) (by simp_all)
  show 0x40000005 + s.toNat * 2147483648 + d.code * 262144 + a.code * 2048 < 2 ^ 32
  omega
theorem voteBallot (s : Bool) (d : Dst) (a : Opnd) : Statement (.voteBallot s d a) := by
  intro h
  replace h : (d.wf && a.wf : Bool) = true := h
  simp only [Bool.and_eq_true] at h
  have := bool_fits s
  have := dst_fits (d := d) (by simp_all)
  have := opnd_fits (a := a) (by simp_all)
  show 0x40000006 + s.toNat * 2147483648 + d.code * 262144 + a.code * 2048 < 2 ^ 32
  omega
theorem wredIadd (s : Bool) (d : Dst) (a : Opnd) : Statement (.wredIadd s d a) := by
  intro h
  replace h : (d.wf && a.wf : Bool) = true := h
  simp only [Bool.and_eq_true] at h
  have := bool_fits s
  have := dst_fits (d := d) (by simp_all)
  have := opnd_fits (a := a) (by simp_all)
  show 0x40000007 + s.toNat * 2147483648 + d.code * 262144 + a.code * 2048 < 2 ^ 32
  omega
theorem wredImax (s : Bool) (d : Dst) (a : Opnd) : Statement (.wredImax s d a) := by
  intro h
  replace h : (d.wf && a.wf : Bool) = true := h
  simp only [Bool.and_eq_true] at h
  have := bool_fits s
  have := dst_fits (d := d) (by simp_all)
  have := opnd_fits (a := a) (by simp_all)
  show 0x40000008 + s.toNat * 2147483648 + d.code * 262144 + a.code * 2048 < 2 ^ 32
  omega
theorem wredFadd (s : Bool) (d : Dst) (a : Opnd) : Statement (.wredFadd s d a) := by
  intro h
  replace h : (d.wf && a.wf : Bool) = true := h
  simp only [Bool.and_eq_true] at h
  have := bool_fits s
  have := dst_fits (d := d) (by simp_all)
  have := opnd_fits (a := a) (by simp_all)
  show 0x40000009 + s.toNat * 2147483648 + d.code * 262144 + a.code * 2048 < 2 ^ 32
  omega
theorem wscanIadd (s : Bool) (d : Dst) (a : Opnd) : Statement (.wscanIadd s d a) := by
  intro h
  replace h : (d.wf && a.wf : Bool) = true := h
  simp only [Bool.and_eq_true] at h
  have := bool_fits s
  have := dst_fits (d := d) (by simp_all)
  have := opnd_fits (a := a) (by simp_all)
  show 0x4000000a + s.toNat * 2147483648 + d.code * 262144 + a.code * 2048 < 2 ^ 32
  omega
theorem wmatch (s : Bool) (d : Dst) (a : Opnd) : Statement (.wmatch s d a) := by
  intro h
  replace h : (d.wf && a.wf : Bool) = true := h
  simp only [Bool.and_eq_true] at h
  have := bool_fits s
  have := dst_fits (d := d) (by simp_all)
  have := opnd_fits (a := a) (by simp_all)
  show 0x4000000b + s.toNat * 2147483648 + d.code * 262144 + a.code * 2048 < 2 ^ 32
  omega
theorem ld (s : Bool) (d : Dst) (b : Opnd) (c : Scope) (z : Size) (o : MemOrder) (pol : CPol) : Statement (.ld s d b c z o pol) := by
  intro h
  replace h : (d.wf && b.wf && (o ≠ .plain || c = .wave) : Bool) = true := h
  simp only [Bool.and_eq_true] at h
  have := bool_fits s
  have := dst_fits (d := d) (by simp_all)
  have := opnd_fits (a := b) (by simp_all)
  have := scope_fits c
  have := size_fits z
  have := order_fits o
  have := pol_fits pol
  show 0x42000000 + s.toNat * 2147483648 + d.code * 262144 + b.code * 2048 + c.code * 256 + z.code * 32 + o.code * 8 + pol.code < 2 ^ 32
  omega
theorem st (s : Bool) (d : Opnd) (b : Opnd) (c : Scope) (z : Size) (o : MemOrder) (pol : CPol) : Statement (.st s d b c z o pol) := by
  intro h
  replace h : (d.wf && b.wf && (o ≠ .plain || c = .wave) && z.storable : Bool) = true := h
  simp only [Bool.and_eq_true] at h
  have := bool_fits s
  have := opnd_fits (a := d) (by simp_all)
  have := opnd_fits (a := b) (by simp_all)
  have := scope_fits c
  have := size_fits z
  have := order_fits o
  have := pol_fits pol
  show 0x44000000 + s.toNat * 2147483648 + d.code * 262144 + b.code * 2048 + c.code * 256 + z.code * 32 + o.code * 8 + pol.code < 2 ^ 32
  omega
theorem lds (s : Bool) (d : Dst) (b : Opnd) (c : Scope) (z : Size) (o : MemOrder) : Statement (.lds s d b c z o) := by
  intro h
  replace h : (d.wf && b.wf && (o ≠ .plain || c = .wave) && c.code ≤ 2 : Bool) = true := h
  simp only [Bool.and_eq_true, decide_eq_true_eq] at h
  have := bool_fits s
  have := dst_fits (d := d) (by simp_all)
  have := opnd_fits (a := b) (by simp_all)
  have := scope_fits c
  have := size_fits z
  have := order_fits o
  show 0x46000000 + s.toNat * 2147483648 + d.code * 262144 + b.code * 2048 + c.code * 256 + z.code * 32 + o.code * 8 < 2 ^ 32
  omega
theorem sts (s : Bool) (d : Opnd) (b : Opnd) (c : Scope) (z : Size) (o : MemOrder) : Statement (.sts s d b c z o) := by
  intro h
  replace h : (d.wf && b.wf && (o ≠ .plain || c = .wave) && z.storable && c.code ≤ 2 : Bool) = true := h
  simp only [Bool.and_eq_true, decide_eq_true_eq] at h
  have := bool_fits s
  have := opnd_fits (a := d) (by simp_all)
  have := opnd_fits (a := b) (by simp_all)
  have := scope_fits c
  have := size_fits z
  have := order_fits o
  show 0x48000000 + s.toNat * 2147483648 + d.code * 262144 + b.code * 2048 + c.code * 256 + z.code * 32 + o.code * 8 < 2 ^ 32
  omega
theorem ldm (s : Bool) (d : Dst) (b : Opnd) (n : Nat) (scr : Bool) (pol : CPol) : Statement (.ldm s d b n scr pol) := by
  intro h
  replace h : (d.wf && b.wf && (1 ≤ n && n ≤ 16) && (!scr || pol = .dflt) : Bool) = true := h
  simp only [Bool.and_eq_true, decide_eq_true_eq] at h
  have := bool_fits s
  have := dst_fits (d := d) (by simp_all)
  have := opnd_fits (a := b) (by simp_all)
  have := bool_fits scr
  have := pol_fits pol
  show 0x4a000000 + s.toNat * 2147483648 + d.code * 262144 + b.code * 2048 + (n - 1) * 128 + scr.toNat * 64 + pol.code < 2 ^ 32
  omega
theorem stm (s : Bool) (d : Opnd) (b : Opnd) (n : Nat) (scr : Bool) (pol : CPol) : Statement (.stm s d b n scr pol) := by
  intro h
  replace h : (d.wf && b.wf && (1 ≤ n && n ≤ 16) && (!scr || pol = .dflt) : Bool) = true := h
  simp only [Bool.and_eq_true, decide_eq_true_eq] at h
  have := bool_fits s
  have := opnd_fits (a := d) (by simp_all)
  have := opnd_fits (a := b) (by simp_all)
  have := bool_fits scr
  have := pol_fits pol
  show 0x4c000000 + s.toNat * 2147483648 + d.code * 262144 + b.code * 2048 + (n - 1) * 128 + scr.toNat * 64 + pol.code < 2 ^ 32
  omega
theorem ldc (s : Bool) (d : Dst) (b : Opnd) (r : Nat) (z : Size) : Statement (.ldc s d b r z) := by
  intro h
  replace h : (d.wf && b.wf && (1 ≤ r && r < 16) : Bool) = true := h
  simp only [Bool.and_eq_true, decide_eq_true_eq] at h
  have := bool_fits s
  have := dst_fits (d := d) (by simp_all)
  have := opnd_fits (a := b) (by simp_all)
  have := size_fits z
  show 0x4e000000 + s.toNat * 2147483648 + d.code * 262144 + b.code * 2048 + r * 128 + z.code * 16 < 2 ^ 32
  omega
theorem pref (s : Bool) (a : Opnd) : Statement (.pref s a) := by
  intro h
  replace h : (a.wf : Bool) = true := h
  have := bool_fits s
  have := opnd_fits (a := a) (by simp_all)
  show 0x50000000 + s.toNat * 2147483648 + a.code * 2048 < 2 ^ 32
  omega
theorem clock (s : Bool) (d : Dst) (a : Opnd) : Statement (.clock s d a) := by
  intro h
  replace h : (d.wf && a.wf : Bool) = true := h
  simp only [Bool.and_eq_true] at h
  have := bool_fits s
  have := dst_fits (d := d) (by simp_all)
  have := opnd_fits (a := a) (by simp_all)
  show 0x50000001 + s.toNat * 2147483648 + d.code * 262144 + a.code * 2048 < 2 ^ 32
  omega
theorem cunlock (s : Bool) (a : Opnd) : Statement (.cunlock s a) := by
  intro h
  replace h : (a.wf : Bool) = true := h
  have := bool_fits s
  have := opnd_fits (a := a) (by simp_all)
  show 0x50000002 + s.toNat * 2147483648 + a.code * 2048 < 2 ^ 32
  omega
theorem cflush (s : Bool) (a : Opnd) : Statement (.cflush s a) := by
  intro h
  replace h : (a.wf : Bool) = true := h
  have := bool_fits s
  have := opnd_fits (a := a) (by simp_all)
  show 0x50000003 + s.toNat * 2147483648 + a.code * 2048 < 2 ^ 32
  omega
theorem cclean (s : Bool) (a : Opnd) : Statement (.cclean s a) := by
  intro h
  replace h : (a.wf : Bool) = true := h
  have := bool_fits s
  have := opnd_fits (a := a) (by simp_all)
  show 0x50000004 + s.toNat * 2147483648 + a.code * 2048 < 2 ^ 32
  omega
theorem atom (d : Dst) (b : Opnd) (a : Opnd) (op : AtomOp) : Statement (.atom d b a op) := by
  intro h
  replace h : (d.wf && b.wf && a.wf : Bool) = true := h
  simp only [Bool.and_eq_true] at h
  have := dst_fits (d := d) (by simp_all)
  have := opnd_fits (a := b) (by simp_all)
  have := opnd_fits (a := a) (by simp_all)
  have := atom_fits op
  show 0xd2000000 + d.code * 262144 + b.code * 2048 + a.code * 16 + op.code < 2 ^ 32
  omega
theorem red (b : Opnd) (a : Opnd) (op : AtomOp) : Statement (.red b a op) := by
  intro h
  replace h : (b.wf && a.wf : Bool) = true := h
  simp only [Bool.and_eq_true] at h
  have := opnd_fits (a := b) (by simp_all)
  have := opnd_fits (a := a) (by simp_all)
  have := atom_fits op
  show 0xd4000000 + b.code * 2048 + a.code * 16 + op.code < 2 ^ 32
  omega
theorem cas (d : Dst) (b : Opnd) (a : Opnd) : Statement (.cas d b a) := by
  intro h
  replace h : (d.wf && b.wf && a.wf : Bool) = true := h
  simp only [Bool.and_eq_true] at h
  have := dst_fits (d := d) (by simp_all)
  have := opnd_fits (a := b) (by simp_all)
  have := opnd_fits (a := a) (by simp_all)
  show 0xd6000000 + d.code * 262144 + b.code * 2048 + a.code * 16 < 2 ^ 32
  omega
theorem cas64 (d : Dst) (b : Opnd) (a : Opnd) : Statement (.cas64 d b a) := by
  intro h
  replace h : (d.wf && b.wf && a.wf : Bool) = true := h
  simp only [Bool.and_eq_true] at h
  have := dst_fits (d := d) (by simp_all)
  have := opnd_fits (a := b) (by simp_all)
  have := opnd_fits (a := a) (by simp_all)
  show 0xd6000001 + d.code * 262144 + b.code * 2048 + a.code * 16 < 2 ^ 32
  omega
theorem fenceAcq (s : Bool) (c : Scope) : Statement (.fenceAcq s c) := by
  intro _
  have := bool_fits s
  have := scope_fits c
  show 0x58000000 + s.toNat * 2147483648 + c.code * 16 < 2 ^ 32
  omega
theorem fenceRel (c : Scope) : Statement (.fenceRel c) := by
  intro _
  have := scope_fits c
  show 0xd8000001 + c.code * 16 < 2 ^ 32
  omega
theorem fenceAcqrel (c : Scope) : Statement (.fenceAcqrel c) := by
  intro _
  have := scope_fits c
  show 0xd8000002 + c.code * 16 < 2 ^ 32
  omega
theorem fenceSc (c : Scope) : Statement (.fenceSc c) := by
  intro _
  have := scope_fits c
  show 0xd8000003 + c.code * 16 < 2 ^ 32
  omega
theorem qfence (m : BitVec 4) : Statement (.qfence m) := by
  intro h
  replace h : (m ≠ 0 : Bool) = true := h
  simp only [decide_eq_true_eq] at h
  have := m.isLt
  show 0xda000000 + m.toNat * 16 < 2 ^ 32
  omega
theorem ctradd (b : Opnd) (a : Opnd) (rel : Bool) (c : Scope) : Statement (.ctradd b a rel c) := by
  intro h
  replace h : (b.wf && a.wf && (rel || c = .wave) : Bool) = true := h
  simp only [Bool.and_eq_true] at h
  have := opnd_fits (a := b) (by simp_all)
  have := opnd_fits (a := a) (by simp_all)
  have := bool_fits rel
  have := scope_fits c
  show 0xdc000000 + b.code * 2048 + a.code * 16 + rel.toNat * 8 + c.code < 2 ^ 32
  omega
theorem ctrread (s : Bool) (d : Dst) (b : Opnd) (c : Scope) (o : Bool) : Statement (.ctrread s d b c o) := by
  intro h
  replace h : (d.wf && b.wf && (o || c = .wave) : Bool) = true := h
  simp only [Bool.and_eq_true] at h
  have := bool_fits s
  have := dst_fits (d := d) (by simp_all)
  have := opnd_fits (a := b) (by simp_all)
  have := scope_fits c
  have := bool_fits o
  show 0x5e000060 + s.toNat * 2147483648 + d.code * 262144 + b.code * 2048 + c.code * 256 + o.toNat * 8 < 2 ^ 32
  omega
theorem txbegin (s : Bool) (disp : BitVec 18) : Statement (.txbegin s disp) := by
  intro _
  have := bool_fits s
  have := disp.isLt
  show 0x60000000 + s.toNat * 2147483648 + disp.toNat < 2 ^ 32
  omega
theorem orelse (s : Bool) (disp : BitVec 18) : Statement (.orelse s disp) := by
  intro _
  have := bool_fits s
  have := disp.isLt
  show 0x62000000 + s.toNat * 2147483648 + disp.toNat < 2 ^ 32
  omega
theorem txend : Statement (.txend) := by
  intro _
  show 0xe4000000 < 2 ^ 32
  decide
theorem retry : Statement (.retry) := by
  intro _
  show 0xe4000001 < 2 ^ 32
  decide
theorem txabort (a : Opnd) : Statement (.txabort a) := by
  intro h
  replace h : (a.wf : Bool) = true := h
  have := opnd_fits (a := a) (by simp_all)
  show 0xe4000002 + a.code * 2048 < 2 ^ 32
  omega
theorem txstat (s : Bool) (d : Dst) : Statement (.txstat s d) := by
  intro h
  replace h : (d.wf : Bool) = true := h
  have := bool_fits s
  have := dst_fits (d := d) (by simp_all)
  show 0x64000003 + s.toNat * 2147483648 + d.code * 262144 < 2 ^ 32
  omega
theorem copy (dt : Nat) (sl : Nat) (c : Opnd) (y : Opnd) (k : Bool) : Statement (.copy dt sl c y k) := by
  intro h
  replace h : (dt < 32 && sl < 32 && c.wf && y.wf : Bool) = true := h
  simp only [Bool.and_eq_true, decide_eq_true_eq] at h
  have := opnd_fits (a := c) (by simp_all)
  have := opnd_fits (a := y) (by simp_all)
  have := bool_fits k
  show 0xe6000000 + dt * 1048576 + sl * 32768 + c.code * 256 + y.code * 2 + k.toNat < 2 ^ 32
  omega
theorem gather (dt : Nat) (sl : Nat) (c : Opnd) (y : Opnd) (k : Bool) : Statement (.gather dt sl c y k) := by
  intro h
  replace h : (dt < 32 && sl < 32 && c.wf && y.wf : Bool) = true := h
  simp only [Bool.and_eq_true, decide_eq_true_eq] at h
  have := opnd_fits (a := c) (by simp_all)
  have := opnd_fits (a := y) (by simp_all)
  have := bool_fits k
  show 0xe8000000 + dt * 1048576 + sl * 32768 + c.code * 256 + y.code * 2 + k.toNat < 2 ^ 32
  omega
theorem scatter (dt : Nat) (sl : Nat) (c : Opnd) (y : Opnd) (k : Bool) : Statement (.scatter dt sl c y k) := by
  intro h
  replace h : (dt < 32 && sl < 32 && c.wf && y.wf : Bool) = true := h
  simp only [Bool.and_eq_true, decide_eq_true_eq] at h
  have := opnd_fits (a := c) (by simp_all)
  have := opnd_fits (a := y) (by simp_all)
  have := bool_fits k
  show 0xea000000 + dt * 1048576 + sl * 32768 + c.code * 256 + y.code * 2 + k.toNat < 2 ^ 32
  omega
theorem combine (dt : Nat) (sl : Nat) (c : Opnd) (y : Opnd) (k : Bool) : Statement (.combine dt sl c y k) := by
  intro h
  replace h : (dt < 32 && sl < 32 && c.wf && y.wf : Bool) = true := h
  simp only [Bool.and_eq_true, decide_eq_true_eq] at h
  have := opnd_fits (a := c) (by simp_all)
  have := opnd_fits (a := y) (by simp_all)
  have := bool_fits k
  show 0xec000000 + dt * 1048576 + sl * 32768 + c.code * 256 + y.code * 2 + k.toNat < 2 ^ 32
  omega
theorem rinit (a : Opnd) (b : Opnd) : Statement (.rinit a b) := by
  intro h
  replace h : (a.wf && b.wf : Bool) = true := h
  simp only [Bool.and_eq_true] at h
  have := opnd_fits (a := a) (by simp_all)
  have := opnd_fits (a := b) (by simp_all)
  show 0xee000000 + a.code * 2048 + b.code * 16 < 2 ^ 32
  omega
theorem rfill (s : Bool) (d : Dst) (a : Opnd) : Statement (.rfill s d a) := by
  intro h
  replace h : (d.wf && a.wf : Bool) = true := h
  simp only [Bool.and_eq_true] at h
  have := bool_fits s
  have := dst_fits (d := d) (by simp_all)
  have := opnd_fits (a := a) (by simp_all)
  show 0x6e000001 + s.toNat * 2147483648 + d.code * 262144 + a.code * 2048 < 2 ^ 32
  omega
theorem rfree (a : Opnd) (b : Opnd) : Statement (.rfree a b) := by
  intro h
  replace h : (a.wf && b.wf : Bool) = true := h
  simp only [Bool.and_eq_true] at h
  have := opnd_fits (a := a) (by simp_all)
  have := opnd_fits (a := b) (by simp_all)
  show 0xee000002 + a.code * 2048 + b.code * 16 < 2 ^ 32
  omega
theorem rspace (s : Bool) (d : Dst) (a : Opnd) : Statement (.rspace s d a) := by
  intro h
  replace h : (d.wf && a.wf : Bool) = true := h
  simp only [Bool.and_eq_true] at h
  have := bool_fits s
  have := dst_fits (d := d) (by simp_all)
  have := opnd_fits (a := a) (by simp_all)
  show 0x6e000003 + s.toNat * 2147483648 + d.code * 262144 + a.code * 2048 < 2 ^ 32
  omega
theorem rstat (s : Bool) (d : Dst) (a : Opnd) : Statement (.rstat s d a) := by
  intro h
  replace h : (d.wf && a.wf : Bool) = true := h
  simp only [Bool.and_eq_true] at h
  have := bool_fits s
  have := dst_fits (d := d) (by simp_all)
  have := opnd_fits (a := a) (by simp_all)
  show 0x6e000004 + s.toNat * 2147483648 + d.code * 262144 + a.code * 2048 < 2 ^ 32
  omega
theorem launch (a : Opnd) : Statement (.launch a) := by
  intro h
  replace h : (a.wf : Bool) = true := h
  have := opnd_fits (a := a) (by simp_all)
  show 0xf0000000 + a.code * 2048 < 2 ^ 32
  omega
theorem mmul (bank : Nat) (x : Nat) (y : Nat) (p : Opnd) (pair : Bool) : Statement (.mmul bank x y p pair) := by
  intro h
  replace h : (bank < 4 && x < 32 && y < 32 && p.wf : Bool) = true := h
  simp only [Bool.and_eq_true, decide_eq_true_eq] at h
  have := opnd_fits (a := p) (by simp_all)
  have := bool_fits pair
  show 0xf2000000 + bank * 8388608 + x * 262144 + y * 8192 + p.code * 64 + pair.toNat * 2 < 2 ^ 32
  omega
theorem mstat (x : Nat) (p : Opnd) : Statement (.mstat x p) := by
  intro h
  replace h : (x < 32 && p.wf : Bool) = true := h
  simp only [Bool.and_eq_true, decide_eq_true_eq] at h
  have := opnd_fits (a := p) (by simp_all)
  show 0xf2000008 + x * 262144 + p.code * 64 < 2 ^ 32
  omega
theorem mstream (bank : Nat) (x : Nat) (p : Opnd) (pair : Bool) (swapf : Bool) : Statement (.mstream bank x p pair swapf) := by
  intro h
  replace h : (bank < 4 && x < 32 && p.wf : Bool) = true := h
  simp only [Bool.and_eq_true, decide_eq_true_eq] at h
  have := opnd_fits (a := p) (by simp_all)
  have := bool_fits pair
  have := bool_fits swapf
  show 0xf2000010 + bank * 8388608 + x * 262144 + p.code * 64 + pair.toNat * 2 + swapf.toNat < 2 ^ 32
  omega
theorem mdrain (s : Bool) (bank : Nat) (x : Nat) (p : Opnd) (m : DrainMode) : Statement (.mdrain s bank x p m) := by
  intro h
  replace h : (bank < 4 && x < 32 && p.wf : Bool) = true := h
  simp only [Bool.and_eq_true, decide_eq_true_eq] at h
  have := bool_fits s
  have := opnd_fits (a := p) (by simp_all)
  have := drain_fits m
  show 0x72000018 + s.toNat * 2147483648 + bank * 8388608 + x * 262144 + p.code * 64 + m.code < 2 ^ 32
  omega
theorem mzero (s : Bool) (bank : Nat) (p : Opnd) : Statement (.mzero s bank p) := by
  intro h
  replace h : (bank < 4 && p.wf : Bool) = true := h
  simp only [Bool.and_eq_true, decide_eq_true_eq] at h
  have := bool_fits s
  have := opnd_fits (a := p) (by simp_all)
  show 0x72000020 + s.toNat * 2147483648 + bank * 8388608 + p.code * 64 < 2 ^ 32
  omega
theorem ttset (s : Bool) (a : Opnd) (n : Nat) : Statement (.ttset s a n) := by
  intro h
  replace h : (a.wf && n < 32 : Bool) = true := h
  simp only [Bool.and_eq_true, decide_eq_true_eq] at h
  have := bool_fits s
  have := opnd_fits (a := a) (by simp_all)
  show 0x74000000 + s.toNat * 2147483648 + a.code * 2048 + n * 16 < 2 ^ 32
  omega
theorem ttget (s : Bool) (d : Dst) (n : Nat) : Statement (.ttget s d n) := by
  intro h
  replace h : (d.wf && n < 32 : Bool) = true := h
  simp only [Bool.and_eq_true, decide_eq_true_eq] at h
  have := bool_fits s
  have := dst_fits (d := d) (by simp_all)
  show 0x74000001 + s.toNat * 2147483648 + d.code * 262144 + n * 16 < 2 ^ 32
  omega
theorem ttclr (s : Bool) (n : Nat) : Statement (.ttclr s n) := by
  intro h
  replace h : (n < 32 : Bool) = true := h
  simp only [decide_eq_true_eq] at h
  have := bool_fits s
  show 0x74000002 + s.toNat * 2147483648 + n * 16 < 2 ^ 32
  omega
theorem markpush (a : Opnd) : Statement (.markpush a) := by
  intro h
  replace h : (a.wf : Bool) = true := h
  have := opnd_fits (a := a) (by simp_all)
  show 0xf6000000 + a.code * 2048 < 2 ^ 32
  omega
theorem markpop : Statement (.markpop) := by
  intro _
  show 0xf6000001 < 2 ^ 32
  decide
theorem markevt (a : Opnd) (b : Opnd) : Statement (.markevt a b) := by
  intro h
  replace h : (a.wf && b.wf : Bool) = true := h
  simp only [Bool.and_eq_true] at h
  have := opnd_fits (a := a) (by simp_all)
  have := opnd_fits (a := b) (by simp_all)
  show 0xf6000002 + a.code * 2048 + b.code * 16 < 2 ^ 32
  omega
theorem markstat (d : Dst) : Statement (.markstat d) := by
  intro h
  replace h : (d.wf : Bool) = true := h
  have := dst_fits (d := d) (by simp_all)
  show 0xf6000003 + d.code * 262144 < 2 ^ 32
  omega
theorem glomerWord (w : BitVec 64) : Statement (.glomerWord w) := by intro _; exact Nat.two_pow_pos 32
theorem headerTake (die : Nat) (queue : Nat) : Statement (.headerTake die queue) := by intro _; exact Nat.two_pow_pos 32
theorem launchIntake (die : Nat) : Statement (.launchIntake die) := by intro _; exact Nat.two_pow_pos 32
theorem trainArrival (die : Nat) : Statement (.trainArrival die) := by intro _; exact Nat.two_pow_pos 32
theorem trainAdmit (die : Nat) : Statement (.trainAdmit die) := by intro _; exact Nat.two_pow_pos 32
theorem scratchZeroingDone (die : Nat) (core : Nat) (gslot : Nat) : Statement (.scratchZeroingDone die core gslot) := by intro _; exact Nat.two_pow_pos 32
theorem preemptStart (die : Nat) : Statement (.preemptStart die) := by intro _; exact Nat.two_pow_pos 32
theorem preemptStopComplete (die : Nat) (train : Nat) : Statement (.preemptStopComplete die train) := by intro _; exact Nat.two_pow_pos 32
theorem contextSaveComplete (die : Nat) (train : Nat) : Statement (.contextSaveComplete die train) := by intro _; exact Nat.two_pow_pos 32
theorem trainEnd (die : Nat) (train : Nat) : Statement (.trainEnd die train) := by intro _; exact Nat.two_pow_pos 32
theorem trainEndReport (die : Nat) : Statement (.trainEndReport die) := by intro _; exact Nat.two_pow_pos 32
theorem threadWaiting (die : Nat) (core : Nat) (slot : Nat) : Statement (.threadWaiting die core slot) := by intro _; exact Nat.two_pow_pos 32
theorem bundleSelect (die : Nat) (core : Nat) (bslot : Nat) : Statement (.bundleSelect die core bslot) := by intro _; exact Nat.two_pow_pos 32
theorem marionetteCompare (die : Nat) (core : Nat) (slot : Nat) : Statement (.marionetteCompare die core slot) := by intro _; exact Nat.two_pow_pos 32
theorem pageTableWalk (req : Nat) : Statement (.pageTableWalk req) := by intro _; exact Nat.two_pow_pos 32
theorem homeRequest (req : Nat) : Statement (.homeRequest req) := by intro _; exact Nat.two_pow_pos 32
theorem answerMoved (req : Nat) : Statement (.answerMoved req) := by intro _; exact Nat.two_pow_pos 32
theorem answerResetting (req : Nat) : Statement (.answerResetting req) := by intro _; exact Nat.two_pow_pos 32
theorem answerFault (req : Nat) : Statement (.answerFault req) := by intro _; exact Nat.two_pow_pos 32
theorem requestResend (req : Nat) : Statement (.requestResend req) := by intro _; exact Nat.two_pow_pos 32
theorem deferredRefusal (req : Nat) : Statement (.deferredRefusal req) := by intro _; exact Nat.two_pow_pos 32
theorem heldNotice (home : Nat) : Statement (.heldNotice home) := by intro _; exact Nat.two_pow_pos 32
theorem publish (die : Nat) : Statement (.publish die) := by intro _; exact Nat.two_pow_pos 32
theorem publishConfirm (req : Nat) : Statement (.publishConfirm req) := by intro _; exact Nat.two_pow_pos 32
theorem widenAnswer (req : Nat) : Statement (.widenAnswer req) := by intro _; exact Nat.two_pow_pos 32
theorem faultQueueEntry (die : Nat) : Statement (.faultQueueEntry die) := by intro _; exact Nat.two_pow_pos 32
theorem trapRecordWrite (die : Nat) : Statement (.trapRecordWrite die) := by intro _; exact Nat.two_pow_pos 32
theorem exitRecordWrite (die : Nat) : Statement (.exitRecordWrite die) := by intro _; exact Nat.two_pow_pos 32
theorem matrixEntryFront (die : Nat) (quad : Nat) (entry : Nat) : Statement (.matrixEntryFront die quad entry) := by intro _; exact Nat.two_pow_pos 32
theorem arbiterGrant (die : Nat) (quad : Nat) : Statement (.arbiterGrant die quad) := by intro _; exact Nat.two_pow_pos 32
theorem passEnd (die : Nat) (quad : Nat) : Statement (.passEnd die quad) := by intro _; exact Nat.two_pow_pos 32
theorem pairedHoldTimeout (die : Nat) (quad : Nat) : Statement (.pairedHoldTimeout die quad) := by intro _; exact Nat.two_pow_pos 32
theorem mstatPerform (die : Nat) (quad : Nat) (entry : Nat) : Statement (.mstatPerform die quad entry) := by intro _; exact Nat.two_pow_pos 32
theorem mdrainPerform (die : Nat) (quad : Nat) (entry : Nat) : Statement (.mdrainPerform die quad entry) := by intro _; exact Nat.two_pow_pos 32
theorem mzeroPerform (die : Nat) (quad : Nat) (entry : Nat) : Statement (.mzeroPerform die quad entry) := by intro _; exact Nat.two_pow_pos 32
theorem operandFetchStop (die : Nat) (quad : Nat) (entry : Nat) : Statement (.operandFetchStop die quad entry) := by intro _; exact Nat.two_pow_pos 32
theorem streamerEntryStart (die : Nat) (quad : Nat) : Statement (.streamerEntryStart die quad) := by intro _; exact Nat.two_pow_pos 32
theorem copyGranule (die : Nat) (quad : Nat) (crc : Crc) : Statement (.copyGranule die quad crc) := by intro _; exact Nat.two_pow_pos 32
theorem copyFault (die : Nat) (quad : Nat) (crc : Crc) : Statement (.copyFault die quad crc) := by intro _; exact Nat.two_pow_pos 32
theorem copySync (die : Nat) (quad : Nat) : Statement (.copySync die quad) := by intro _; exact Nat.two_pow_pos 32
theorem combineContribution (ioDie : Nat) : Statement (.combineContribution ioDie) := by intro _; exact Nat.two_pow_pos 32
theorem combineEntryTimeout (ioDie : Nat) (vas : Nat) (key : Nat) : Statement (.combineEntryTimeout ioDie vas key) := by intro _; exact Nat.two_pow_pos 32
theorem combineResend (die : Nat) (quad : Nat) : Statement (.combineResend die quad) := by intro _; exact Nat.two_pow_pos 32
theorem combineCounterAdd (die : Nat) (quad : Nat) : Statement (.combineCounterAdd die quad) := by intro _; exact Nat.two_pow_pos 32
theorem conflictNotice (die : Nat) : Statement (.conflictNotice die) := by intro _; exact Nat.two_pow_pos 32
theorem wakeMessage (die : Nat) : Statement (.wakeMessage die) := by intro _; exact Nat.two_pow_pos 32
theorem solitaryTokenGrant (die : Nat) : Statement (.solitaryTokenGrant die) := by intro _; exact Nat.two_pow_pos 32
theorem tokenTimeout (die : Nat) : Statement (.tokenTimeout die) := by intro _; exact Nat.two_pow_pos 32
theorem linkCrcError (link : Nat) : Statement (.linkCrcError link) := by intro _; exact Nat.two_pow_pos 32
theorem linkReplay (link : Nat) (good : Bool) : Statement (.linkReplay link good) := by intro _; exact Nat.two_pow_pos 32
theorem bridleSend (die : Nat) : Statement (.bridleSend die) := by intro _; exact Nat.two_pow_pos 32
theorem bridleReceive (die : Nat) : Statement (.bridleReceive die) := by intro _; exact Nat.two_pow_pos 32
theorem sequencerMulticast (die : Nat) : Statement (.sequencerMulticast die) := by intro _; exact Nat.two_pow_pos 32
theorem kmsg (die : Nat) : Statement (.kmsg die) := by intro _; exact Nat.two_pow_pos 32
theorem map (die : Nat) : Statement (.map die) := by intro _; exact Nat.two_pow_pos 32
theorem revoke (die : Nat) : Statement (.revoke die) := by intro _; exact Nat.two_pow_pos 32
theorem ack (die : Nat) : Statement (.ack die) := by intro _; exact Nat.two_pow_pos 32
theorem commit (die : Nat) : Statement (.commit die) := by intro _; exact Nat.two_pow_pos 32
theorem notice (die : Nat) : Statement (.notice die) := by intro _; exact Nat.two_pow_pos 32
theorem fqhead (die : Nat) (value : Nat) : Statement (.fqhead die value) := by intro _; exact Nat.two_pow_pos 32
theorem bstail (die : Nat) (value : Nat) : Statement (.bstail die value) := by intro _; exact Nat.two_pow_pos 32
theorem brhead (die : Nat) (value : Nat) : Statement (.brhead die value) := by intro _; exact Nat.two_pow_pos 32
theorem cause (die : Nat) (value : Nat) : Statement (.cause die value) := by intro _; exact Nat.two_pow_pos 32
theorem controlRegisterWrite (die : Nat) (offset : Nat) (value : Nat) : Statement (.controlRegisterWrite die offset value) := by intro _; exact Nat.two_pow_pos 32
theorem queueRegister (die : Nat) (qctl : Nat) : Statement (.queueRegister die qctl) := by intro _; exact Nat.two_pow_pos 32
theorem queueHalt (die : Nat) (qctl : Nat) : Statement (.queueHalt die qctl) := by intro _; exact Nat.two_pow_pos 32
theorem queueRun (die : Nat) (qctl : Nat) : Statement (.queueRun die qctl) := by intro _; exact Nat.two_pow_pos 32
theorem queueUnregister (die : Nat) (qctl : Nat) : Statement (.queueUnregister die qctl) := by intro _; exact Nat.two_pow_pos 32
theorem crtail (die : Nat) (ring : Nat) (value : Nat) : Statement (.crtail die ring value) := by intro _; exact Nat.two_pow_pos 32
theorem descVaToVa (die : Nat) (ring : Nat) : Statement (.descVaToVa die ring) := by intro _; exact Nat.two_pow_pos 32
theorem descVaToHost (die : Nat) (ring : Nat) : Statement (.descVaToHost die ring) := by intro _; exact Nat.two_pow_pos 32
theorem descHostToVa (die : Nat) (ring : Nat) : Statement (.descHostToVa die ring) := by intro _; exact Nat.two_pow_pos 32
theorem descVaToSpar (die : Nat) (ring : Nat) : Statement (.descVaToSpar die ring) := by intro _; exact Nat.two_pow_pos 32
theorem descFrame (die : Nat) (ring : Nat) : Statement (.descFrame die ring) := by intro _; exact Nat.two_pow_pos 32
theorem descZero (die : Nat) (ring : Nat) : Statement (.descZero die ring) := by intro _; exact Nat.two_pow_pos 32
theorem descriptorEnd (die : Nat) (ring : Nat) : Statement (.descriptorEnd die ring) := by intro _; exact Nat.two_pow_pos 32
theorem resume (die : Nat) : Statement (.resume die) := by intro _; exact Nat.two_pow_pos 32
theorem killThread (die : Nat) : Statement (.killThread die) := by intro _; exact Nat.two_pow_pos 32
theorem killGroup (die : Nat) : Statement (.killGroup die) := by intro _; exact Nat.two_pow_pos 32
theorem faultFlight (die : Nat) : Statement (.faultFlight die) := by intro _; exact Nat.two_pow_pos 32
theorem checkpoint (die : Nat) : Statement (.checkpoint die) := by intro _; exact Nat.two_pow_pos 32
theorem retryfault (die : Nat) : Statement (.retryfault die) := by intro _; exact Nat.two_pow_pos 32
theorem failfault (die : Nat) : Statement (.failfault die) := by intro _; exact Nat.two_pow_pos 32
theorem pcreate (src : Nat) : Statement (.pcreate src) := by intro _; exact Nat.two_pow_pos 32
theorem passign (src : Nat) : Statement (.passign src) := by intro _; exact Nat.two_pow_pos 32
theorem prelease (src : Nat) : Statement (.prelease src) := by intro _; exact Nat.two_pow_pos 32
theorem keyload (src : Nat) : Statement (.keyload src) := by intro _; exact Nat.two_pow_pos 32
theorem attest (src : Nat) : Statement (.attest src) := by intro _; exact Nat.two_pow_pos 32
theorem verify (src : Nat) : Statement (.verify src) := by intro _; exact Nat.two_pow_pos 32
theorem enroll (src : Nat) : Statement (.enroll src) := by intro _; exact Nat.two_pow_pos 32
theorem svnlock (src : Nat) : Statement (.svnlock src) := by intro _; exact Nat.two_pow_pos 32
theorem syscallEcho (req : Nat) : Statement (.syscallEcho req) := by intro _; exact Nat.two_pow_pos 32
theorem syscallQreg (req : Nat) : Statement (.syscallQreg req) := by intro _; exact Nat.two_pow_pos 32
theorem syscallQhalt (req : Nat) : Statement (.syscallQhalt req) := by intro _; exact Nat.two_pow_pos 32
theorem syscallMap (req : Nat) (frames : List Nat) : Statement (.syscallMap req frames) := by intro _; exact Nat.two_pow_pos 32
theorem syscallUnmap (req : Nat) : Statement (.syscallUnmap req) := by intro _; exact Nat.two_pow_pos 32
theorem syscallWindow (req : Nat) : Statement (.syscallWindow req) := by intro _; exact Nat.two_pow_pos 32
theorem traceOpen (req : Nat) : Statement (.traceOpen req) := by intro _; exact Nat.two_pow_pos 32
theorem traceStop (req : Nat) : Statement (.traceStop req) := by intro _; exact Nat.two_pow_pos 32
theorem traceStatus (req : Nat) : Statement (.traceStatus req) := by intro _; exact Nat.two_pow_pos 32
theorem traceClose (req : Nat) : Statement (.traceClose req) := by intro _; exact Nat.two_pow_pos 32
theorem traceRecordWrite (die : Nat) : Statement (.traceRecordWrite die) := by intro _; exact Nat.two_pow_pos 32
theorem sampleTimer (die : Nat) (core : Nat) : Statement (.sampleTimer die core) := by intro _; exact Nat.two_pow_pos 32
theorem passAdvance (die : Nat) : Statement (.passAdvance die) := by intro _; exact Nat.two_pow_pos 32
theorem pciePostedWrite (die : Nat) (rid : Nat) (fn : Nat) (offset : Nat) (data : List Byte) : Statement (.pciePostedWrite die rid fn offset data) := by intro _; exact Nat.two_pow_pos 32
theorem pcieFetchadd (die : Nat) (rid : Nat) (fn : Nat) (offset : Nat) (addend : Nat) : Statement (.pcieFetchadd die rid fn offset addend) := by intro _; exact Nat.two_pow_pos 32
theorem pcieUnsupportedAtomicop (die : Nat) (rid : Nat) (fn : Nat) (offset : Nat) : Statement (.pcieUnsupportedAtomicop die rid fn offset) := by intro _; exact Nat.two_pow_pos 32
theorem pcieMemoryRead (die : Nat) (rid : Nat) (fn : Nat) (offset : Nat) (len : Nat) : Statement (.pcieMemoryRead die rid fn offset len) := by intro _; exact Nat.two_pow_pos 32
theorem functionLevelReset (die : Nat) (fn : Nat) : Statement (.functionLevelReset die fn) := by intro _; exact Nat.two_pow_pos 32
theorem sparWrite (die : Nat) : Statement (.sparWrite die) := by intro _; exact Nat.two_pow_pos 32
theorem vauxGood (verified : Bool) : Statement (.vauxGood verified) := by intro _; exact Nat.two_pow_pos 32
theorem dieJoin (die : Nat) (passed : Bool) : Statement (.dieJoin die passed) := by intro _; exact Nat.two_pow_pos 32
theorem calibrationComplete (die : Nat) : Statement (.calibrationComplete die) := by intro _; exact Nat.two_pow_pos 32
theorem heartbeatTimeout (die : Nat) : Statement (.heartbeatTimeout die) := by intro _; exact Nat.two_pow_pos 32
theorem warmResetStart (die : Nat) : Statement (.warmResetStart die) := by intro _; exact Nat.two_pow_pos 32
theorem warmResetDrained (die : Nat) : Statement (.warmResetDrained die) := by intro _; exact Nat.two_pow_pos 32
theorem warmResetDrainTimeout (die : Nat) : Statement (.warmResetDrainTimeout die) := by intro _; exact Nat.two_pow_pos 32
theorem warmResetRejoin (die : Nat) : Statement (.warmResetRejoin die) := by intro _; exact Nat.two_pow_pos 32
theorem dieLoss (die : Nat) : Statement (.dieLoss die) := by intro _; exact Nat.two_pow_pos 32
theorem scrubLine (die : Nat) (pa : Nat) : Statement (.scrubLine die pa) := by intro _; exact Nat.two_pow_pos 32
theorem answerPerformed (req : Nat) : Statement (.answerPerformed req) := by intro _; exact Nat.two_pow_pos 32
theorem syscallAnswer (req : Nat) (value : Option Word) : Statement (.syscallAnswer req value) := by intro _; exact Nat.two_pow_pos 32
theorem dieLogicHang (die : Nat) : Statement (.dieLogicHang die) := by intro _; exact Nat.two_pow_pos 32
theorem dieKernelPreempt (die : Nat) (train : Nat) : Statement (.dieKernelPreempt die train) := by intro _; exact Nat.two_pow_pos 32
theorem routerReset (die : Nat) : Statement (.routerReset die) := by intro _; exact Nat.two_pow_pos 32
theorem cxlMemRequest (die : Nat) (addr : Nat) (write : Option (List Byte)) : Statement (.cxlMemRequest die addr write) := by intro _; exact Nat.two_pow_pos 32
theorem portModeChange (die : Nat) (cxl : Bool) : Statement (.portModeChange die cxl) := by intro _; exact Nat.two_pow_pos 32
theorem checkpointBufferComplete (die : Nat) : Statement (.checkpointBufferComplete die) := by intro _; exact Nat.two_pow_pos 32

end Sys2Proof.Laws.WordFits
end

