-- ==== Sys2Proof/Tests/Slice0.lean ====
section
/-! SUPPORT. Tests: ill-formed terms, decoding of words written out from the opcode table, steps on small states, and for the statements
states that meet their hypotheses. -/

namespace Sys2Proof.Tests

open Sys2Proof Sys2Proof.Machine Sys2Proof.Claims

-- One theorem at a time: the kernel's evaluations need no threads of their own.
set_option Elab.async false

/-! ### Ill-formed instructions -/

theorem smoke_registers :
    [Instr.iadd false (.reg 120) (.reg 1) (.reg 2), .iadd false (.reg 1) (.reg 120) (.reg 2), .iadd false (.reg 1) (.reg 2) (.win 0),
      .iadd false (.reg 1) (.reg 2) (.win 9), .call false .trans 0, .call false (.reg 121) 0].all (fun i => !i.wf) = true := by decide

theorem smoke_fields :
    [Instr.hintMod true (some .dflt) false false .rne, .hintPrio 4, .pblk (.reg 1) 0 0, .pblk (.reg 1) 9 0, .join false 8,
      .jset false 8 (.reg 1), .jget false (.reg 1) 8, .jleave false 8, .qfence 0, .ttset false (.reg 8) 32, .ttget false (.reg 8) 32,
      .ttclr false 32, .mmul 4 1 1 (.reg 2) false, .mmul 1 32 1 (.reg 2) false, .mmul 1 1 32 (.reg 2) false, .mstat 32 (.reg 2),
      .mstream 4 1 (.reg 2) false false, .mdrain false 1 32 (.reg 2) .acc, .mzero false 4 (.reg 2), .copy 32 1 (.reg 2) (.reg 3) false,
      .gather 1 32 (.reg 2) (.reg 3) false, .scatter 32 1 (.reg 2) (.reg 3) false, .combine 1 32 (.reg 4) (.reg 3) true].all
        (fun i => !i.wf) = true := by decide

theorem smoke_memory :
    [Instr.ldm false (.reg 1) (.reg 2) 0 false .dflt, .ldm false (.reg 1) (.reg 2) 17 false .dflt, .ldm false (.reg 1) (.reg 2) 2 true .nl1,
      .stm false (.reg 1) (.reg 2) 2 true .strm, .ldc false (.reg 1) (.reg 2) 0 .b32, .ldc false (.reg 1) (.reg 2) 16 .b32,
      .st false (.reg 1) (.reg 2) .wave .s8 .plain .dflt, .ld false (.reg 1) (.reg 2) .die .b32 .plain .dflt,
      .lds false (.reg 1) (.reg 2) .domain .b32 .acqRel, .sts false (.reg 1) (.reg 2) .wave .s16 .plain,
      .ctradd (.reg 2) (.reg 4) false .die].all (fun i => !i.wf) = true := by decide

/-! ### Words from the opcode table -/

/-- Control: each word has its row's fixed bits and its fields, low bit first, from the opcode table. -/
def wordsControl : List (Nat × Instr) :=
  [(0x00100005, .hintImm 0x100005#21),
   (0x00600005, .hintOff 0x200005#22),
   (0x0080009D, .hintMod true (some .nl1) true true .rz),
   (0x00C00001, .hintPrio 1),
   (0x02408080, .pblk (.reg 16) 2 0x01#8),
   (0x84020005, .bra true 0x20005#18),
   (0x86420005, .brz true (.reg 16) 0x20005#18),
   (0x88420005, .brnz true (.reg 16) 0x20005#18),
   (0x8A420005, .call true (.reg 16) 0x20005#18),
   (0x8C008000, .brx true (.reg 16)),
   (0x8C008001, .ret true (.reg 16)),
   (0x8C208002, .callx true (.reg 8) (.reg 16))] ++
  [(0x8E000000, .nop true),
   (0x8E000001, .exit true),
   (0x8E008002, .trap true (.reg 16)),
   (0x8E208183, .syscall (.reg 8) (.reg 16) (.reg 24)),
   (0x8E000004, .bkpt true),
   (0x8E000005, .iflush),
   (0x90000800, .join true 1),
   (0x90000981, .jset true 1 (.reg 24)),
   (0x90200802, .jget true (.reg 8) 1),
   (0x90000803, .jleave true 1),
   (0x92200800, .sread true (.reg 8) .waveIx),
   (0x92020981, .swrite true .ftz (.reg 24))]

theorem test_decodeControl : wordsControl.all (fun p => decodeWord p.1 = some p.2 && p.2.wf && p.2.word = p.1) = true := by decide +kernel

/-- Integer: each word has its row's fixed bits and its fields, low bit first, from the opcode table. -/
def wordsInteger : List (Nat × Instr) :=
  [(0x94208180, .iadd true (.reg 8) (.reg 16) (.reg 24)),
   (0x94208181, .isub true (.reg 8) (.reg 16) (.reg 24)),
   (0x94208182, .iadds true (.reg 8) (.reg 16) (.reg 24)),
   (0x94208183, .isubs true (.reg 8) (.reg 16) (.reg 24)),
   (0x94208184, .uadds true (.reg 8) (.reg 16) (.reg 24)),
   (0x94208185, .usubs true (.reg 8) (.reg 16) (.reg 24)),
   (0x94208186, .imin true (.reg 8) (.reg 16) (.reg 24)),
   (0x94208187, .imax true (.reg 8) (.reg 16) (.reg 24)),
   (0x94208188, .umin true (.reg 8) (.reg 16) (.reg 24)),
   (0x94208189, .umax true (.reg 8) (.reg 16) (.reg 24)),
   (0x9420800A, .iabs true (.reg 8) (.reg 16)),
   (0x9420800B, .ineg true (.reg 8) (.reg 16))] ++
  [(0x9420818C, .idiff true (.reg 8) (.reg 16) (.reg 24)),
   (0x96208180, .and true (.reg 8) (.reg 16) (.reg 24)),
   (0x96208181, .or true (.reg 8) (.reg 16) (.reg 24)),
   (0x96208182, .xor true (.reg 8) (.reg 16) (.reg 24)),
   (0x96208183, .andn true (.reg 8) (.reg 16) (.reg 24)),
   (0x96208184, .orn true (.reg 8) (.reg 16) (.reg 24)),
   (0x96208185, .xnor true (.reg 8) (.reg 16) (.reg 24)),
   (0x96208006, .not true (.reg 8) (.reg 16)),
   (0x98208180, .shl true (.reg 8) (.reg 16) (.reg 24)),
   (0x98208181, .shr true (.reg 8) (.reg 16) (.reg 24)),
   (0x98208182, .sar true (.reg 8) (.reg 16) (.reg 24)),
   (0x98208183, .rol true (.reg 8) (.reg 16) (.reg 24))] ++
  [(0x98208184, .ror true (.reg 8) (.reg 16) (.reg 24)),
   (0x9A208000, .popc true (.reg 8) (.reg 16)),
   (0x9A208001, .clz true (.reg 8) (.reg 16)),
   (0x9A208002, .ctz true (.reg 8) (.reg 16)),
   (0x9A208003, .brev true (.reg 8) (.reg 16)),
   (0x9A208184, .bfe true (.reg 8) (.reg 16) (.reg 24)),
   (0x9A208185, .bfeu true (.reg 8) (.reg 16) (.reg 24)),
   (0x9A208186, .bfi true (.reg 8) (.reg 16) (.reg 24)),
   (0x9A208187, .bperm true (.reg 8) (.reg 16) (.reg 24)),
   (0x9A208008, .bswap true (.reg 8) (.reg 16)),
   (0x9C208180, .imul true (.reg 8) (.reg 16) (.reg 24)),
   (0x9C208181, .imulhi true (.reg 8) (.reg 16) (.reg 24))] ++
  [(0x9C208182, .umulhi true (.reg 8) (.reg 16) (.reg 24)),
   (0x9C208183, .imad true (.reg 8) (.reg 16) (.reg 24)),
   (0x9C208184, .umadw true (.reg 8) (.reg 16) (.reg 24)),
   (0x9C208185, .imadw true (.reg 8) (.reg 16) (.reg 24)),
   (0x9C208186, .idot4 true (.reg 8) (.reg 16) (.reg 24)),
   (0x9C208187, .udot4 true (.reg 8) (.reg 16) (.reg 24)),
   (0x9E208180, .isetEq true (.reg 8) (.reg 16) (.reg 24)),
   (0x9E208181, .isetNe true (.reg 8) (.reg 16) (.reg 24)),
   (0x9E208182, .isetLt true (.reg 8) (.reg 16) (.reg 24)),
   (0x9E208183, .isetLe true (.reg 8) (.reg 16) (.reg 24)),
   (0x9E208184, .isetGt true (.reg 8) (.reg 16) (.reg 24)),
   (0x9E208185, .isetGe true (.reg 8) (.reg 16) (.reg 24))] ++
  [(0x9E208186, .usetLt true (.reg 8) (.reg 16) (.reg 24)),
   (0x9E208187, .usetLe true (.reg 8) (.reg 16) (.reg 24)),
   (0x9E208188, .usetGt true (.reg 8) (.reg 16) (.reg 24)),
   (0x9E208189, .usetGe true (.reg 8) (.reg 16) (.reg 24)),
   (0x9E20818A, .sel true (.reg 8) (.reg 16) (.reg 24))]

theorem test_decodeInteger : wordsInteger.all (fun p => decodeWord p.1 = some p.2 && p.2.wf && p.2.word = p.1) = true := by decide +kernel

/-- Immediate: each word has its row's fixed bits and its fields, low bit first, from the opcode table. -/
def wordsImmediate : List (Nat × Instr) :=
  [(0xA0208405, .iaddi true (.reg 8) (.reg 16) 0x405#11),
   (0xA2208405, .andi true (.reg 8) (.reg 16) 0x405#11),
   (0xA4208405, .ori true (.reg 8) (.reg 16) 0x405#11),
   (0xA6208405, .xori true (.reg 8) (.reg 16) 0x405#11),
   (0xA8208001, .shli true (.reg 8) (.reg 16) 0x01#5),
   (0xA8208101, .shri true (.reg 8) (.reg 16) 0x01#5),
   (0xA8208201, .sari true (.reg 8) (.reg 16) 0x01#5),
   (0xA8208301, .roli true (.reg 8) (.reg 16) 0x01#5),
   (0xA8208401, .rori true (.reg 8) (.reg 16) 0x01#5),
   (0xAC220005, .movi true (.reg 8) 0x20005#18),
   (0xAE220005, .movhi true (.reg 8) 0x20005#18),
   (0xB0208180, .addp true (.reg 8) (.reg 16) (.reg 24))] ++
  [(0xB0208181, .addps true (.reg 8) (.reg 16) (.reg 24)),
   (0xB0208182, .leap1 true (.reg 8) (.reg 16) (.reg 24)),
   (0xB0208183, .leap2 true (.reg 8) (.reg 16) (.reg 24)),
   (0xB0208184, .leap3 true (.reg 8) (.reg 16) (.reg 24)),
   (0xB0208185, .leap4 true (.reg 8) (.reg 16) (.reg 24)),
   (0xB0208186, .subp true (.reg 8) (.reg 16) (.reg 24))]

theorem test_decodeImmediate : wordsImmediate.all (fun p => decodeWord p.1 = some p.2 && p.2.wf && p.2.word = p.1) = true := by decide +kernel

/-- Float: each word has its row's fixed bits and its fields, low bit first, from the opcode table. -/
def wordsFloat : List (Nat × Instr) :=
  [(0xB2208180, .fadd true (.reg 8) (.reg 16) (.reg 24)),
   (0xB2208181, .fsub true (.reg 8) (.reg 16) (.reg 24)),
   (0xB2208182, .fmul true (.reg 8) (.reg 16) (.reg 24)),
   (0xB2208183, .fmin true (.reg 8) (.reg 16) (.reg 24)),
   (0xB2208184, .fmax true (.reg 8) (.reg 16) (.reg 24)),
   (0xB2208005, .fabs true (.reg 8) (.reg 16)),
   (0xB2208006, .fneg true (.reg 8) (.reg 16)),
   (0xB2208187, .fcopysign true (.reg 8) (.reg 16) (.reg 24)),
   (0xB4208180, .ffma true (.reg 8) (.reg 16) (.reg 24)),
   (0xB4208181, .ffms true (.reg 8) (.reg 16) (.reg 24)),
   (0xB4208182, .fdot2 true (.reg 8) (.reg 16) (.reg 24)),
   (0xB6208180, .fsetEq true (.reg 8) (.reg 16) (.reg 24))] ++
  [(0xB6208181, .fsetNe true (.reg 8) (.reg 16) (.reg 24)),
   (0xB6208182, .fsetLt true (.reg 8) (.reg 16) (.reg 24)),
   (0xB6208183, .fsetLe true (.reg 8) (.reg 16) (.reg 24)),
   (0xB6208184, .fsetGt true (.reg 8) (.reg 16) (.reg 24)),
   (0xB6208185, .fsetGe true (.reg 8) (.reg 16) (.reg 24)),
   (0xB6208186, .fsetUn true (.reg 8) (.reg 16) (.reg 24)),
   (0xB6208007, .fclass true (.reg 8) (.reg 16)),
   (0xB8208000, .frcp true (.reg 8) (.reg 16)),
   (0xB8208001, .frsq true (.reg 8) (.reg 16)),
   (0xB8208002, .fsqrt true (.reg 8) (.reg 16)),
   (0xB8208003, .fexp2 true (.reg 8) (.reg 16)),
   (0xB8208004, .flog2 true (.reg 8) (.reg 16))] ++
  [(0xB8208005, .fsin2pi true (.reg 8) (.reg 16)),
   (0xB8208006, .fcos2pi true (.reg 8) (.reg 16)),
   (0xB8208007, .ftanh true (.reg 8) (.reg 16)),
   (0xB8208188, .fdiv true (.reg 8) (.reg 16) (.reg 24))]

theorem test_decodeFloat : wordsFloat.all (fun p => decodeWord p.1 = some p.2 && p.2.wf && p.2.word = p.1) = true := by decide +kernel

/-- Packed: each word has its row's fixed bits and its fields, low bit first, from the opcode table. -/
def wordsPacked : List (Nat × Instr) :=
  [(0xBA208180, .hadd2Bf true (.reg 8) (.reg 16) (.reg 24)),
   (0xBA208181, .hsub2Bf true (.reg 8) (.reg 16) (.reg 24)),
   (0xBA208182, .hmul2Bf true (.reg 8) (.reg 16) (.reg 24)),
   (0xBA208183, .hfma2Bf true (.reg 8) (.reg 16) (.reg 24)),
   (0xBA208184, .hmin2Bf true (.reg 8) (.reg 16) (.reg 24)),
   (0xBA208185, .hmax2Bf true (.reg 8) (.reg 16) (.reg 24)),
   (0xBA208188, .hadd2H true (.reg 8) (.reg 16) (.reg 24)),
   (0xBA208189, .hsub2H true (.reg 8) (.reg 16) (.reg 24)),
   (0xBA20818A, .hmul2H true (.reg 8) (.reg 16) (.reg 24)),
   (0xBA20818B, .hfma2H true (.reg 8) (.reg 16) (.reg 24)),
   (0xBA20818C, .hmin2H true (.reg 8) (.reg 16) (.reg 24)),
   (0xBA20818D, .hmax2H true (.reg 8) (.reg 16) (.reg 24))] ++
  [(0xBC208180, .cfma true (.reg 8) (.reg 16) (.reg 24)),
   (0xBC208181, .cfms true (.reg 8) (.reg 16) (.reg 24)),
   (0xBC208182, .cmul true (.reg 8) (.reg 16) (.reg 24)),
   (0xBE208000, .f2i true (.reg 8) (.reg 16)),
   (0xBE208001, .f2u true (.reg 8) (.reg 16)),
   (0xBE208002, .i2f true (.reg 8) (.reg 16)),
   (0xBE208003, .u2f true (.reg 8) (.reg 16)),
   (0xBE208184, .f2bf true (.reg 8) (.reg 16) (.reg 24)),
   (0xBE208005, .bf2f true (.reg 8) (.reg 16)),
   (0xBE208186, .f2h true (.reg 8) (.reg 16) (.reg 24)),
   (0xBE208007, .h2f true (.reg 8) (.reg 16)),
   (0xBE208188, .f2e4 true (.reg 8) (.reg 16) (.reg 24))] ++
  [(0xBE208009, .e42f true (.reg 8) (.reg 16)),
   (0xBE20818A, .f2e5 true (.reg 8) (.reg 16) (.reg 24)),
   (0xBE20800B, .e52f true (.reg 8) (.reg 16)),
   (0xBE20818C, .qnt true (.reg 8) (.reg 16) (.reg 24)),
   (0xBE20818D, .dqnt true (.reg 8) (.reg 16) (.reg 24)),
   (0xBE20818E, .pack8 true (.reg 8) (.reg 16) (.reg 24)),
   (0xBE20800F, .frnd true (.reg 8) (.reg 16))]

theorem test_decodePacked : wordsPacked.all (fun p => decodeWord p.1 = some p.2 && p.2.wf && p.2.word = p.1) = true := by decide +kernel

/-- CrossLane: each word has its row's fixed bits and its fields, low bit first, from the opcode table. -/
def wordsCrossLane : List (Nat × Instr) :=
  [(0xC0208180, .shflIdx true (.reg 8) (.reg 16) (.reg 24)),
   (0xC0208181, .shflUp true (.reg 8) (.reg 16) (.reg 24)),
   (0xC0208182, .shflDown true (.reg 8) (.reg 16) (.reg 24)),
   (0xC0208183, .shflXor true (.reg 8) (.reg 16) (.reg 24)),
   (0xC0208004, .voteAll true (.reg 8) (.reg 16)),
   (0xC0208005, .voteAny true (.reg 8) (.reg 16)),
   (0xC0208006, .voteBallot true (.reg 8) (.reg 16)),
   (0xC0208007, .wredIadd true (.reg 8) (.reg 16)),
   (0xC0208008, .wredImax true (.reg 8) (.reg 16)),
   (0xC0208009, .wredFadd true (.reg 8) (.reg 16)),
   (0xC020800A, .wscanIadd true (.reg 8) (.reg 16)),
   (0xC020800B, .wmatch true (.reg 8) (.reg 16))]

theorem test_decodeCrossLane : wordsCrossLane.all (fun p => decodeWord p.1 = some p.2 && p.2.wf && p.2.word = p.1) = true := by decide +kernel

/-- Memory: each word has its row's fixed bits and its fields, low bit first, from the opcode table. -/
def wordsMemory : List (Nat × Instr) :=
  [(0xC220C129, .ld true (.reg 8) (.reg 24) .group .b16 .acqRel .nl1),
   (0xC420C129, .st true (.reg 8) (.reg 24) .group .b16 .acqRel .nl1),
   (0xC620C128, .lds true (.reg 8) (.reg 24) .group .b16 .acqRel),
   (0xC820C128, .sts true (.reg 8) (.reg 24) .group .b16 .acqRel),
   (0xCA20C0C0, .ldm true (.reg 8) (.reg 24) 2 true .dflt),
   (0xCC20C081, .stm true (.reg 8) (.reg 24) 2 false .nl1),
   (0xCE20C090, .ldc true (.reg 8) (.reg 24) 1 .b16),
   (0xD0008000, .pref true (.reg 16)),
   (0xD0208001, .clock true (.reg 8) (.reg 16)),
   (0xD0008002, .cunlock true (.reg 16)),
   (0xD0008003, .cflush true (.reg 16)),
   (0xD0008004, .cclean true (.reg 16))]

theorem test_decodeMemory : wordsMemory.all (fun p => decodeWord p.1 = some p.2 && p.2.wf && p.2.word = p.1) = true := by decide +kernel

/-- Atomic: each word has its row's fixed bits and its fields, low bit first, from the opcode table. -/
def wordsAtomic : List (Nat × Instr) :=
  [(0xD220C101, .atom (.reg 8) (.reg 24) (.reg 16) .min),
   (0xD400C101, .red (.reg 24) (.reg 16) .min),
   (0xD620C100, .cas (.reg 8) (.reg 24) (.reg 16)),
   (0xD620C101, .cas64 (.reg 8) (.reg 24) (.reg 16)),
   (0xD8000010, .fenceAcq true .group),
   (0xD8000011, .fenceRel .group),
   (0xD8000012, .fenceAcqrel .group),
   (0xD8000013, .fenceSc .group),
   (0xDA000010, .qfence 0x1#4),
   (0xDC00C109, .ctradd (.reg 24) (.reg 16) true .group),
   (0xDE20C168, .ctrread true (.reg 8) (.reg 24) .group true)]

theorem test_decodeAtomic : wordsAtomic.all (fun p => decodeWord p.1 = some p.2 && p.2.wf && p.2.word = p.1) = true := by decide +kernel

/-- Transaction: each word has its row's fixed bits and its fields, low bit first, from the opcode table. -/
def wordsTransaction : List (Nat × Instr) :=
  [(0xE0020005, .txbegin true 0x20005#18),
   (0xE2020005, .orelse true 0x20005#18),
   (0xE4000000, .txend),
   (0xE4000001, .retry),
   (0xE4008002, .txabort (.reg 16)),
   (0xE4200003, .txstat true (.reg 8))]

theorem test_decodeTransaction : wordsTransaction.all (fun p => decodeWord p.1 = some p.2 && p.2.wf && p.2.word = p.1) = true := by decide +kernel

/-- Copy: each word has its row's fixed bits and its fields, low bit first, from the opcode table. -/
def wordsCopy : List (Nat × Instr) :=
  [(0xE6109021, .copy 1 1 (.reg 16) (.reg 16) true),
   (0xE8109021, .gather 1 1 (.reg 16) (.reg 16) true),
   (0xEA109021, .scatter 1 1 (.reg 16) (.reg 16) true),
   (0xEC109021, .combine 1 1 (.reg 16) (.reg 16) true),
   (0xEE008180, .rinit (.reg 16) (.reg 24)),
   (0xEE208001, .rfill true (.reg 8) (.reg 16)),
   (0xEE008182, .rfree (.reg 16) (.reg 24)),
   (0xEE208003, .rspace true (.reg 8) (.reg 16)),
   (0xEE208004, .rstat true (.reg 8) (.reg 16)),
   (0xF0008000, .launch (.reg 16))]

theorem test_decodeCopy : wordsCopy.all (fun p => decodeWord p.1 = some p.2 && p.2.wf && p.2.word = p.1) = true := by decide +kernel

/-- Matrix: each word has its row's fixed bits and its fields, low bit first, from the opcode table. -/
def wordsMatrix : List (Nat × Instr) :=
  [(0xF2842402, .mmul 1 1 1 (.reg 16) true),
   (0xF2040408, .mstat 1 (.reg 16)),
   (0xF2840413, .mstream 1 1 (.reg 16) true true),
   (0xF2840419, .mdrain true 1 1 (.reg 16) .ovr),
   (0xF2800420, .mzero true 1 (.reg 16)),
   (0xF4008010, .ttset true (.reg 16) 1),
   (0xF4200011, .ttget true (.reg 8) 1),
   (0xF4000012, .ttclr true 1),
   (0xF6008000, .markpush (.reg 16)),
   (0xF6000001, .markpop),
   (0xF6008182, .markevt (.reg 16) (.reg 24)),
   (0xF6200003, .markstat (.reg 8))]

theorem test_decodeMatrix : wordsMatrix.all (fun p => decodeWord p.1 = some p.2 && p.2.wf && p.2.word = p.1) = true := by decide +kernel

/-- A Glomer word: IADD v300, v200, w2 in the virtual registers, a head. -/
theorem test_decodeGlomer :
    decodeGlomer (0x14000000 * 2 ^ 32 + 300 * 2 ^ 22 + 200 * 2 ^ 12 + 1017 * 2 ^ 2 + 2) =
      some (.iadd false (.reg 300) (.reg 200) (.win 2), true) := by decide +kernel

/-- Words that no row of the table matches. -/
theorem test_decodeReserved :
    [0x2A00000E, 0x15E00000, 0x3C000003, 0x78000000, 0x7E000000, 0x0E000007, 0x43E00000, 0x1E00000B, 0x0C000003].all
      (fun w => decodeWord w = none) = true := by decide +kernel

/-! ### States -/

/-- A state in which a word is the next word of a bundle. -/
def placed (i : Instr) : State := State.reset.withFetchWord 32 i.word

/-- All of `Ready`, tested. -/
def ready (i : Instr) (k : Nat) (s : State) : Bool :=
  s.focus = some k && s.subAt k i = 0 && (s.core (k / 2)).parity = [] && (s.bundle k).lanes.Nodup
    && (!(decide ((s.bundle k).code.length ≤ (s.bundle k).pos + 1)) || (((s.bundle k).code[(s.bundle k).pos]?).map (·.2)).getD true)
    && ((info i).tx = .free || (s.lanes k).all fun tk => (s.thread tk).tx = [])

theorem ready_of {i : Instr} {k : Nat} {s : State} (h : ready i k s = true) : Ready i k s := by
  simp only [ready, Bool.and_eq_true, Bool.or_eq_true, decide_eq_true_eq, List.all_eq_true, Bool.not_eq_true', decide_eq_false_iff_not] at h
  obtain ⟨⟨⟨⟨⟨h1, h2⟩, h3⟩, h4⟩, h5⟩, h6⟩ := h
  exact ⟨h1, h2, h3, h4, fun h => h5.resolve_left (not_not_intro h), h6⟩

/-- The word is ready where it has been placed. -/
def readyPlaced (ws : List (Nat × Instr)) : Bool := ws.all fun p => ready p.2 0 (placed p.2)

/-- HINT_MOD: a cache policy and a mode have no common target (R103). -/
def wordsMod : List (Nat × Instr) :=
  [(0x0080008D, .hintMod true none true true .rz), (0x00800010, .hintMod false (some .nl1) false false .rne)]
theorem witness_readyControl : readyPlaced (wordsControl.drop 3 ++ wordsControl.take 2 ++ wordsMod) = true := by decide +kernel

theorem witness_readyInteger : readyPlaced wordsInteger = true := by decide +kernel

theorem witness_readyImmediate : readyPlaced wordsImmediate = true := by decide +kernel

theorem witness_readyFloat : readyPlaced wordsFloat = true := by decide +kernel

theorem witness_readyPacked : readyPlaced wordsPacked = true := by decide +kernel

theorem witness_readyCrossLane : readyPlaced wordsCrossLane = true := by decide +kernel

theorem witness_readyMemory : readyPlaced wordsMemory = true := by decide +kernel

theorem witness_readyAtomic : readyPlaced wordsAtomic = true := by decide +kernel

theorem witness_readyTransaction : readyPlaced wordsTransaction = true := by decide +kernel

theorem witness_readyCopy : readyPlaced wordsCopy = true := by decide +kernel

theorem witness_readyMatrix : readyPlaced wordsMatrix = true := by decide +kernel

/-! ### One step -/

/-- What holds of the state that a step leaves, if it leaves one. -/
def after {α : Type} (o : Host.Outcome State Fault Refusal) (f : State → α) : Option α :=
  match o with
  | .next t => some (f t)
  | _ => none

/-- The placed word's thread with registers. -/
def withRegs (i : Instr) (regs : List (Nat × Word)) : State := (placed i).modThread 0 fun t => { t with regs := regs }

/-- The register r of the placed word's thread after one step. -/
def result (i : Instr) (regs : List (Nat × Word)) (r : Nat) : Option Word := after (step (withRegs i regs)) fun t => (t.thread 0).reg r

/-- R158: modulo 2^32, and saturating. -/
theorem test_add_wraps : result (.iadd true (.reg 8) (.reg 16) (.reg 24)) [(16, 0xFFFFFFFF), (24, 2)] 8 = some 1 := by decide +kernel
theorem test_adds_saturates :
    result (.iadds true (.reg 8) (.reg 16) (.reg 24)) [(16, 0x7FFFFFFF), (24, 2)] 8 = some 0x7FFFFFFF := by decide +kernel

/-- R88: v0 discards, and reads 0. -/
theorem test_v0 : result (.iadd true (.reg 0) (.reg 16) (.reg 24)) [(16, 5), (24, 2)] 0 = some 0 := by decide +kernel

/-- R92, R93: immediates. -/
theorem test_iaddi_negative : result (.iaddi true (.reg 8) (.reg 16) (-1)) [(16, 0)] 8 = some 0xFFFFFFFF := by decide +kernel
theorem test_movhi : result (.movhi true (.reg 8) 1) [(8, 0xFFFFFFFF)] 8 = some 0x7FFF := by decide +kernel

/-- R165: the destination is also a source. -/
theorem test_imad : result (.imad true (.reg 8) (.reg 8) (.reg 24)) [(8, 3), (24, 4)] 8 = some 15 := by decide +kernel

/-- R130, R173: 1 + 2^-24 is a tie, to even; 1 + 3·2^-24 is rounded up. -/
theorem test_fadd_tie :
    result (.fadd true (.reg 8) (.reg 16) (.reg 24)) [(16, 0x3F800000), (24, 0x33800000)] 8 = some 0x3F800000 := by decide +kernel
theorem test_fadd_up :
    result (.fadd true (.reg 8) (.reg 16) (.reg 24)) [(16, 0x3F800001), (24, 0x33800000)] 8 = some 0x3F800002 := by decide +kernel

/-- R178: a NaN is unordered with itself. -/
theorem test_fset_nan :
    result (.fsetUn true (.reg 8) (.reg 16) (.reg 16)) [(16, 0x7FC00000)] 8 = some 1 := by decide +kernel

/-- R342: the link and the way of CALL; offset 0 holds the word, the link is offset 4. -/
theorem test_call_link : result (.call true (.reg 8) 3) [] 8 = some 4 := by decide +kernel
theorem test_call_next : after (step (placed (.call true (.reg 8) 3))) (fun t => (t.thread 0).next) = some 16 := by decide +kernel

/-- R267: a scratch store writes the bytes at the address, low byte first. -/
theorem test_sts :
    after (step (withRegs (.sts true (.reg 8) (.reg 16) .wave .b32 .plain) [(8, 0x11223344), (16, 8)])) (fun t => t.mem) =
      some [(2 ^ 60 + 8, 0x44), (2 ^ 60 + 9, 0x33), (2 ^ 60 + 10, 0x22), (2 ^ 60 + 11, 0x11)] := by decide +kernel

/-- R231: an address outside the scratch of the group traps, and nothing is stored. -/
theorem test_sts_bound :
    after (step (withRegs (.sts true (.reg 8) (.reg 16) .wave .b32 .plain) [(8, 1), (16, 0x2FFFE)])) (fun t =>
      (t.mem, (t.thread 0).cands.map (·.kind))) = some ([], [.scrBound]) := by decide +kernel

/-- R266: a load asks for the pair's address. -/
theorem test_ld_asks :
    after (step (withRegs (.ld true (.reg 8) (.reg 16) .wave .b32 .plain .dflt) [(16, 0x1000), (17, 1)])) (fun t =>
      t.reqs.map fun r => (r.va, r.size)) = some [(2 ^ 32 + 0x1000, .b32)] := by decide +kernel

/-- R104: a word whose guard is off writes nothing, and takes its place in the forwarding window. -/
theorem test_guard_off :
    after (step ((withRegs (.movi true (.reg 8) 5) [(8, 7)]).modThread 0 fun t => { t with gLeft := 1, gPat := 1, gCond := false }))
      (fun t => ((t.thread 0).reg 8, (t.thread 0).win.length)) = some (7, 1) := by decide +kernel

/-- R132: HINT MOD replaces the FTZ in force: a subnormal sum stays one. -/
theorem test_hint_ftz :
    after (step ((withRegs (.fadd true (.reg 8) (.reg 16) (.reg 24)) [(16, 1), (24, 1)]).modThread 0 fun t =>
      { t with ftz := true, hFtz := some false })) (fun t => (t.thread 0).reg 8) = some 2 := by decide +kernel

/-- R111: an illegal destination pair traps. -/
theorem test_illegal_pair :
    after (step (placed (.umadw true (.reg 9) (.reg 1) (.reg 2)))) (fun t => (t.thread 0).cands.map fun c => (c.kind, c.off)) =
      some [(.illegal, 0)] := by decide +kernel

/-- An image of a KIND with an SVN: its header, and no body (R391). -/
def image (kind svn : Nat) : List Byte :=
  leBytes 8 (0x4C45454B + 2 ^ 32 * kind + 2 ^ 48 * svn) ++ List.replicate 8 0 ++ sha384 [] ++ List.replicate 192 0
/-- The I/O dies of module 0 have come up, and the keel finds an image for each die. -/
def raised : State :=
  { State.reset with
    dies := (span 16 4).map fun d => (d, { life := .up })
    keels := [(0, { verified := true, store := (List.range 17).map fun d => (2 * 2048 + d, image 2 1) })] }

/-- R403: a die that has passed its test joins, its kernel and I/O die 16's are told. -/
theorem test_dieJoin :
    after (exec (.dieJoin 3 true) raised) (fun t =>
      (t.up 3, (t.die 16).notes.map fun m => (m.w1, m.w2))) = some (true, [(4, 3)]) := by decide +kernel

/-- R160: the spec's own examples. -/
theorem test_sar_40 : result (.sar true (.reg 8) (.reg 16) (.reg 24)) [(16, 0x80000010), (24, 40)] 8 = some 0xFFFFFFFF := by decide +kernel
theorem test_rol_33 : result (.rol true (.reg 8) (.reg 16) (.reg 24)) [(16, 0x80000001), (24, 33)] 8 = some 3 := by decide +kernel

/-! ### States that meet the hypotheses of the statements about words -/

theorem witness_RoundingIsExactlyOnce : fp32 ∈ [fp32, bf16, fp16, e5m2, e4m3] ∧ 0 < 3 := by decide

theorem witness_SumOfTerms :
    (FVal.nan ∈ [FVal.nan] ∧ FVal.inf true ∈ [FVal.inf true, .inf false] ∧ FVal.inf false ∈ [FVal.inf true, .inf false]) ∧
    (FVal.nan ∉ [FVal.inf true] ∧ FVal.inf true ∈ [FVal.inf true] ∧ FVal.inf (!true) ∉ [FVal.inf true]) ∧
    [FVal.num true 3 (2 + (1 : Nat)), .num false 6 (2 + (0 : Nat))] =
      [(true, 3, 1), (false, 6, 0)].map (fun (x : Bool × Nat × Nat) => FVal.num x.1 x.2.1 (2 + x.2.2)) ∧
    (([(true, 3, 1), (false, 6, 0)] : List (Bool × Nat × Nat)).map fun x => (if x.1 then -1 else 1) * ((x.2.1 * 2 ^ x.2.2 : Nat) : Int)).sum = 0 ∧
    (([(true, 3, 1)] : List (Bool × Nat × Nat)).map fun x => (if x.1 then -1 else 1) * ((x.2.1 * 2 ^ x.2.2 : Nat) : Int)).sum ≠ 0 ∧
    (∀ x ∈ ([(true, 0, 1)] : List (Bool × Nat × Nat)), x.1 = true ∧ x.2.1 = 0) := by decide

theorem witness_GuardRule : ({} : Thread).gLeft = 0 ∧ ({ gLeft := 1 } : Thread).gLeft ≠ 0 := by decide

/-- The bundle of the placed word is no wave bundle. -/
def narrowPlaced (i : Instr) : State := (placed i).setBundle 0 { (placed i).bundle 0 with waveBundle := false }

theorem witness_CrossLaneWords :
    ((placed (.shflIdx true (.reg 8) (.reg 16) (.reg 24))).bundle 0).waveBundle = true ∧
    (placed (.wredImax true (.reg 8) (.reg 16))).active 0 ≠ [] := by decide +kernel

theorem witness_CrossLaneNeedsWaveBundle :
    ((narrowPlaced (.voteAll true (.reg 8) (.reg 16))).bundle 0).waveBundle = false ∧
    ready (.voteAll true (.reg 8) (.reg 16)) 0 (narrowPlaced (.voteAll true (.reg 8) (.reg 16))) = true := by decide +kernel

theorem witness_Quantise :
    let i : Instr := .qnt true (.reg 8) (.reg 16) (.reg 24)
    let s := placed i
    ready i 0 s = true ∧ (s.bundle 0).waveBundle = true ∧
      (∀ tk ∈ s.active 0, (qntCtl (.reg 24) (halfOf (s.activeLanes 0) (tk % 64))).toNat % 4 ≠ 3) := by decide +kernel

theorem witness_IllegalWordTraps :
    let i : Instr := .umadw true (.reg 9) (.reg 1) (.reg 2)
    let s := placed i
    i.isEvent = false ∧ (∀ w, i ≠ .glomerWord w) ∧ s.focus = some 0 ∧ s.subAt 0 i ≠ 0 ∧ (s.bundle 0).lanes.Nodup :=
  ⟨by decide, fun _ h => Instr.noConfusion h, by decide +kernel, by decide +kernel, by decide +kernel⟩

theorem witness_ForbiddenInTransactions :
    let i : Instr := .fenceSc .die
    let s := (placed i).modThread 0 fun t => { t with tx := [{}] }
    i.isEvent = false ∧ (∀ w, i ≠ .glomerWord w) ∧ s.focus = some 0 ∧ s.subAt 0 i = 0 ∧ (s.core (0 / 2)).parity = [] ∧
      (s.bundle 0).lanes.Nodup ∧ 0 ∈ s.active 0 ∧ (s.thread 0).tx ≠ [] ∧ (info i).tx ≠ .free :=
  ⟨by decide, fun _ h => Instr.noConfusion h, by decide +kernel, by decide +kernel, by decide +kernel, by decide +kernel, by decide +kernel,
    by decide +kernel, by decide +kernel⟩

theorem witness_ParityTraps :
    let i : Instr := .iadd true (.reg 8) (.reg 16) (.reg 24)
    let s := (placed i).modCore 0 fun c => { c with parity := [(0, 16)] }
    i.isEvent = false ∧ (∀ w, i ≠ .glomerWord w) ∧ s.focus = some 0 ∧ s.subAt 0 i = 0 ∧ (s.bundle 0).lanes.Nodup ∧ 0 ∈ s.active 0 ∧
      (s.core (0 / 2)).parity = [(0 % 512, 16)] ∧ 16 ∈ readRegs i ∧ (s.core (0 / 2)).replay = [] :=
  ⟨by decide, fun _ h => Instr.noConfusion h, by decide +kernel, by decide +kernel, by decide +kernel, by decide +kernel, by decide +kernel,
    by decide +kernel, by decide +kernel⟩

theorem witness_BlockOf64Words :
    let s := (placed (.nop false)).setBundle 0 { (placed (.nop false)).bundle 0 with code := List.replicate 64 (0x0E000000, false), pos := 63 }
    s.focus = some 0 ∧ s.subAt 0 (.nop false) = 0 ∧ (s.core (0 / 2)).parity = [] ∧ (s.bundle 0).lanes.Nodup ∧
      (s.bundle 0).code.length = (s.bundle 0).pos + 1 ∧ (s.bundle 0).code[(s.bundle 0).pos]? = some (0x0E000000, false) := by decide +kernel

theorem witness_ScratchWords :
    let s := placed (.lds true (.reg 8) (.reg 16) .wave .b32 .plain)
    ((∀ q ∈ s.reqs, q.id < s.nextId) ∧ ∀ tk ∈ s.active 0, (s.thread tk).twin = false ∧ (s.flightOf tk).hdr.marionette = false ∧
      (s.groupOf tk).ballast = [] ∧ (s.thread tk).first ≤ s.nextId ∧ (s.thread tk).early = [] ∧ ∀ q ∈ s.reqs, q.ofThread tk = false) ∧
    (∀ tk ∈ s.active 0, (∀ j < 4, mget s.bad (cellBad (s.scratchAt (s.groupKey tk) (scratchAddr (.reg 16) (s.thread tk) + j))) = none) ∧
      (s.thread tk).cands = [] ∧ (s.quad (quadOfCore (coreOfThread tk))).table = []) ∧
    ready (.stm true (.reg 8) (.reg 16) 2 true .dflt) 0 (placed (.stm true (.reg 8) (.reg 16) 2 true .dflt)) = true := by decide +kernel

theorem witness_LeaderResult :
    let i : Instr := .ttget true (.reg 8) 1
    let s := placed i
    let w := s.modThread 0 fun t => { t with twin := true }
    ready i 0 s = true ∧ (∀ tk ∈ s.lanes 0, (s.thread tk).twin = false) ∧ ready i 0 w = true ∧
      ∀ tk ∈ w.lanes 0, (w.thread tk).twin = true := by decide +kernel

/-- A state with a placed JOIN and a mask of join register 1. -/
def joinState (mask : BitVec 64) : State :=
  let s := placed (.join true 1)
  s.setWave 0 { s.wave 0 with sets := [(1, mask)] }

theorem joinState_glomer (m : BitVec 64) : ∀ tk, ((joinState m).thread tk).glomer = false := by
  intro tk
  have h : (joinState m).threads = [(0, { stat := .stream, glomer := false, first := State.reset.nextId })] := rfl
  simp only [State.thread, mgetD, h, mget]
  split <;> rfl

theorem noTable (m : BitVec 64) (c : Nat) (e : BEntry) (h : e ∈ ((joinState m).core c).table) : e.glomer = false := by
  have h' : e ∈ (({} : Core).table) := h
  simp at h'

theorem noFifo (m : BitVec 64) (c slot : Nat) (h : slot ∈ ((joinState m).core c).fifo) :
    ((joinState m).thread (threadKey c slot)).stat = .overflow := by
  have h' : slot ∈ (({} : Core).fifo) := h
  simp at h'

theorem witness_JoinWords :
    (∀ tk, ((joinState 3).thread tk).glomer = false) ∧ (∀ c, ∀ e ∈ ((joinState 3).core c).table, e.glomer = false) ∧
    (∀ c, ∀ slot ∈ ((joinState 3).core c).fifo, ((joinState 3).thread (threadKey c slot)).stat = .overflow) ∧
    ready (.join true 1) 0 (joinState 3) = true ∧ (joinState 3).lanes 0 = [0] ∧ ((joinState 3).thread 0).on = true ∧
    ((joinState 3).thread 0).jgen = none ∧
    -- the lane is in the mask; so is one that has exited
    (mgetD ((joinState 3).wave 0).sets 1 0).getLsbD (0 % 64) = true ∧
    (∀ l ∈ List.range 64, (mgetD ((joinState 3).wave 0).sets 1 0).getLsbD l = true → l = 0 % 64 ∨ settled (joinState 3) 0 1 l = true) ∧
    -- the lane is not in the mask
    (mgetD ((joinState 2).wave 0).sets 1 0).getLsbD (0 % 64) = false :=
  ⟨joinState_glomer 3, noTable 3, noFifo 3, by decide +kernel, by decide +kernel, by decide +kernel,
    by decide +kernel, by decide +kernel, by decide +kernel, by decide +kernel⟩

theorem witness_TransactionWords :
    let i : Instr := .txend
    let s (n : Nat) := (placed i).modThread 0 fun t => { t with tx := List.replicate n {} }
    ready i 0 (s 0) = true ∧ (∀ tk ∈ (s 0).active 0, ((s 0).thread tk).tx.length ≠ 1) ∧
    ready i 0 (s 2) = true ∧ (∀ tk ∈ (s 2).active 0, ((s 2).thread tk).tx.length ≠ 1) ∧
    ready i 0 (s 1) = true ∧ (∀ tk ∈ (s 1).active 0, ((s 1).thread tk).tx.length = 1) ∧ 0 ∈ (s 1).active 0 := by decide +kernel

theorem witness_MarkWords :
    ready (.markstat (.reg 8)) 0 (placed (.markstat (.reg 8))) = true ∧
    ∀ tk ∈ (placed (.markstat (.reg 8))).lanes 0, ((placed (.markstat (.reg 8))).thread tk).twin = false := by decide +kernel

theorem witness_CacheWords : ((({} : Thread).pair (.reg 16)).toNat < 2 ^ 57) := by decide +kernel

theorem witness_GlomerWordRunsItsInstruction :
    decodeGlomer (BitVec.ofNat 64 (0x14000000 * 2 ^ 32 + 300 * 2 ^ 22)).toNat = some (.iadd false (.reg 300) (.reg 0) (.reg 0), false) ∧
    (Instr.iadd false (.reg 300) (.reg 0) (.reg 0)).isEvent = false ∧ (∀ x, Instr.iadd false (.reg 300) (.reg 0) (.reg 0) ≠ .glomerWord x) ∧
    decodeGlomer (BitVec.ofNat 64 1).toNat = none ∧ (placed (.nop true)).focus = some 0 ∧ ((placed (.nop true)).bundle 0).lanes.Nodup :=
  ⟨by decide +kernel, by decide, fun _ h => Instr.noConfusion h, by decide +kernel, by decide +kernel, by decide +kernel⟩

/-! ### States that meet the hypotheses of the statements about requests, threads and coherence -/

/-- A leaf: valid, readable, writable, accessed and dirty, of frame 64, homed at die 0; one that maps a counter page (C, bit 11). -/
def leaf5 : Nat := 0x37 + 64 * 2 ^ 28
def leafC5 : Nat := 0x37 + 2 ^ 11 + 64 * 2 ^ 28

/-- Memory of die 0 that holds words of 8 bytes at rising addresses. -/
def cells (ws : List (Nat × Nat)) : List Host.Cell :=
  (ws.flatMap fun p => (leBytes 8 p.2).zipIdx.map fun q => (p.1 + q.2, q.1)).filter fun c => c.2 ≠ 0
def at8 (pa : Nat) (ws : List Nat) : List (Nat × Nat) := ws.zipIdx.map fun p => (pa + 8 * p.2, p.1)

/-- The page tables of VAS 1 on die 0: root in frame 16, page 5 mapped by a leaf. -/
def tableWords (leaf : Nat) : List (Nat × Nat) := [(65536, 69633), (69632, 73729), (73728, 77825), (77824, 81921), (81960, leaf)]
def tables (leaf : Nat) : List Host.Cell := cells (tableWords leaf)

def die0 (leaf : Nat) : Die :=
  { life := .up, memSize := 2 ^ 24, slots := [(0, { vas := 1, root := 16, en := true, keys := 1 })]
    tlb := [{ vas := 1, page := 0x5000, size := 4096, leaf := leaf }] }

/-- One die, one flight of one train with one group, one wave and one thread. -/
def base (leaf : Nat) : State :=
  { State.reset with
    dies := [(0, die0 leaf)], mem := tables leaf, tags := [(64, 16)], nextId := 2
    flights := [(0, { hdr := { nregs := 120, njoin := 8, nteth := 32 }, vas := 1, left := 1 })], trains := [(0, { stat := .resident, groups := [0] })]
    groups := [(0, { wslots := [0], pages := [0], banks := [0] })], waves := [(0, {})], threads := [(0, {})] }

def env (leaf : Nat) (r : Req) : State := { base leaf with reqs := [r] }

/-- A request of the thread at byte 8 of page 5, sent to its home. -/
def req (k : ReqKind) : Req :=
  { id := 1, vas := 1, lanes := [{ slot := 0, data := [7, 0], expect := [0, 0] }], kind := k, va := 0x5008, phase := .sent }

/-- Reads of words that another write leaves alone. -/
theorem read_agrees {m m' : List Host.Cell} {lo hi : Nat} (h : ∀ a, a < lo ∨ hi ≤ a → Memory.get m a = Memory.get m' a) :
    ∀ (n a : Nat), a + n ≤ lo ∨ hi ≤ a → Memory.read m a n = Memory.read m' a n
  | 0, _, _ => rfl
  | n + 1, a, ha => by
    simp only [Memory.read, h a (by omega), read_agrees h n (a + 1) (by omega)]

set_option linter.unusedSimpArgs false in
/-- A walk of page 5 reads five entries. -/
theorem walk_five {s : State} {leaf : Nat} (h16 : s.ram 0 65536 8 = 69633) (h17 : s.ram 0 69632 8 = 73729) (h18 : s.ram 0 73728 8 = 77825)
    (h19 : s.ram 0 77824 8 = 81921) (h20 : s.ram 0 81960 8 = leaf) (hv : leafV leaf = true) (hm : s.malformed 1 0 leaf = false) :
    s.walkFrom 0 1 0x5008 4 16 [] = .leaf 0 leaf 81960 [(0, 0, 20), (1, 0, 19), (2, 0, 18), (3, 0, 17)] := by
  have p : ∀ level e, level ≠ 0 → bits e 3 1 = 0 → bits e 11 4 = 0 → bits e 63 52 = 0 → s.malformed 1 level e = false := by
    intro level e h1 h2 h3 h4
    simp [State.malformed, isPointer, h1, h2, h3, h4]
  rw [State.walkFrom]; simp only [Nat.succ_eq_add_one, Nat.reduceMul, Nat.reduceAdd, Nat.reducePow, Nat.reduceDiv, Nat.reduceMod, h16]
  rw [p 4 _ (by decide) (by decide) (by decide) (by decide), State.walkFrom]
  simp only [Nat.succ_eq_add_one, Nat.reduceMul, Nat.reduceAdd, Nat.reducePow, Nat.reduceDiv, Nat.reduceMod, show bits 69633 51 12 = 17 from by decide, h17]
  rw [p 3 _ (by decide) (by decide) (by decide) (by decide), State.walkFrom]
  simp only [Nat.succ_eq_add_one, Nat.reduceMul, Nat.reduceAdd, Nat.reducePow, Nat.reduceDiv, Nat.reduceMod, show bits 73729 51 12 = 18 from by decide, h18]
  rw [p 2 _ (by decide) (by decide) (by decide) (by decide), State.walkFrom]
  simp only [Nat.succ_eq_add_one, Nat.reduceMul, Nat.reduceAdd, Nat.reducePow, Nat.reduceDiv, Nat.reduceMod, show bits 77825 51 12 = 19 from by decide, h19]
  rw [p 1 _ (by decide) (by decide) (by decide) (by decide), State.walkFrom]
  simp only [Nat.succ_eq_add_one, Nat.reduceMul, Nat.reduceAdd, Nat.reducePow, Nat.reduceDiv, Nat.reduceMod, show bits 81921 51 12 = 20 from by decide, h20, hm, hv]
  simp [isPointer, bits, leafV, bitOf, prefixOf]

theorem die_mem (s : State) (m : List Host.Cell) (d : Nat) : ({ s with mem := m } : State).die d = s.die d := rfl
theorem malformed_mem (s : State) (m : List Host.Cell) (v l e : Nat) : ({ s with mem := m } : State).malformed v l e = s.malformed v l e := rfl

/-- Fields of `AtHome` that are tested. -/
abbrev HomeOk (leaf : Nat) (r : Req) : Prop :=
  ((env leaf r).req? r.id = some r ∧ r.phase = .sent ∧ r.home = r.die ∧ ((env leaf r).die r.die).life = .up ∧ mayGo (env leaf r) r = true ∧
    (env leaf r).openAt r.die r.vas r.va = none ∧ r.order = .plain ∧ r.sig = none ∧ r.tx = false ∧ r.pol = .dflt) ∧
  ((((env leaf r).die r.die).l2home ++ ((env leaf r).die r.die).l2.map (·.1)).filter fun k =>
      k / 128 % 2 ^ 15 = r.va / 128 % 2 ^ 15 && k ≠ r.vas * 2 ^ 57 + r.va / 128 * 128).length < 16 ∧
  (((env leaf r).hdrOf r.tk).replay = false ∧ ((env leaf r).hdrOf r.tk).marionette = false ∧ ((env leaf r).groupOf r.tk).ballast = [] ∧
    mget ((env leaf r).die r.die).l2 (r.vas * 2 ^ 57 + r.va / 128 * 128) = none ∧ r.die = 0 ∧ r.vas = 1 ∧ r.va = 0x5008 ∧ r.size.bytes ≤ 8) ∧
  (((env leaf r).die 0).slotOf 1 = some (0, { vas := 1, root := 16, en := true, keys := 1 }) ∧
    ((env leaf r).die 0).tlb.find? (fun t => t.serves 1 0x5008) = some { vas := 1, page := 0x5000, size := 4096, leaf := leaf } ∧
    paOf leaf 0x5008 4096 = 64 * 4096 + 8 ∧ (env leaf r).pageLost leaf = false ∧ homeOf leaf 0x5008 = 0 ∧ leaf.testBit 4 = true ∧ leaf.testBit 5 = true ∧ leaf / 2 ^ 23 % 16 = 0) ∧
  (env leaf r).ram 0 65536 8 = 69633 ∧ (env leaf r).ram 0 69632 8 = 73729 ∧ (env leaf r).ram 0 73728 8 = 77825 ∧
    (env leaf r).ram 0 77824 8 = 81921 ∧ (env leaf r).ram 0 81960 8 = leaf ∧ leafV leaf = true ∧ (env leaf r).malformed 1 0 leaf = false

theorem atHome_of {leaf : Nat} {r : Req} (wr : Bool) (h : HomeOk leaf r) : AtHome (env leaf r) r wr leaf (64 * 4096 + 8) := by
  obtain ⟨⟨h1, h2, h3, h4, h5, h6, h7, h8, h9, h10⟩, hs, ⟨g1, g2, g3, g4, d, v, a, z⟩, ⟨sl, tl, pa, lo, ho, b4, b5, ky⟩, r1, r2, r3, r4, r5, lv, ml⟩ := h
  have hw : (env leaf r).walkRoot r.die r.vas r.va = some (.leaf 0 leaf 81960 [(0, 0, 20), (1, 0, 19), (2, 0, 18), (3, 0, 17)]) := by
    rw [d, v, a, State.walkRoot, sl]; exact congrArg some (walk_five r1 r2 r3 r4 r5 lv ml)
  refine { req := h1, phase := h2, home := h3, up := h4, go := h5, shut := h6, plain := ⟨h7, h8, h9, h10⟩, group := ⟨g1, g2, g3⟩, copy := g4, set := hs
           slot := ?_, found := ?_, here := ?_, room := ?_, kept := ⟨lo, ?_⟩, l1 := rfl, ad := ?_, tables := ?_, sessions := rfl, token := ?_, good := rfl }
  · exact ⟨0, _, by rw [d, v]; exact sl, by rw [ky]; decide⟩
  · exact ⟨_, by rw [d, v, a]; exact tl, rfl, by rw [a]; exact pa⟩
  · rw [a, d]; exact ho
  · rw [d]; exact (by decide : 64 * 4096 + 8 < 2 ^ 24)
  · rw [d]; rfl
  · intro level l e p h; rw [hw] at h; cases h; exact ⟨b4, fun _ => b5⟩
  · intro m hm _
    rw [hw, d, v, a, State.walkRoot]
    have e : ∀ x, x + 8 ≤ 64 * 4096 → ({ env leaf r with mem := m } : State).ram 0 x 8 = (env leaf r).ram 0 x 8 := by
      intro x hx
      rw [d] at hm
      exact congrArg leValue (read_agrees hm 8 _ (.inl (by simp only [ramKey]; omega)))
    have sl' : (({ env leaf r with mem := m } : State).die 0).slotOf 1 = some (0, { vas := 1, root := 16, en := true, keys := 1 }) := by
      rw [die_mem]; exact sl
    rw [sl']
    have ml' : ({ env leaf r with mem := m } : State).malformed 1 0 leaf = false := (malformed_mem _ m 1 0 leaf).trans ml
    have w := walk_five ((e _ (by decide)).trans r1) ((e _ (by decide)).trans r2) ((e _ (by decide)).trans r3)
      ((e _ (by decide)).trans r4) ((e _ (by decide)).trans r5) lv ml'
    exact congrArg some w
  · rw [d]; rfl

theorem wit_home_load : AtHome (env leaf5 (req .load)) (req .load) false leaf5 (64 * 4096 + 8) ∧
    readable (env leaf5 (req .load)) (req .load) leaf5 (64 * 4096 + 8) ∧ counters leaf5 = false :=
  ⟨atHome_of _ (by decide +kernel), ⟨by decide, by decide +kernel⟩, by decide⟩
theorem wit_home_counter_read : AtHome (env leafC5 (req .ctrRead)) (req .ctrRead) false leafC5 (64 * 4096 + 8) ∧
    readable (env leafC5 (req .ctrRead)) (req .ctrRead) leafC5 (64 * 4096 + 8) ∧ counters leafC5 = true :=
  ⟨atHome_of _ (by decide +kernel), ⟨by decide, by decide +kernel⟩, by decide⟩
theorem wit_home_store : (req .store).lanes = [{ slot := 0, data := [7, 0], expect := [0, 0] }] ∧
    AtHome (env leaf5 (req .store)) (req .store) true leaf5 (64 * 4096 + 8) ∧ writable leaf5 ∧ counters leaf5 = false :=
  ⟨rfl, atHome_of _ (by decide +kernel), ⟨by decide, by decide⟩, by decide⟩
theorem wit_home_rmw : AtHome (env leaf5 (req (.rmw .add true))) (req (.rmw .add true)) true leaf5 (64 * 4096 + 8) ∧ writable leaf5 ∧
    readable (env leaf5 (req (.rmw .add true))) (req (.rmw .add true)) leaf5 (64 * 4096 + 8) ∧ counters leaf5 = false :=
  ⟨atHome_of _ (by decide +kernel), ⟨by decide, by decide⟩, ⟨by decide, by decide +kernel⟩, by decide⟩
theorem wit_home_cas : AtHome (env leaf5 (req (.cas false))) (req (.cas false)) true leaf5 (64 * 4096 + 8) ∧ writable leaf5 ∧
    readable (env leaf5 (req (.cas false))) (req (.cas false)) leaf5 (64 * 4096 + 8) ∧ counters leaf5 = false :=
  ⟨atHome_of _ (by decide +kernel), ⟨by decide, by decide⟩, ⟨by decide, by decide +kernel⟩, by decide⟩
theorem wit_home_counter_add : AtHome (env leafC5 (req .ctrAdd)) (req .ctrAdd) true leafC5 (64 * 4096 + 8) ∧ writable leafC5 ∧
    readable (env leafC5 (req .ctrAdd)) (req .ctrAdd) leafC5 (64 * 4096 + 8) ∧ counters leafC5 = true :=
  ⟨atHome_of _ (by decide +kernel), ⟨by decide, by decide⟩, ⟨by decide, by decide +kernel⟩, by decide⟩

def reqAt (k : ReqKind) (p : Phase) : Req := { req k with phase := p }

theorem wit_request_walk :
    (env leaf5 (reqAt .load .walk)).req? 1 = some (reqAt .load .walk) ∧ (env leaf5 (reqAt .load .walk)).up 0 = true ∧
      (env leaf5 (reqAt .load .walk)).openAt 0 1 0x5008 = none ∧
      (env leaf5 (reqAt .load .walk)).walk 0 1 0x5008 = some (.leaf 0 leaf5 81960 [(0, 0, 20), (1, 0, 19), (2, 0, 18), (3, 0, 17)]) := by
  decide +kernel
theorem wit_request_moved : (env leaf5 (reqAt .load (.answered .moved false))).req? 1 = some (reqAt .load (.answered .moved false)) := by
  decide +kernel
theorem wit_request_resetting :
    (env leaf5 (reqAt .load (.answered .resetting false))).req? 1 = some (reqAt .load (.answered .resetting false)) := by decide +kernel
theorem wit_request_dropped (a : Answer) : (reqAt .pref (.answered a false)).kind = .pref ∧
    (env leaf5 (reqAt .pref (.answered a false))).req? 1 = some (reqAt .pref (.answered a false)) := ⟨rfl, rfl⟩
theorem wit_request_resend :
    let s := env leaf5 (reqAt .load .resend)
    s.req? 1 = some (reqAt .load .resend) ∧ s.openAt 0 1 0x5008 = none ∧ (s.die (reqAt .load .resend).home).life ≠ .resetting ∧
      (reqAt .load .resend).mvd = 0 := by
  decide +kernel
theorem wit_request_performed :
    let r := reqAt .load (.answered (.performed [1, 2, 3, 4]) false)
    let s := env leaf5 r
    s.req? 1 = some r ∧ r.lanes = [{ slot := 0, data := [7, 0], expect := [0, 0] }] ∧ s.twinOf (threadKey 0 0) = none ∧
      (s.thread (threadKey 0 0)).first ≤ 1 := by
  decide +kernel
theorem wit_request_fault :
    let r := reqAt .load (.answered (.fault .miss 0) false)
    let s := env leaf5 r
    s.req? 1 = some r ∧ r.kind ≠ .pref ∧ s.inBlock r = true ∧ (s.group (s.groupKey r.tk)).ballast = [] := by
  decide +kernel
theorem wit_request_deferred :
    let r := reqAt .store (.answered (.fault .miss 0) false)
    let s := { env leaf5 r with threads := [(0, { stat := .wait, first := 2 : Thread })] }
    s.req? 1 = some r ∧ s.inBlock r = false ∧ (s.group (s.groupKey r.tk)).ballast = [] ∧ (mget s.threads (threadKey 0 0)).isSome = true ∧
      (s.thread (threadKey 0 0)).stat = .wait ∧ (s.thread (threadKey 0 0)).deferred = none ∧ (s.thread (threadKey 0 0)).owed = [] := by
  decide +kernel

/-! ### Coherence, threads, traps -/

def notice0 : Held := { die := 1, vas := 1, line := 0x5000, scope := .domain }
theorem wit_held_notice :
    let s := { base leaf5 with dies := [(0, { die0 leaf5 with heldIn := [notice0] })] }
    s.up 0 = true ∧ (s.die 0).heldIn = notice0 :: [] ∧ notice0 ∉ ([] : List Held) ∧
      (s.onWay fun b => b = .held notice0) = false := by decide +kernel
theorem wit_publish :
    let s := { env leaf5 (reqAt .load (.widening [0])) with dies := [(0, { die0 leaf5 with pubs := [1] })] }
    s.up 0 = true ∧ (s.die 0).pubs = 1 :: [] ∧
      writeBackAll s 0 (((s.die 0).l2.filter fun p => p.2.dirty ≠ 0 && p.2.covered).map (·.1)) = (s, true) ∧
      s.req? 1 = some (reqAt .load (.widening [0])) := by decide +kernel
theorem wit_widen_answer :
    let s := env leaf5 (reqAt .load (.answered (.performed []) true))
    s.up 0 = true ∧ s.req? 1 = some (reqAt .load (.answered (.performed []) true)) ∧ dropNonHome s 0 = (s, true) := by decide +kernel
theorem wit_conflict :
    let m : WakeMsg := { core := 0, slot := 0, key := .line 0x5000 0 }
    let s := { base leaf5 with dies := [(0, { die0 leaf5 with wakes := [m] })]
                               threads := [(0, { tx := [{ reads := [.line 0x5000 3] }] : Thread })] }
    s.up 0 = true ∧ (s.die 0).wakes = m :: [] ∧ m.all = false ∧ m.key = .line 0x5000 0 ∧ (s.thread 0).tx = [{ reads := [.line 0x5000 3] }] ∧
      (s.thread 0).stat ≠ .asleep ∧ (s.thread 0).doomed = false := by decide +kernel
theorem wit_wake :
    let m : WakeMsg := { core := 0, slot := 0, key := .line 0x5000 0 }
    let w : WakeEnt := { key := .line 0x5000 3, vec := 1 }
    let s := { base leaf5 with flights := [], dies := [(0, { die0 leaf5 with wakes := [m] })], cores := [(0, { wakes := [w] })]
                               threads := [(0, { stat := .asleep : Thread })] }
    s.up 0 = true ∧ (s.die 0).wakes = m :: [] ∧ m.all = false ∧ m.key = .line 0x5000 0 ∧ (s.thread (threadKey 0 0)).tx = [] ∧
      w ∈ (s.core m.core).wakes ∧ w.vec.testBit 0 = true ∧ (s.thread (threadKey 0 0)).stat = .asleep := by decide +kernel
theorem wit_wake_no_twin (x : Nat) :
    ({ base leaf5 with flights := [], threads := [(0, { stat := .asleep : Thread })] } : State).twinOf x = none := by
  rfl
theorem wit_token :
    let s := { base leaf5 with dies := [(0, { die0 leaf5 with tokenQ := [0] })] }
    s.up 0 = true ∧ (s.die 0).token = none ∧ (s.die 0).tokenQ = 0 :: [] := by decide +kernel
theorem wit_token_timeout :
    let s := { base leaf5 with dies := [(0, { die0 leaf5 with token := some 0 })], cores := [(0, { cycles := 2 ^ 24 })]
                               threads := [(0, { tx := [{}] : Thread })] }
    s.up 0 = true ∧ (s.die 0).token = some 0 ∧ (s.thread 0).tx ≠ [] ∧ (s.thread 0).doomed = false ∧
      (s.thread 0).txCycles + 2 ^ 24 ≤ (s.core (coreOfThread 0)).cycles := by decide +kernel

theorem wit_publish_confirm :
    let r := reqAt .load (.widening [])
    let s := env leaf5 r
    s.up 0 = true ∧ s.req? r.id = some r ∧ (s.onWay fun b => match b with | .confirm id _ => id = r.id | _ => false) = false ∧
      (widenCheck s r).1 = [] ∧ ∃ a t1, serveReq s { r with phase := .sent } = (.done a, t1) ∧ a ≠ .moved :=
  ⟨by decide +kernel, by decide +kernel, by decide +kernel, by decide +kernel, .performed [0, 0, 0, 0], _,
    Prod.ext (by decide +kernel) rfl, by decide⟩

theorem wit_thread_waiting :
    let th : Thread := { pend := [{ off := 3, dst := .reg 8, vals := [5] }] }
    let kn : Knot := { flight := 0, off := 0 }
    let s := { base leaf5 with threads := [(0, th)], cores := [(0, { knots := [kn] })], flights := [(0, { vas := 1, left := 1, natSize := 4 })] }
    let tk := threadKey (coreKey 0 0) 0
    s.up 0 = true ∧ mget s.threads tk = some th ∧ th.stat = .ret ∧ (s.groupOf tk).zeroing = 0 ∧ (s.groupOf tk).stopping = false ∧
      (∀ r ∈ s.reqs, r.ofThread tk = false) ∧ (s.quad (quadOfCore (coreOfThread tk))).table = [] ∧ (s.groupOf tk).ballast = [] ∧ th.cands = [] ∧ th.deferred = none ∧ th.next % 4 = 0 ∧
      th.wantToken = false ∧ th.doomed = false ∧ th.bend = .go ∧ th.twin = false ∧ th.glomer = false ∧
      (s.hdrOf tk).marionette = false ∧ (s.flightOf tk).session = 15 ∧
      (s.core (coreOfThread tk)).knot? (s.flightKey (s.groupKey tk)) false th.next = some kn ∧
      th.next + 4 ≤ (s.flightOf tk).natSize ∧ th.pend = [{ off := 3, dst := .reg 8, vals := [5] }] := by decide +kernel

def entry0 : BEntry := { vec := 1 }
/-- A thread waits at head 0, whose block is MOVI v5, -1 with S. -/
def waiting : State :=
  { base leaf5 with threads := [(0, { stat := .wait : Thread })]
                    cores := [(0, { table := [entry0], words := [(0, false, 0, 0xAC17FFFF)] })] }
theorem wit_bundle_select :
    let c : Choice := { entry := entry0, threads := [0], complete := false, prio := 0 }
    let ws : List (Nat × Bool) := [(0xAC17FFFF, true)]
    let t0 := takeBundle waiting (2 * coreKey 0 0 + 0) c
    let t1 := (fetchBlock t0 (coreKey 0 0) c.entry.flight c.entry.glomer c.entry.head 64 0).2.2
    waiting.up 0 = true ∧ mget waiting.bundles (2 * coreKey 0 0) = none ∧ selectEntry waiting (coreKey 0 0) = some c ∧
      0 < 2 ∧ fetchBlock t0 (coreKey 0 0) c.entry.flight c.entry.glomer c.entry.head 64 0 = (.got ws, 0, t1) ∧
      blockFault { glomer := c.entry.glomer, nregs := (t1.flight c.entry.flight).hdr.nregs, njoin := (t1.flight c.entry.flight).hdr.njoin
                   nteth := (t1.flight c.entry.flight).hdr.nteth } [] 0 (ws.map (·.1)) = none := by decide +kernel

/-- The block's page is moved: the bundle waits for its words. -/
theorem wit_bundle_held :
    let s := { waiting with
      cores := [(0, { table := [entry0] })], flights := [(0, { vas := 1, natBase := 0x5000, natSize := 64 })]
      dies := [(0, { die0 leaf5 with ranges := [{ vas := 1, start := 0x5000, npages := 1, mode := 1 }] })] }
    let c : Choice := { entry := entry0, threads := [0], complete := false, prio := 0 }
    selectEntry s (coreKey 0 0) = some c ∧
      (fetchBlock (takeBundle s (2 * coreKey 0 0 + 1) c) (coreKey 0 0) c.entry.flight c.entry.glomer c.entry.head 64 0).1 = .hold ∧
      mget { s with bundles := [(0, {})] }.bundles (2 * coreKey 0 0) ≠ none := by decide +kernel

/-- A marionette flight: wave slot 0 leads, wave slot 1 is its twin. -/
def pair (stores : List Effect) : State :=
  { base leaf5 with
    flights := [(0, { hdr := { nregs := 120, marionette := true, nwaves := 1 }, vas := 1, left := 1 })]
    groups := [(0, { wslots := [0, 1] })], waves := [(0, {}), (1, { twin := true })]
    threads := [(0, { blockNo := 1 }), (64, { twin := true, blockNo := 1, stores := stores })] }
theorem wit_marionette_same :
    let s := pair []
    let w := threadKey (coreKey 0 0) 64
    s.up 0 = true ∧ s.leaderOf w = some 0 ∧ 0 ≠ w ∧ (s.thread w).stat = .ret ∧ (s.thread 0).compared < (s.thread w).blockNo ∧
      leaderBlock (s.thread 0) (s.thread w).blockNo = some ({ no := 1 }, .go) ∧ blockDiff { no := 1 } .go (s.thread w) = 0 ∧
      scratchWaits s 0 (s.thread w).blockNo = false := by
  decide +kernel
theorem wit_marionette_differs :
    let s := pair [{ addr := 8 }]
    let w := threadKey (coreKey 0 0) 64
    s.up 0 = true ∧ s.leaderOf w = some 0 ∧ 0 ≠ w ∧ (s.thread w).stat = .ret ∧ (s.thread 0).compared < (s.thread w).blockNo ∧
      leaderBlock (s.thread 0) (s.thread w).blockNo = some ({ no := 1 }, .go) ∧ blockDiff { no := 1 } .go (s.thread w) ≠ 0 ∧
      (s.hdrOf 0).replay = false ∧ (s.thread 0).tx = [] := by decide +kernel

theorem wit_taking_a_trap :
    let ti : TrapInfo := { kind := .brk, off := 2 }
    let th : Thread := { cands := [ti] }
    let s := { base leaf5 with threads := [(0, th)] }
    let tk := threadKey (coreKey 0 0) 0
    s.up 0 = true ∧ 0 < 128 ∧ 0 < 512 ∧ mget s.threads tk = some th ∧ th.stat = .ret ∧ th.cands = [ti] ∧ ti.defer = false ∧ th.deferred = none ∧
      th.tx = [] ∧ th.bend = .go ∧ th.twin = false ∧ (s.groupOf tk).zeroing = 0 ∧ (s.flightOf tk).hdr.marionette = false ∧
      (s.flightOf tk).hdr.replay = false ∧ th.owed = [] ∧ (∀ r ∈ s.reqs, r.ofThread tk = false) ∧
      (s.quad (quadOfCore (coreOfThread tk))).table = [] := by decide +kernel

/-! ### Launching and trains -/

theorem wit_train_arrival :
    let tr : Train := { stat := .travelling }
    let s := { base leaf5 with trains := [(0, tr)] }
    s.up 0 = true ∧ (∀ p ∈ s.trains, p.2.from_ = 0 → p.2.stat ≠ .sending) ∧
      s.trains.find? (fun p => p.2.die = 0 && p.2.stat = .travelling) = some (0, tr) ∧ mget s.trains 0 = some tr ∧
      (s.pendingOn 0).length < 256 := by decide +kernel

/-- A launch header of 8 registers and one wave, whose code object is at 0x5080. -/
def launchWords (nregs : Nat) : List Nat :=
  [0x5080, nregs * 2 ^ 32 + 2 ^ 40, 6 + 0xFF * 2 ^ 56, 1 + 2 ^ 32, 1 + 2 ^ 32, 0, 0, 0, 0, 0, 0, 15, 0, 0, 0, 0]

/-- Page 5: the header, the code object's header, its knot table, its kernel table and its text; page 6, of counters: the doorbell. -/
def launchMem (nregs bell : Nat) : List Host.Cell :=
  cells (tableWords leaf5 ++ [(81968, leafC5 + 2 ^ 28)] ++ at8 0x40000 (launchWords nregs) ++
    at8 0x40080 [0x52454143 + 2 ^ 40 + 2 ^ 48 + 2 ^ 56, 0xC0 + 4 * 2 ^ 32, 0, 0x40 + 32 * 2 ^ 32, 0x80 + 64 * 2 ^ 32] ++
    [(0x400C0, 0xFFFFFFFF * 2 ^ 32), (0x40100, 4 * 2 ^ 32), (0x41000, bell)])

/-- The home TLB has both pages, so that no read changes the state. -/
def tlb2 : List Tlb := [{ vas := 1, page := 0x5000, leaf := leaf5 }, { vas := 1, page := 0x6000, leaf := leafC5 + 2 ^ 28 }]

def queue0 : Queue := { vas := 1, hbase := 0x5000, lslots := 4, pceil := 7, bell := 0x6000, desc := 0x42000 }
def intake0 (nregs : Nat) : Intake := { vas := 1, words := launchWords nregs, prio := 7 }
def launching (nregs bell : Nat) : State :=
  { base leaf5 with dies := [(0, { die0 leaf5 with tlb := tlb2, queues := [(0, queue0)], intake := [intake0 nregs] })], mem := launchMem nregs bell, tags := [(64, 16), (65, 16)] }

theorem fst_eq {α β : Type} {p : α × β} {a : α} (h : p.1 = a) : p = (a, p.2) := by rw [← h]
theorem snd_eq {α β : Type} {p : α × β} {b : β} (h : p.2 = b) : p = (p.1, b) := by rw [← h]

def headBytes (nregs : Nat) : List Byte := (launchWords nregs).flatMap (leBytes 8)
def launched : Flight :=
  { hdr := { code := 0x5080, nregs := 8, nwaves := 1, widths := [6, 0, 0, 0, 0, 0], producer := 255 }, vas := 1, natBase := 20800, natSize := 4
    gloBase := 20608, knotBase := 20672, knotCount := 1, left := 1 }

theorem both {α β : Type} {p : α × β} {a : α} {b : β} (h : p.1 = a ∧ p.2 = b) : p = (a, b) := by rw [← h.1, ← h.2]

theorem looks_at {nregs bell : Nat}
    (h : mget ((launching nregs bell).die 0).queues 0 = some queue0 ∧ (launching nregs bell).up 0 = true ∧
      ((launching nregs bell).pendingOn 0).length < 256 ∧ isTurn (launching nregs bell) 0 0 queue0 = true ∧
      (publishFor (launching nregs bell) 0 1 0x6000).map (fun t => dropNonHome t 0) = some (launching nregs bell, true) ∧
      agentRead (launching nregs bell) 0 1 0x6000 8 .ctrRead = (.done (.performed (leBytes 8 bell)), launching nregs bell) ∧
      leValue (leBytes 8 bell) = bell) :
    Looks (launching nregs bell) 0 0 queue0 (launching nregs bell) (launching nregs bell) bell :=
  { queue := h.1, up := h.2.1, running := ⟨rfl, rfl⟩, room := h.2.2.1, turn := h.2.2.2.1, fresh := h.2.2.2.2.1
    read := ⟨_, h.2.2.2.2.2⟩ }

theorem header_checked : checkHeader (launching 8 1) 0 1 (launchWords 8) 7 false = (.ok launched, launching 8 1) := both (by decide +kernel)

theorem wit_header_overrun :
    Looks (launching 8 17) 0 0 queue0 (launching 8 17) (launching 8 17) 17 ∧ queue0.taken < 17 ∧ 2 ^ queue0.lslots < 17 - queue0.taken :=
  ⟨looks_at (by decide +kernel), by decide, by decide⟩
theorem wit_header_take :
    Looks (launching 8 1) 0 0 queue0 (launching 8 1) (launching 8 1) 1 ∧ queue0.taken < 1 ∧ 1 - queue0.taken ≤ 2 ^ queue0.lslots ∧
      agentRead (launching 8 1) 0 1 0x5000 128 .read = (.done (.performed (headBytes 8)), launching 8 1) ∧
      (List.range 16).map (fun j => leValue (((headBytes 8).drop (8 * j)).take 8)) = launchWords 8 ∧
      checkHeader (launching 8 1) 0 1 (launchWords 8) 7 false = (.ok launched, launching 8 1) ∧
      releaseWide (launching 8 1) 0 = (launching 8 1, true) :=
  ⟨looks_at (by decide +kernel), by decide, by decide, both (by decide +kernel), by decide +kernel, header_checked,
   both (by decide +kernel)⟩
theorem wit_header_refuse :
    Looks (launching 0 1) 0 0 queue0 (launching 0 1) (launching 0 1) 1 ∧
      agentRead (launching 0 1) 0 1 0x5000 128 .read = (.done (.performed (headBytes 0)), launching 0 1) ∧
      (List.range 16).map (fun j => leValue (((headBytes 0).drop (8 * j)).take 8)) = launchWords 0 ∧
      leValue (((headBytes 0).drop 72).take 8) = 0 ∧
      checkHeader (launching 0 1) 0 1 (launchWords 0) 7 false = (.refuse 1, launching 0 1) ∧
      releaseWide (launching 0 1) 0 = (launching 0 1, true) :=
  ⟨looks_at (by decide +kernel), both (by decide +kernel), by decide +kernel, by decide +kernel, both (by decide +kernel),
   both (by decide +kernel)⟩

theorem wit_intake :
    (launching 8 1).up 0 = true ∧ ((launching 8 1).die 0).intake = intake0 8 :: [] ∧ (intake0 8).wait = 0 ∧ (intake0 8).words ≠ [] ∧
      checkHeader (launching 8 1) 0 1 (intake0 8).words 7 false = (.ok launched, launching 8 1) :=
  ⟨by decide +kernel, by decide +kernel, by decide, by decide, header_checked⟩
theorem wit_intake_refused :
    (launching 0 1).up 0 = true ∧ ((launching 0 1).die 0).intake = intake0 0 :: [] ∧ (intake0 0).wait = 0 ∧ (intake0 0).words[9]? = some 0 ∧
      checkHeader (launching 0 1) 0 1 (intake0 0).words 7 false = (.refuse 1, launching 0 1) :=
  ⟨by decide +kernel, by decide +kernel, by decide, by decide, both (by decide +kernel)⟩

def pending0 : Train := { stat := .pending }
/-- A train of one group of one wave waits on die 0, of which one core is listed. -/
def admitting (f : Flight) (cores : AMap Core) : State :=
  { base leaf5 with flights := [(0, f)], trains := [(0, pending0)], groups := [], waves := [], threads := [], cores := cores }
theorem wit_admit :
    let s := admitting launched [(0, {})]
    s.up 0 = true ∧ headTrain s 0 = some 0 ∧ coresFor s 0 0 [] = some [0] ∧ mget s.saved 0 = none := by decide +kernel
theorem wit_scratch_zeroed :
    let g : Group := { wslots := [0], pages := [0], zeroing := 1 }
    let s := { base leaf5 with groups := [(0, g)] }
    mget s.groups (groupKeyOf (coreKey 0 0) 0) = some g ∧ g.zeroing ≠ 0 := by decide +kernel

def resident0 : Train := { stat := .resident, groups := [0] }
theorem wit_kernel_preempt :
    let s := { base leaf5 with trains := [(0, resident0)] }
    s.up 0 = true ∧ mget s.trains 0 = some resident0 ∧ resident0.die = 0 ∧ resident0.stat = .resident ∧ (s.group 0).ended = false := by
  decide +kernel
theorem wit_stop_complete :
    let tr : Train := { stat := .stopping, groups := [0] }
    let s := { base leaf5 with trains := [(0, tr)], groups := [(0, { wslots := [0], stopping := true })], threads := [(0, { stat := .stopped })] }
    let live := tr.groups.filter fun gk => !(s.group gk).ended
    let t1 := live.foldl stopGroup s
    s.up 0 = true ∧ mget s.trains 0 = some tr ∧ tr.die = 0 ∧ tr.stat = .stopping ∧ tr.noSave = false ∧ live ≠ [] ∧
      (∀ gk ∈ live, groupStill t1 gk = true) ∧ (∀ gk ∈ tr.groups, groupQuiet t1 gk = true) := by decide +kernel
theorem wit_context_saved :
    let tr : Train := { stat := .saving, groups := [0] }
    let s := { base leaf5 with trains := [(0, tr)] }
    s.up 0 = true ∧ mget s.trains 0 = some tr ∧ tr.die = 0 ∧ tr.stat = .saving ∧ tr.noSave = false := by decide +kernel
theorem wit_train_end :
    let s := { base leaf5 with trains := [(0, resident0)], groups := [(0, { ended := true })], waves := [], threads := [] }
    s.up 0 = true ∧ mget s.trains 0 = some resident0 ∧ (∀ gk ∈ resident0.groups, groupDone s gk = true) ∧
      (∀ x ∈ (s.die 0).exits, x.train ≠ 0) ∧ releaseWide s 0 = (s, true) := by
  decide +kernel
theorem wit_end_report :
    let s := { base leaf5 with dies := [(0, { die0 leaf5 with ends := [0] })] }
    s.up 0 = true ∧ (s.die 0).ends = 0 :: [] ∧ (s.flight 0).left = 1 ∧ (s.flight 0).hdr.done = 0 := by decide +kernel

/-- Thirty-two groups of a train that may be pre-empted hold every accumulator bank of the die; a train of higher priority asks for one. -/
def crowded : State :=
  { base leaf5 with
    dies := [(0, { die0 leaf5 with poolBase := 0x80000, poolSize := 0x10000000 })]
    flights := [(0, { hdr := { preempt := true, nacc := 4, gpt := 32 } }), (1, { hdr := { nacc := 1 } })]
    trains := [(0, { stat := .resident }), (2 ^ 32, { flight := 1, stat := .pending, prio := 1 })]
    groups := (List.range 32).map (fun q => (groupKeyOf (4 * q) 0, { banks := [0, 1, 2, 3] })), waves := [], threads := [] }
theorem crowded_banks : (List.range 32).all (fun q => banksOf crowded q [] = []) = true := by decide +kernel
theorem crowded_no_core : coresFor crowded 0 (2 ^ 32) [] = none := by
  have hn : trainNeeds crowded (2 ^ 32) = [{ slots := 1, perWave := 2, banks := 1 }] := by decide +kernel
  have hf : ∀ c ∈ List.range 128, (!([] : List Nat).contains c &&
      fits crowded (coreKey 0 c) [] { slots := 1, perWave := 2, banks := 1 } (mgetD ([] : AMap Nat) (c / 4) 0)) = false := by
    intro c hc
    have hb := List.all_eq_true.1 crowded_banks (c / 4) (List.mem_range.2 (by have := List.mem_range.1 hc; omega))
    have hq : quadOfCore (coreKey 0 c) = c / 4 := by simp [quadOfCore, coreKey]
    simp only [decide_eq_true_eq] at hb
    simp [fits, hq, hb]
  unfold coresFor
  rw [hn]
  show (chooseCores crowded 0 [] [{ slots := 1, perWave := 2, banks := 1 }] [] []).map _ = none
  rw [chooseCores, List.find?_eq_none.2 (fun c hc h => by rw [hf c hc] at h; cases h)]
  rfl
theorem wit_preempt_start :
    crowded.up 0 = true ∧ (crowded.die 0).poolBase ≠ 0 ∧ (∀ p ∈ crowded.trains, p.2.die = 0 → p.2.stat ≠ .stopping ∧ p.2.stat ≠ .saving) ∧
      headTrain crowded 0 = some (2 ^ 32) ∧ coresFor crowded 0 (2 ^ 32) [] = none ∧
      pickStops crowded 0 (2 ^ 32) (stopCandidates crowded 0 (2 ^ 32)) (poolRoom crowded 0) [] = some [0] :=
  ⟨by decide +kernel, by decide +kernel, by decide +kernel, by decide +kernel, crowded_no_core, by decide +kernel⟩

/-! ### Engines and streamers -/

/-- A tether of one element in scratch, with a format, and one at a global address. -/
def tile (fmt : Nat) : List Word := [0, BitVec.ofNat 32 (2 ^ 25 + fmt * 2 ^ 28), 0x00010001, 1, 0, 0, 0, 0]
def globalTile (va fmt : Nat) : List Word := [BitVec.ofNat 32 va, BitVec.ofNat 32 (fmt * 2 ^ 28), 0x00010001, 1, 0, 0, 0, 0]

def mop (op : MOp) (stat : MStat) (t : List Word) : MEntry :=
  { id := 5, op := op, stat := stat, t1 := t, t2 := t, lanes := [0], dst := .reg 8, reqId := 2 }
/-- One quad with an engine entry, of a group with a scratch page and a bank. -/
def engine (e : MEntry) : State :=
  { base leaf5 with
    flights := [(0, { hdr := { scratch := 4096, nacc := 1 }, vas := 1, left := 1 })]
    groups := [(0, { wslots := [0], pages := [0], banks := [0] })], quads := [(0, { table := [e] })] }

theorem wit_front_perform :
    let e := mop .mzero .posted []
    (engine e).up 0 = true ∧ ((engine e).quad 0).entry? e.id = some e ∧ e.stat = .posted ∧ atFront (engine e) 0 e = true ∧
      frontTrap (engine e) e = none ∧ e.returned = false ∧ e.op ≠ .mmul ∧ e.op ≠ .mstream := by decide +kernel
theorem wit_front_returned :
    let e := { mop .mmul .posted (tile 0) with returned := true, sa := [254], sb := [(0, 254)] }
    (engine e).up 0 = true ∧ ((engine e).quad 0).entry? e.id = some e ∧ atFront (engine e) 0 e = true ∧ e.returned = true ∧
      (runPass (engine e) 0 e).2.1 = .ok () := by decide +kernel
theorem wit_front_ready :
    let e := mop .mmul .posted (tile 0)
    ((engine e).quad 0).entry? e.id = some e ∧ atFront (engine e) 0 e = true ∧ frontTrap (engine e) e = none ∧ e.op = .mmul ∧ e.done < e.steps ∧
      readScales (engine e) e = (.ok ([254], [(0, 254)]), engine e) ∧ latchTrap (engine e) e [254] [(0, 254)] = none := by
  refine ⟨by decide +kernel, by decide +kernel, by decide +kernel, by decide, by decide +kernel, both (by decide +kernel), by decide +kernel⟩
theorem wit_front_traps :
    let e := mop .mmul .posted []
    ((engine e).quad 0).entry? e.id = some e ∧ atFront (engine e) 0 e = true ∧
      frontTrap (engine e) e = some { kind := .tether, sub := 1 } ∧ (mget (engine e).threads (threadKey e.core 0)).isSome = true ∧
      e.lanes.Nodup ∧ ((engine e).thread (threadKey e.core 0)).first ≤ e.reqId := by decide +kernel
theorem wit_grant :
    let e := mop .mmul .ready (tile 0)
    let q := (engine e).quad 0
    (engine e).up 0 = true ∧ q.entry? e.id = some e ∧ (∀ x ∈ q.table, x.stat ≠ .stream ∧ x.stat ≠ .hold) ∧ pickEntry q = some e ∧
      e.pair = false := by decide +kernel
theorem wit_paired_hold :
    let e := mop .mmul .hold (tile 0)
    ((engine e).quad 0).entry? e.id = some e ∧ ((engine e).quad 0).table.find? (fun x => x.stat = .hold) = some e := by decide +kernel
theorem wit_pass_end :
    let e := mop .mmul .stream (tile 0)
    let t1 := (runPass (engine e) 0 e).2.2
    ((engine e).quad 0).entry? e.id = some e ∧ ((engine e).quad 0).table.find? (fun x => x.stat = .stream) = some e ∧
      runPass (engine e) 0 e = (1, .ok (), t1) ∧ e.op = .mmul ∧ e.steps ≤ e.done + 1 ∧ e.dst = .reg 8 ∧
      (mget t1.threads (threadKey e.core 0)).isSome = true ∧ (t1.thread (threadKey e.core 0)).first ≤ e.reqId := by decide +kernel
/-- A span of 128: two k-steps. -/
theorem wit_pass_next :
    let e := { mop .mmul .stream (tile 0) with
               t1 := [0, 0x02000000, 0x00800001, 128, 0, 0, 7, 0], t2 := [0, 0x02000000, 0x00010080, 1, 0, 0, 7, 0] }
    ((engine e).quad 0).entry? e.id = some e ∧ e.done + 1 < e.steps ∧ ((engine e).group e.group).stopping = false ∧
      (runPass (engine e) 0 e).2.1 = .ok () ∧ ((runPass (engine e) 0 e).2.2.quad 0).entry? e.id = some e := by decide +kernel
theorem wit_fetch_fault :
    let e := mop .mmul .stream (globalTile 0x7000 0)
    ((engine e).quad 0).entry? e.id = some e ∧ e.stat = .stream ∧ e.op = .mmul ∧
      (runPass (engine e) 0 e).2.1 = .fault .miss 0x7000 false 0 := by decide +kernel
theorem wit_fetch_held :
    let e := mop .mmul .stream (globalTile 0x5000 0)
    let s := { engine e with dies := [(0, { die0 leaf5 with ranges := [{ vas := 1, start := 0x5000, npages := 1 }] })] }
    (s.quad 0).entry? e.id = some e ∧ e.stat = .stream ∧ (runPass s 0 e).2.1 = .hold ∧
      ((runPass s 0 e).2.2.quad 0).entry? e.id = some e := by decide +kernel
theorem wit_mstat :
    let e := mop .mstat .perform (tile 0)
    ((engine e).quad 0).entry? e.id = some e ∧ e.stat = .perform ∧ e.op = .mstat ∧
      readSlice (engine e) e.group e.t1 (e.kidx * e.depth) e.depth e.jb e.id = (.ok [(0, 0)], engine e) ∧
      readColScales (engine e) e.group e.t1 e.jb (e.kidx * e.depth) e.id = (.ok [(0, 254)], engine e) :=
  ⟨by decide +kernel, by decide, by decide, both (by decide +kernel), both (by decide +kernel)⟩
theorem wit_mdrain :
    let e := mop .mdrain .perform (tile 3)
    ((engine e).quad 0).entry? e.id = some e ∧ e.stat = .perform ∧ e.op = .mdrain ∧ e.done = 0 ∧
      badElem ((engine e).quad 0) e (bankOf (engine e) e) = none ∧ (drainRows 0 e e.nrow (engine e)).2.1 = .ok () := by decide +kernel
theorem wit_mdrain_bad :
    let e := mop .mdrain .perform (tile 3)
    let s := { engine e with quads := [(0, { table := [e], acc := [(0, { r0 := 1 })] })] }
    (s.quad 0).entry? e.id = some e ∧ badElem (s.quad 0) e (bankOf s e) = some (0, 0, { r0 := 1 }) ∧
      e.lanes = [0] ∧ (mget s.threads (threadKey e.core 0)).isSome = true ∧ (s.thread (threadKey e.core 0)).deferred = none ∧
      (s.thread (threadKey e.core 0)).owed = [] := by decide +kernel
theorem wit_mzero :
    let e := mop .mzero .perform []
    ((engine e).quad 0).entry? e.id = some e ∧ e.stat = .perform ∧ e.op = .mzero := by decide +kernel

theorem wit_residues : (-534775296 : Int) ≤ -534775296 ∧ (534775295 : Int) < 534775296 := by decide

/-- A quad with a streamer entry that copies one element of scratch; its group has a reel. -/
def reel0 : Reel := { hdr := 0x100, nslot := 2, slotb := 16 }
def copyOf (stat : SStat) (byCtr : Bool) (src : List Word) : SEntry :=
  { id := 5, stat := stat, src := src, dst := tile 0, byCtr := byCtr, sync := if byCtr then 0x6000 else 0x100 }
def streamer (e : SEntry) : State :=
  { base leafC5 with
    dies := [(0, { die0 leafC5 with tlb := tlb2 })], mem := launchMem 8 3, tags := [(64, 16), (65, 16)]
    flights := [(0, { hdr := { scratch := 4096 }, vas := 1, left := 1 })]
    groups := [(0, { wslots := [0], pages := [0], reels := [reel0] })], quads := [(0, { queue := [e] })] }

theorem wit_stream_start :
    let e := copyOf .queued true (tile 0)
    let q := (streamer e).quad 0
    (streamer e).up 0 = true ∧ (∀ x ∈ q.queue, x.stat ≠ .moving) ∧ q.queue.find? (mayStart (streamer e) 0) = some e := by decide +kernel
theorem wit_granule :
    let e := copyOf .moving true (tile 0)
    ((streamer e).quad 0).queue.find? (fun x => x.stat = .moving) = some e ∧ e.kind ≠ .combine ∧
      (match (moveGranule (streamer e) e).1 with | .ok x => decide (x.kind = e.kind) | _ => false) = true := by decide +kernel
theorem wit_copy_fails :
    let e := copyOf .moving false (tile 0)
    ((streamer e).quad 0).queue.find? (fun x => x.stat = .moving) = some e ∧ e.byCtr = false ∧
      (streamer e).reel? e.group (e.sync % 2 ^ 18) = some reel0 ∧ reel0.watch = [] := by decide +kernel
theorem wit_copy_faults :
    let e := copyOf .moving true (globalTile 0x7000 0)
    ((streamer e).quad 0).queue.find? (fun x => x.stat = .moving) = some e ∧
      tryGranule (streamer e) 0 e = .fault .miss 0x7000 false 0 := by decide +kernel
theorem wit_copy_counter :
    let e := copyOf .written true (tile 0)
    ((streamer e).quad 0).queue.find? (fun x => x.stat = .written) = some e ∧ e.byCtr = true ∧ commitCopy (streamer e) e = (.ok 0, streamer e) ∧
      releaseWide (streamer e) 0 = (streamer e, true) ∧
      (agentCtrAdd (streamer e) 0 ((streamer e).flight ((streamer e).flightKey e.group)).vas e.sync 1).1 =
        .done (.performed (leBytes 8 3)) :=
  ⟨by decide +kernel, by decide, both (by decide +kernel), both (by decide +kernel), by decide +kernel⟩
theorem wit_copy_reel :
    let e := copyOf .written false (tile 0)
    ((streamer e).quad 0).queue.find? (fun x => x.stat = .written) = some e ∧ e.byCtr = false ∧
      (streamer e).reel? e.group (e.sync % 2 ^ 18) = some reel0 ∧ reel0.watch = [] := by decide +kernel
theorem wit_combine_resend :
    let e := { copyOf .refused true (tile 0) with kind := .combine, dst := globalTile 0x5000 9 }
    ((streamer e).quad 0).queue.find? (fun x => x.stat = .refused) = some e ∧ switchOf (streamer e) e = .ok 16 ∧
      (streamer e).isThere 16 = true := by decide +kernel

def contrib0 : Contrib :=
  { vas := 1, entry := { copyOf .sent true (tile 0) with kind := .combine, dst := globalTile 0x5000 9, con := 2 }, rows := 1, cols := 1, data := [4] }
def switch0 : State := { streamer contrib0.entry with dies := [(0, die0 leaf5), (16, { die0 leaf5 with contribs := [contrib0] })] }
theorem wit_switch :
    switch0.up 16 = true ∧ (switch0.die 16).contribs = contrib0 :: [] ∧
      (∀ x ∈ (switch0.die 16).combines, ¬(x.vas = contrib0.vas ∧ x.key = contrib0.entry.key)) ∧ combineUse (switch0.die 16) < 4096 ∧
      ncon contrib0.entry.con ≠ 1 ∧ tFmt contrib0.entry.dst ≠ 3 := by decide +kernel
def combine0 : Combine := { vas := 1, dst := globalTile 0x5000 9, rows := 1, cols := 1, con := 2, sum := [4], next := 1, who := [5] }
theorem wit_switch_timeout :
    let s := { switch0 with
      dies := [(0, die0 leaf5), (16, { die0 leaf5 with combines := [combine0] })]
      mem := launchMem 8 3 ++ cells ((tableWords leaf5).map fun p => (16 * 2 ^ 48 + p.1, p.2)) }
    s.up 16 = true ∧ (s.die 16).combines.find? (fun x => x.vas = 1 && x.key.toNat = 0) = some combine0 ∧ combine0.fault = 0 ∧
      tFmt combine0.dst ≠ 3 ∧ (engMap (combineWord 16 combine0) combine0.sum.zipIdx s).1 = .ok [0] := by decide +kernel
theorem wit_counter_add :
    let a : CombAdd := { id := 5, vas := 1, ctr := 0x6000, ready := true }
    let s := { streamer contrib0.entry with dies := [(0, { die0 leafC5 with tlb := tlb2, combAdds := [a] })] }
    (s.die 0).combAdds.find? (fun a => a.ready && a.fault.isNone && quadOfCore (coreOfGroup a.group) = 0 * 32 + 0
        && !((s.die 0).combAdds.any fun b => b.group = a.group && b.seq < a.seq)) = some a ∧
      releaseWide s 0 = (s, true) ∧ (agentCtrAdd s 0 a.vas a.ctr 1).1 = .done (.performed (leBytes 8 3)) :=
  ⟨by decide +kernel, both (by decide +kernel), by decide +kernel⟩

/-! ### Rings of a die kernel -/

/-- A die with a pool, whose command ring holds one command. -/
def poolMem (op seq : Nat) : List Host.Cell :=
  cells [(0x80000, 6), (0x80018, 1), (0x80400, op), (0x80408, seq)]
def dieP : Die := { die0 leaf5 with poolBase := 0x80000, poolSize := 0x100000, sailBase := 0x200000, sailSize := 4096 }
def commanded (op seq : Nat) (th : Thread) : State :=
  { base leaf5 with dies := [(0, dieP), (1, dieP)], mem := poolMem op seq, threads := [(0, th)] }

def fault0 : FaultWait := { va := 0x7000, vas := 1 }
def ent0 : FaultEnt := { seq := 1, vas := 1, page := 7 }
def queued (fents : List FaultEnt) (fqTail : Word) : State :=
  { base leaf5 with dies := [(0, { die0 leaf5 with faults := [fault0], fqLog := 4, fqBase := 0x90000, fents := fents, fqTail := fqTail })] }
theorem wit_fault_queue :
    let s := queued [] 0
    s.up 0 = true ∧ (s.die 0).faults = fault0 :: [] ∧ 4 ≤ (s.die 0).fqLog ∧ (s.die 0).fqLog ≤ 16 ∧
      count32 (s.die 0).fqTail.toNat (s.die 0).fqHead.toNat < 2 ^ (s.die 0).fqLog ∧ (s.die 0).fents = [] := by decide +kernel
theorem wit_fault_merge :
    let s := queued [ent0] 1
    count32 (s.die 0).fqTail.toNat (s.die 0).fqHead.toNat < 2 ^ (s.die 0).fqLog ∧ (s.die 0).fents = [ent0] ∧
      (ent0.vas = fault0.vas ∧ ent0.page = fault0.va / 4096 ∧ ent0.kind = fault0.kind ∧
        count32 ent0.count (s.die 0).fqHead.toNat < count32 (s.die 0).fqTail.toNat (s.die 0).fqHead.toNat) := by decide +kernel
theorem wit_trap_record :
    let s := { commanded 0 0 {} with dies := [(0, { dieP with traps := [{ who := 5 }, { thread := some 9 }] })] }
    s.up 0 = true ∧ (s.die 0).traps = [{ who := 5 }] ++ { thread := some 9 } :: [] ∧ (∀ x ∈ [({ who := 5 } : TrapRec)], x.who ≠ 0) ∧
      (s.die 0).poolBase ≠ 0 ∧ s.poolGood 0 = true ∧ 6 ≤ s.pool 0 0 8 ∧ s.pool 0 0 8 ≤ 14 ∧
      count32 (s.pool 0 0x10 4) (s.pool 0 8 4) < 2 ^ (s.pool 0 0 8) := by decide +kernel
theorem wit_exit_record :
    let x : ExitRec := { words := 1 :: 2 :: List.replicate 14 0 }
    let s := { commanded 0 0 {} with dies := [(0, { dieP with exits := [x] })] }
    (s.die 0).exits = x :: [] ∧ x.session = none ∧ (s.die 0).poolBase ≠ 0 ∧
      (s.ram 0 ((s.die 0).poolBase.toNat + 0x800 + 128 * ((s.die 0).exitNext % 16) + 8) 8).testBit 32 = false ∧ x.words[1]? = some 2 ∧
      x.words[15]? = some 0 := by
  decide +kernel

theorem takes_at {s : State} {op seq : Nat}
    (h : s.up 0 = true ∧ (s.die 0).ckpt = none ∧ (s.die 0).poolBase ≠ 0 ∧ s.poolGood 0 = true ∧ s.pool 0 0x18 4 ≠ s.pool 0 0x14 4 ∧
      s.pool 0 (0x400 + 16 * (s.pool 0 0x14 4 % 64)) 8 = op + 2 ^ 16 * 0 + 2 ^ 23 * 0 ∧
      s.pool 0 (0x408 + 16 * (s.pool 0 0x14 4 % 64)) 8 = seq ∧ (1 ≤ op ∧ op ≤ 7 ∧ 0 < 128 ∧ 0 < 512)) :
    ∃ t, Takes s t 0 op 0 0 seq :=
  ⟨_, { up := h.1, runs := h.2.1, pool := h.2.2.1, header := h.2.2.2.1, some := h.2.2.2.2.1, word := h.2.2.2.2.2.1, seq := h.2.2.2.2.2.2.1, small := h.2.2.2.2.2.2.2
        taken := rfl }⟩

def parked0 : Thread := { stat := .parked, parkSeq := some 3, parkKey := 0, park := some { kind := .brk } }
theorem wit_resume_kill : (∃ t, Takes (commanded 1 3 parked0) t 0 1 0 0 3) ∧ (∃ t, Takes (commanded 2 3 parked0) t 0 2 0 0 3) ∧
    Named (commanded 1 3 parked0) 0 0 0 3 0 ∧ (mget (commanded 2 3 parked0).groups ((commanded 2 3 parked0).groupKey 0)).isSome = true :=
  ⟨takes_at (by decide +kernel), takes_at (by decide +kernel), ⟨by decide +kernel, by decide +kernel, by decide +kernel⟩, by decide +kernel⟩
theorem wit_kill_group : (∃ t, Takes (commanded 3 0 {}) t 0 3 0 0 0) ∧ (∃ t, Takes (commanded 4 0 {}) t 0 4 0 0 0) ∧
    NamesGroup (commanded 3 0 {}) 0 0 0 0 (groupKeyOf (coreKey 0 0) 0) ∧ NamesGroup (commanded 4 3 parked0) 0 0 0 3 (groupKeyOf (coreKey 0 0) 0) ∧
    ((commanded 3 0 {}).group (groupKeyOf (coreKey 0 0) 0)).ended = false ∧ ((commanded 3 0 {}).group (groupKeyOf (coreKey 0 0) 0)).ballast = [] ∧
    ((commanded 4 0 {}).flight ((commanded 4 0 {}).flightKey (groupKeyOf (coreKey 0 0) 0))).faulted = false ∧
    ((commanded 4 0 {}).flight ((commanded 4 0 {}).flightKey (groupKeyOf (coreKey 0 0) 0))).done = false :=
  ⟨takes_at (by decide +kernel), takes_at (by decide +kernel), .inr ⟨⟨by decide +kernel, by decide +kernel⟩, {}, by decide +kernel, rfl⟩,
   .inl ⟨0, by decide +kernel, by decide +kernel, by decide +kernel⟩, by decide +kernel, by decide +kernel, by decide +kernel, by decide +kernel⟩
/-- The partner's supervisor has given an area. -/
def mirrored (op : Nat) (ckpt : Option Nat) : State :=
  { commanded op 0 {} with dies := [(0, { dieP with ckpt := ckpt }), (partnerOf 0, dieP)]
                           mem := poolMem op 0 ++ cells [(partnerOf 0 * 2 ^ 48 + 0x80030, 0x300000)] }
theorem wit_checkpoint : (∃ t, Takes (mirrored 5 none) t 0 5 0 0 0 ∧ peerBase t 0 ≠ 0) ∧
    (mirrored 0 (some 1)).up 0 = true ∧ ((mirrored 0 (some 1)).die 0).ckpt = some 1 :=
  ⟨⟨_, { up := by decide +kernel, runs := by decide +kernel, pool := by decide +kernel, header := by decide +kernel, some := by decide +kernel, word := by decide +kernel
         seq := by decide +kernel, small := by decide, taken := rfl }, by decide +kernel⟩, by decide +kernel, by decide +kernel⟩

def wait0 : FaultWait := { va := 0x7000, vas := 1, src := .dispatcher, who := 7 }
def answered (op : Nat) : State :=
  { commanded op 3 {} with
    dies := [(0, { dieP with fents := [{ seq := 3, waiters := [wait0] }], queues := [(0, { wait := 7 })], rings := [(0, { wait := 7, state := 2 })] })] }
theorem wit_retryfault : (∃ t, Takes (answered 6) t 0 6 0 0 3) ∧ (∃ t, Takes (answered 7) t 0 7 0 0 3) ∧
    ((answered 6).die 0).fents.find? (fun x => x.seq = 3) = some { seq := 3, waiters := [wait0] } ∧ wait0.src ≠ .thread ∧
    ((answered 6).die 0).adds = [] ∧
    (∀ p ∈ (answered 7).quads, (∀ x ∈ p.2.queue, x.id ≠ wait0.who) ∧ ∀ x ∈ p.2.table, x.id ≠ wait0.who) ∧
    (∀ r ∈ (answered 7).reqs, r.id ≠ wait0.who) ∧
    (∀ p ∈ (answered 7).dies, (∀ x ∈ p.2.combines, x.fault ≠ wait0.who) ∧ ∀ x ∈ p.2.combAdds, x.id ≠ wait0.who) :=
  ⟨takes_at (by decide +kernel), takes_at (by decide +kernel), by decide +kernel, by decide, by decide +kernel, by decide +kernel,
   by decide +kernel, by decide +kernel⟩

/-! ### Services, sessions -/

/-- A SYSCALL of a service, with an argument; its area stands at byte 0 of the group's scratch. -/
def call (service arg : Nat) : Req :=
  { req .syscall with lanes := [{ slot := 0, data := [BitVec.ofNat 32 service, BitVec.ofNat 32 arg] }], phase := .act, dst := .reg 8 }
def area : Nat := 0x7F * 2 ^ 18
def dieS : Die := { die0 leaf5 with tlb := tlb2, sailBase := 0x200000, sailSize := 4096 }
def calling (d : Die) (r : Req) (ws : List Nat) : State :=
  { base leaf5 with
    dies := [(0, d), (16, { die0 leaf5 with memSize := 2 ^ 24 })], mem := launchMem 8 1 ++ cells (at8 (2 ^ 60) ws), tags := [(64, 16), (65, 16)]
    flights := [(0, { hdr := { scratch := 4096 }, vas := 1, left := 1 })], groups := [(0, { wslots := [0], pages := [0] })], reqs := [r] }

theorem calls_at {s : State} {r : Req} {n : Nat}
    (h : s.req? r.id = some r ∧ r.kind = .syscall ∧ r.phase = .act ∧ s.up r.die = true ∧ (s.die r.die).ckpt = none ∧ mayGo s r = true ∧
      r.service = n) : Calls s r n := ⟨h.1, h.2.1, h.2.2.1, h.2.2.2.1, h.2.2.2.2.1, h.2.2.2.2.2.1, h.2.2.2.2.2.2⟩
theorem area_at {s : State} {r : Req} {n : Nat} {ws : List Nat}
    (h : bits r.arg 24 18 = 0x7F ∧ scratchTrap s (s.groupKey r.tk) r.arg n 4 = none ∧
      (List.range (n / 8)).map (fun i => fieldAt (s.readScratch (s.groupKey r.tk) r.arg n) (8 * i) 8) = ws) : Area s r n ws :=
  ⟨h.1, h.2.1, h.2.2.symm⟩

/-- What an answer asks of the calling thread. -/
theorem wit_answers : ∃ l, (call 0 5).lanes = [l] ∧ (calling dieS (call 0 5) []).twinOf (threadKey 0 l.slot) = none ∧
    ((calling dieS (call 0 5) []).thread (threadKey 0 l.slot)).first ≤ (call 0 5).id :=
  ⟨_, rfl, by decide +kernel, by decide +kernel⟩
theorem wit_echo : Calls (calling dieS (call 0 5) []) (call 0 5) 0 := calls_at (by decide +kernel)

def qdesc (vas : Nat) : List Nat := [0x5000, 4, 0x6000, vas, 0, 0, 0, 0]
def full : Die := { dieS with queues := (List.range 64).map fun i => (i, { vas := 1 }) }
/-- No frame of the sail region has a page tag of a partition, and no line of it is bad. -/
theorem sail_clear (s : State) (h : s.tags = [(64, 16), (65, 16)] ∧ s.bad = []) (a : Nat) (lo : dieS.sailBase ≤ a)
    (hi : a < dieS.sailBase + dieS.sailSize) : mgetD s.tags (tagKey 0 a) 0 = 0 ∧ mgetD s.bad (badKey 0 a) 0 = 0 := by
  have e : a / 4096 = 512 := by simp only [dieS] at lo hi; omega
  simp [h.1, h.2, tagKey, e, mgetD, mget]
theorem wit_qreg :
    (Calls (calling dieS (call 1 area) (qdesc 0)) (call 1 area) 1 ∧ Area (calling dieS (call 1 area) (qdesc 0)) (call 1 area) 64 (qdesc 0) ∧
      descOk (qdesc 0) = true ∧ mget dieS.queues 0 = none ∧ dieS.sailBase % 64 = 0 ∧ 64 ≤ dieS.sailSize ∧
      dieS.sailBase + dieS.sailSize ≤ dieS.memSize ∧ (dieS.slotOf 1).isSome = true) ∧
    (Calls (calling full (call 1 area) (qdesc 0)) (call 1 area) 1 ∧ Area (calling full (call 1 area) (qdesc 0)) (call 1 area) 64 (qdesc 0) ∧
      ∀ i < 64, (mget full.queues i).isSome = true) ∧
    Area (calling dieS (call 1 area) [1, 0, 0, 0, 0, 0, 0, 0]) (call 1 area) 64 [1, 0, 0, 0, 0, 0, 0, 0] ∧
      descOk [1, 0, 0, 0, 0, 0, 0, 0] = false :=
  ⟨⟨calls_at (by decide +kernel), area_at (by decide +kernel), by decide +kernel, by decide, by decide, by decide, by decide, by decide⟩,
   ⟨calls_at (by decide +kernel), area_at (by decide +kernel), by decide +kernel⟩, area_at (by decide +kernel), by decide +kernel⟩
theorem wit_qhalt :
    Calls (calling full (call 2 3) []) (call 2 3) 2 ∧ mget ((calling full (call 2 3) []).die 0).queues (call 2 3).arg = some { vas := 1 } ∧
      mget ((calling { dieS with queues := [(3, { vas := 2 })] } (call 2 3) []).die 0).queues (call 2 3).arg = some { vas := 2 } ∧
      Calls (calling { dieS with queues := [(3, { vas := 2 })] } (call 2 3) []) (call 2 3) 2 :=
  ⟨calls_at (by decide +kernel), by decide +kernel, by decide +kernel, calls_at (by decide +kernel)⟩
theorem wit_map_wrong : Calls (calling dieS (call 3 area) [1, 1, 0, 0]) (call 3 area) 3 ∧
    Area (calling dieS (call 3 area) [1, 1, 0, 0]) (call 3 area) 32 [1, 1, 0, 0] ∧
    mapAreaOk (calling dieS (call 3 area) [1, 1, 0, 0]) 1 [1, 1, 0, 0] = false :=
  ⟨calls_at (by decide +kernel), area_at (by decide +kernel), by decide +kernel⟩
/-- MAP of page 7, readable and writable, to frame 70. -/
theorem wit_map : let s := calling dieS (call 3 area) [0x7000, 1, 3, 0]
    Calls s (call 3 area) 3 ∧ Area s (call 3 area) 32 [0x7000, 1, 3, 0] ∧ mapAreaOk s 1 [0x7000, 1, 3, 0] = true ∧ bits 3 24 23 = 0 ∧
      (mgetD (s.die 0).rings 0 {}).head = (mgetD (s.die 0).rings 0 {}).tail ∧ s.walkRoot 0 1 0x7000 = some .absent ∧ frameOk s 1 0 (areaLeaf 3 + 2 ^ 28 * 70) = true ∧
      count32 (s.die 0).bsTail.toNat (s.die 0).bsHead.toNat ≠ 256 :=
  ⟨calls_at (by decide +kernel), area_at (by decide +kernel), by decide +kernel, by decide +kernel, by decide +kernel, by decide +kernel,
   by decide +kernel, by decide +kernel⟩
theorem wit_unmap : let s := calling dieS (call 4 area) [0x5000, 1]
    Calls s (call 4 area) 4 ∧ Area s (call 4 area) 16 [0x5000, 1] ∧ count32 (s.die 0).bsTail.toNat (s.die 0).bsHead.toNat ≠ 256 :=
  ⟨calls_at (by decide +kernel), area_at (by decide +kernel), by decide +kernel⟩
theorem wit_window : let s := calling dieS (call 5 area) [0x5000, 4096, 16 + 2 ^ 8, 0]
    Calls s (call 5 area) 5 ∧ Area s (call 5 area) 32 [0x5000, 4096, 16 + 2 ^ 8 * 1, 0] ∧ functionVas s 16 1 = some 1 ∧
      windowHome s 0 1 0x5000 (4096 / 4096) = true ∧ (s.die 16).windows.length < 64 :=
  ⟨calls_at (by decide +kernel), area_at (by decide +kernel), by decide +kernel, by decide +kernel, by decide +kernel⟩
theorem wit_other_services : Calls (calling dieS (call 7 0) []) (call 7 0) 7 ∧
    Calls (calling dieS (call (2 ^ 31) 0) []) (call (2 ^ 31) 0) (2 ^ 31) :=
  ⟨calls_at (by decide +kernel), calls_at (by decide +kernel)⟩

/-- A TRACE SYSCALL of an OP on session 2, whose descriptor is at 0x5200. -/
def tracing (op : Nat) (sessions : AMap Session) : State :=
  { calling dieS (call 6 area) [op + 2 ^ 8 * 2, 0x5200, 0, 0] with sessions := sessions }
def session0 (stat : Nat) : Session := { vas := 1, num := 2, desc := 0x5200, stat := stat }
theorem trace_at {op : Nat} {m : AMap Session}
    (h : bits (call 6 area).arg 24 18 = 0x7F ∧ scratchTrap (tracing op m) ((tracing op m).groupKey (call 6 area).tk) (call 6 area).arg 32 4 = none ∧
      (List.range (32 / 8)).map (fun i => fieldAt ((tracing op m).readScratch ((tracing op m).groupKey (call 6 area).tk) (call 6 area).arg 32) (8 * i) 8) =
        [op + 2 ^ 8 * 2, 0x5200, 0, 0]) : TraceArea (tracing op m) (call 6 area) op 2 0x5200 := ⟨by decide, area_at h⟩
theorem wit_trace_again : Calls (tracing 1 [(10, session0 1)]) (call 6 area) 6 ∧ TraceArea (tracing 1 [(10, session0 1)]) (call 6 area) 1 2 0x5200 ∧
    mget (tracing 1 [(10, session0 1)]).sessions (1 * 8 + 2) = some (session0 1) :=
  ⟨calls_at (by decide +kernel), trace_at (by decide +kernel), by decide +kernel⟩
theorem wit_trace_stop : TraceArea (tracing 2 []) (call 6 area) 2 2 0x5200 ∧ mget (tracing 2 []).sessions (1 * 8 + 2) = none ∧
    TraceArea (tracing 2 [(10, session0 3)]) (call 6 area) 2 2 0x5200 ∧ (session0 3).stat = 3 ∧
    TraceArea (tracing 2 [(10, session0 1)]) (call 6 area) 2 2 0x5200 ∧ (session0 1).stat = 1 ∧ (session0 1).runs = [] ∧
    (session0 1).vas = (call 6 area).vas ∧ obsHolds (tracing 2 [(10, session0 1)]) 10 none = false :=
  ⟨trace_at (by decide +kernel), by decide, trace_at (by decide +kernel), rfl, trace_at (by decide +kernel), rfl, rfl, rfl, by decide +kernel⟩
theorem wit_trace_status : TraceArea (tracing 3 [(10, session0 1)]) (call 6 area) 3 2 0x5200 ∧
    TraceArea (tracing 4 [(10, session0 1)]) (call 6 area) 4 2 0x5200 ∧ TraceArea (tracing 4 [(10, session0 3)]) (call 6 area) 4 2 0x5200 ∧
    (session0 3).stat ≠ 1 ∧ (tracing 4 [(10, session0 3)]).sessionBusy 1 10 = false :=
  ⟨trace_at (by decide +kernel), trace_at (by decide +kernel), trace_at (by decide +kernel), by decide, by decide +kernel⟩

def opening : State :=
  { tracing 1 [] with mem := launchMem 8 1 ++ cells ([(0x42200, 0x8000), (0x42208, 7)] ++ at8 (2 ^ 60) [1 + 2 ^ 8 * 2, 0x6200, 0, 0])
                      tags := [(64, 16), (66, 16)] }
def descBytes : List Byte := leBytes 8 0x8000 ++ leBytes 8 7 ++ List.replicate 240 0
theorem wit_trace_open :
    let s := { opening with dies := [(0, { dieS with tlb := [{ vas := 1, page := 0x6000, leaf := leaf5 + 2 * 2 ^ 28 }] })] }
    Calls s (call 6 area) 6 ∧ TraceArea s (call 6 area) 1 2 0x6200 ∧ mget s.sessions (1 * 8 + 2) = none ∧
      dispRead s 0 1 0x6200 256 false = (.bytes descBytes, s) ∧ s.req? (call 6 area).id = some (call 6 area) ∧
      sessionOk { vas := 1, num := 2, desc := 0x6200, words := (List.range 32).map fun i => fieldAt descBytes (8 * i) 8, stat := 1, pass := 1 } = true :=
  ⟨calls_at (by decide +kernel), ⟨by decide, area_at (by decide +kernel)⟩, by decide, both (by decide +kernel), by decide +kernel, by decide +kernel⟩

def rec0 : TraceRec := { session := 10 }
def recording (d : Die) (sessions : AMap Session) : State :=
  { base leaf5 with dies := [(0, d)], groups := [(0, { wslots := [0], trace := [rec0] })], sessions := sessions }
theorem wit_record :
    let s := recording (die0 leaf5) []
    s.up 0 = true ∧ (s.die 0).traceHold = [] ∧ frontRecords s 0 = (0, rec0) :: [] ∧ writeRecord s 0 rec0 = (.done, s) :=
  ⟨by decide +kernel, by decide, by decide +kernel, both (by decide +kernel)⟩
theorem wit_record_held :
    let s := recording { die0 leaf5 with traceHold := [(0, rec0)] } []
    s.up 0 = true ∧ (s.die 0).traceHold = (0, rec0) :: [] ∧ heldReady s 0 (0, rec0) = true ∧ writeRecord s 0 rec0 = (.done, s) :=
  ⟨by decide +kernel, by decide, by decide +kernel, both (by decide +kernel)⟩
theorem wit_record_moved :
    let s := recording { die0 leaf5 with ranges := [{ vas := 1, start := 0x5000, npages := 1, mode := 1 }] } [(10, session0 1)]
    (writeRecord s 0 rec0).1 = .moved ∧ frontRecords s 0 = (0, rec0) :: [] ∧ ((writeRecord s 0 rec0).2.die 0).traceHold = [] := by
  decide +kernel

def sampling : State :=
  { base leaf5 with flights := [(0, { vas := 1, session := 2 })], cores := [(0, { cycles := 1000 })]
                    sessions := [(10, { session0 1 with words := [0, 2 ^ 12] })] }
theorem wit_sample :
    dueSession sampling (coreKey 0 0) = some (10, { session0 1 with words := [0, 2 ^ 12] }) ∧
      leastBy (fun x => (slotOf x + 512 - (sampling.core (coreKey 0 0)).sampled - 1) % 512) (sampleThreads sampling (coreKey 0 0) 10) = some 0 ∧
      sampling.attached (sampling.flightKey (sampling.groupKey 0)) = some (10, { session0 1 with words := [0, 2 ^ 12] }) ∧
      coreOfGroup (sampling.groupKey 0) = coreKey 0 0 ∧ (sampling.flight (sampling.flightKey (sampling.groupKey 0))).hdr.tmask = 0 := by
  decide +kernel

/-- A session of MODE 1 with NPASS passes, whose flight of pass 1 is done. -/
def passes (npass : Nat) : Session := { session0 1 with words := [0, 2 ^ 5 + 2 ^ 8 * npass] }
def passing (npass : Nat) : State :=
  { base leaf5 with flights := [(0, { vas := 1, session := 2, done := true })], sessions := [(10, passes npass)] }
theorem wit_pass_last :
    (passing 1).up 0 = true ∧ (passing 1).sessions = [(10, passes 1)] ∧ (passes 1).mode = 1 ∧ (passes 1).stat = 1 ∧
      (∃ f ∈ (passing 1).flights, f.2.sessionKey = some 10 ∧ f.2.reg = (passes 1).reg ∧ f.2.pass = (passes 1).pass ∧ f.2.done = true ∧ (passing 1).dispatcherOf f.1 = 0) ∧
      bits ((passes 1).word 8) 11 8 ≤ (passes 1).pass := by decide +kernel
theorem wit_pass_next' :
    (passes 2).pass < bits ((passes 2).word 8) 11 8 ∧ flushPartition (passing 2) (passes 2).vas = (passing 2, true) ∧ (passes 2).snaps = [] ∧
      (passing 2).sessions = [(10, passes 2)] :=
  ⟨by decide +kernel, both (by decide +kernel), rfl, rfl⟩

/-! ### The bridle, shootdowns, copy rings -/

theorem wit_links : 0 < 2048 ∧ 1 < 2048 ∧ linked 0 1 = true ∧ ({} : Link).retired = false ∧ ({} : Link).crc = false ∧
    ({ crc := true } : Link).crc = true ∧ ({ crc := true } : Link).replays < 15 ∧ ({ crc := true, replays := 15 } : Link).replays = 15 := by decide
theorem wit_router_reset :
    let s := { base leaf5 with dies := [(0, { die0 leaf5 with router := true })], links := [(1, {})] }
    (s.die 0).router = true ∧ (∀ p ∈ s.links, (p.1 / 2048 = 0 ∨ p.1 % 2048 = 0) → p.2.crc = false ∧ p.2.wire = [] ∧ p.2.buf = []) := by decide +kernel

/-- A die whose send ring holds one message. -/
def sending (ws : List Nat) : State :=
  { base leaf5 with dies := [(0, { die0 leaf5 with bsBase := 0x90000, bsTail := 1 })], mem := cells (at8 0x90000 ws) }
theorem sends_at {ws : List Nat} {m : Msg}
    (h : (sending ws).up 0 = true ∧ ((sending ws).die 0).bsHead ≠ ((sending ws).die 0).bsTail ∧
      Msg.ofBytes ((sending ws).ramBytes 0 (((sending ws).die 0).bsBase.toNat + 64 * (((sending ws).die 0).bsHead.toNat % 256)) 64) = m ∧
      m = { m with w0 := m.w0 / 2 ^ 39 * 2 ^ 39 + 2 ^ 28 * 0 + m.w0 % 2 ^ 28 }) : SendsNext (sending ws) 0 m :=
  ⟨h.1, h.2.1, m, h.2.2.1.symm, h.2.2.2⟩
theorem wit_send :
    SendsNext (sending [5 + 2 ^ 16]) 0 { w0 := 5 + 2 ^ 16 } ∧ ({ w0 := 5 + 2 ^ 16 } : Msg).wellFormed = true ∧
      (((sending [5 + 2 ^ 16]).die 0).slotOf ({ w0 := 5 + 2 ^ 16 } : Msg).vas).isSome = true ∧ ({ w0 := 5 + 2 ^ 16 } : Msg).type < 16 ∧
      ({ w0 := 5 + 2 ^ 16 } : Msg).mc = false ∧ ({ w0 := 5 + 2 ^ 16 } : Msg).dst ∈ (sending [5 + 2 ^ 16]).members ({ w0 := 5 + 2 ^ 16 } : Msg).vas ∧
      (sending [5 + 2 ^ 16]).isThere ({ w0 := 5 + 2 ^ 16 } : Msg).dst = true :=
  ⟨sends_at (by decide +kernel), by decide, by decide +kernel, by decide, by decide, by decide +kernel, by decide +kernel⟩
theorem wit_send_multicast :
    let m : Msg := { w0 := 0x11 + 2 ^ 16, w1 := 0x5000, w2 := 1 }
    SendsNext (sending [0x11 + 2 ^ 16, 0x5000, 1]) 0 m ∧ m.wellFormed = true ∧
      (((sending [0x11 + 2 ^ 16, 0x5000, 1]).die 0).slotOf m.vas).isSome = true ∧ m.type = 0x11 ∧
      (sending [0x11 + 2 ^ 16, 0x5000, 1]).isThere 0 = true :=
  ⟨sends_at (by decide +kernel), by decide, by decide +kernel, by decide, by decide +kernel⟩
theorem wit_send_wrong : SendsNext (sending [0x30]) 0 { w0 := 0x30 } ∧ ({ w0 := 0x30 } : Msg).wellFormed = false :=
  ⟨sends_at (by decide +kernel), by decide⟩

def oneDie (d : Die) : State := { base leaf5 with dies := [(0, d)] }
theorem wit_receive :
    let m : Msg := { w0 := 5 + 2 ^ 16 }
    let s := oneDie { die0 leaf5 with inbox := [m] }
    s.up 0 = true ∧ (s.die (partnerOf 0)).poolBase = 0 ∧ count32 (s.die 0).brTail.toNat (s.die 0).brHead.toNat ≠ 1024 ∧
      (s.die 0).inbox = m :: [] ∧ m.type ≠ 0x20 := by decide +kernel
theorem wit_notice :
    let m := noticeOf 0 1 1 0 0
    let s := oneDie { die0 leaf5 with notes := [m] }
    (s.die 0).notes = m :: [] ∧ m.type = 0x20 ∧ m.w1 % 256 ≠ 4 ∧ m.w1 % 256 ≠ 5 ∧ m.w1 % 256 ≠ 6 := by decide +kernel
theorem wit_notice_lost :
    let m := noticeOf 0 6 1 0 0
    let s := oneDie { die0 leaf5 with notes := [m] }
    s.up 0 = true ∧ (s.die (partnerOf 0)).poolBase = 0 ∧ count32 (s.die 0).brTail.toNat (s.die 0).brHead.toNat ≠ 1024 ∧
      (s.die 0).notes = m :: [] ∧ m.type = 0x20 ∧ m.w1 % 256 = 6 ∧ (s.die 0).seqOpen = [] := by decide +kernel
theorem wit_sequence :
    let m : Msg := { w0 := 0x11 + 2 ^ 16, w1 := 0x5000, w2 := 1 }
    let s := oneDie { die0 leaf5 with seqIn := [m] }
    (s.die 0).seqIn = m :: [] ∧ (s.die 0).life ≠ .out ∧ 16 ≤ m.type ∧ (∀ p ∈ s.dies, p.2.life ≠ .resetting ∧ p.2.life ≠ .lost) ∧
      ∀ d ∈ s.members m.vas, s.isThere d = true := by
  decide +kernel
theorem acts_at {d : Die} {m : Msg} {type : Nat} (h : (oneDie d).up 0 = true ∧ ((oneDie d).die 0).ckpt = none ∧ m.w0 % 2 ^ 8 = type)
    (hm : ((oneDie d).die 0).todo = m :: []) : ∃ t, Acts (oneDie d) t 0 type m :=
  ⟨_, { up := h.1, runs := h.2.1, next := ⟨[], hm, rfl⟩, type := h.2.2 }⟩
theorem wit_kmsg : ∃ t, Acts (oneDie { die0 leaf5 with todo := [{ w0 := 5 + 2 ^ 16 }] }) t 0 5 { w0 := 5 + 2 ^ 16 } :=
  acts_at (by decide +kernel) rfl
/-- From die 1, a MAP, a COMMIT and an ACK of a shootdown of this die. -/
def mapMsg : Msg := { w0 := 0x10 + 2 ^ 16 + 2 ^ 28, w1 := 0x7000, w2 := 1, w3 := 2 ^ 53 + 1, w5 := leaf5, w6 := 4 }
def commitMsg : Msg := { w0 := 0x13 + 2 ^ 16 + 2 ^ 28, w1 := 0x5000, w2 := 1, w3 := 2 ^ 53 + 1 }
def ackMsg : Msg := { w0 := 0x12 + 2 ^ 16 + 2 ^ 28, w1 := 0x5000, w2 := 1, w3 := 1 }
theorem wit_map_message : (∃ t, Acts (oneDie { die0 leaf5 with todo := [mapMsg] }) t 0 0x10 mapMsg) ∧ mapMsg.initiator ≠ 0 :=
  ⟨acts_at (by decide +kernel) rfl, by decide⟩
theorem wit_revoke :
    let m : Msg := { w0 := 0x11 + 2 ^ 16, w1 := 0x5000, w2 := 1, w3 := 1 }
    let s := oneDie { die0 leaf5 with revokes := [m] }
    s.up 0 = true ∧ (s.die 0).revokes = m :: [] ∧ (s.die 0).ranges = [] ∧ (s.die 0).l2 = [] ∧ (s.die 0).dir = [] ∧ s.reqs = [] ∧
      (∀ p ∈ s.threads, p.2.tx = []) ∧ s.isThere (m.sdid / 2 ^ 53) = true := by decide +kernel
theorem wit_ack :
    (∃ t, Acts (oneDie { die0 leaf5 with todo := [ackMsg], shoots := [{ sdid := 1, vas := 1, waiting := [1, 2], req := 9 }] }) t 0 0x12 ackMsg) ∧
    (∃ t, Acts (oneDie { die0 leaf5 with todo := [ackMsg], shoots := [{ sdid := 1, vas := 1, waiting := [1], req := 9 }] }) t 0 0x12 ackMsg) ∧
    ackMsg.sdid = 1 ∧ (∃ d ∈ [1, 2], d ≠ ackMsg.src) ∧ (∀ d ∈ [1], d = ackMsg.src) ∧
    count32 (die0 leaf5).bsTail.toNat (die0 leaf5).bsHead.toNat ≠ 256 :=
  ⟨acts_at (by decide +kernel) rfl, acts_at (by decide +kernel) rfl, by decide, by decide, by decide, by decide⟩
theorem wit_commit :
    (∃ t, Acts (oneDie { die0 leaf5 with todo := [commitMsg] }) t 0 0x13 commitMsg) ∧ isIo 0 = false ∧
      (oneDie { die0 leaf5 with todo := [commitMsg] }).reqs = [] ∧
      ∀ x ∈ ((oneDie { die0 leaf5 with todo := [commitMsg] }).die 0).shoots, x.sdid ≠ commitMsg.sdid :=
  ⟨acts_at (by decide +kernel) rfl, by decide, rfl, by decide +kernel⟩

theorem wit_control_registers : Runs (oneDie (die0 leaf5)) 0 ∧ (oneDie (die0 leaf5)).die 0 = die0 leaf5 ∧ (die0 leaf5).mail = false ∧
    Runs (oneDie { die0 leaf5 with mail := true, rings := [(0, {})], queues := [(0, { vas := 1, stat := 2 })], qdesc := 0x90000 }) 0 :=
  ⟨⟨by decide +kernel, by decide +kernel⟩, by decide +kernel, by decide, ⟨by decide +kernel, by decide +kernel⟩⟩
/-- Descriptors of queues: legal and not. -/
theorem wit_qctl : (0x90000 : Dword).toNat % 64 = 0 ∧ (0x90000 : Dword).toNat + 64 ≤ (die0 leaf5).memSize ∧ descOk [0, 0, 0, 0, 0, 0, 0, 0] = true ∧
    descOk [1, 0, 0, 0, 0, 0, 0, 0] = false ∧ (die0 leaf5).slotOf 2 = none ∧ ((die0 leaf5).slotOf 1).isSome = true ∧
    mget [(0, ({ vas := 1, stat := 2 } : Queue))] 0 = some { vas := 1, stat := 2 } ∧ (2 : Nat) ≠ 0 := by decide

/-- An I/O die whose first copy ring stands at a descriptor; the frames of VAS 1. -/
def ring0 : Ring := { base := 0x90000, log := 4, vas := 1, tail := 1 }
def ringing (die : Nat) (r : Ring) (ws : List Nat) : State :=
  { base leaf5 with
    dies := [(die, { die0 leaf5 with tlb := [{ vas := 1, page := 0x5000, leaf := leaf5 + die * 2 ^ 12 }], rings := [(0, r)] }), (1, die0 leaf5)]
    mem := cells ((tableWords (leaf5 + die * 2 ^ 12) ++ at8 0x90000 ws).map fun p => (die * 2 ^ 48 + p.1, p.2))
    tags := [(die * 2 ^ 36 + 64, 16)] }
def descAt (ws : List Nat) : Desc := { addr := 0x90000, ws := ws }
theorem atDesc_of {die kind : Nat} {r : Ring} {ws : List Nat}
    (h : (ringing die r ws).up die = true ∧ mget ((ringing die r ws).die die).rings 0 = some r ∧
      (0 < ringCount die ∧ r.head ≠ r.tail ∧ 4 ≤ r.log ∧ r.log ≤ 12) ∧ r.base.toNat + 64 * (r.head.toNat % 2 ^ r.log) = 0x90000 ∧
      (List.range 8).map (fun i => (ringing die r ws).ram die (0x90000 + 8 * i) 8) = ws ∧ r.state = 0 ∧ (descAt ws).kind = kind ∧
      descLegal (ringing die r ws) die r.vas (descAt ws) = true) : AtDesc (ringing die r ws) die 0 kind r (descAt ws) :=
  { up := h.1, ring := h.2.1, place := h.2.2.1, desc := by rw [h.2.2.2.1, h.2.2.2.2.1]; rfl, state := h.2.2.2.2.2.1, kind := h.2.2.2.2.2.2.1
    legal := h.2.2.2.2.2.2.2 }
theorem wit_va_to_va :
    let ws := [1, 0x5000, 0x5080, 4, 0, 0, 0, 0]
    AtDesc (ringing 0 ring0 ws) 0 0 1 ring0 (descAt ws) ∧ OnePiece ring0 (descAt ws) ∧
      (ringRead (ringing 0 ring0 ws) 0 1 0x5000 4).1 = .ok [0, 0, 0, 0] ∧
      (ringWrite (ringRead (ringing 0 ring0 ws) 0 1 0x5000 4).2 0 1 0x5080 [0, 0, 0, 0] 2).1 = .ok [] :=
  ⟨atDesc_of (by decide +kernel), ⟨by decide, by decide, by decide⟩, by decide +kernel, by decide +kernel⟩
theorem wit_va_to_host :
    let ws := [2, 0x5000, 0x100, 4, 0, 0, 0, 0]
    AtDesc (ringing 16 ring0 ws) 16 0 2 ring0 (descAt ws) ∧ OnePiece ring0 (descAt ws) ∧
      (ringRead (ringing 16 ring0 ws) 16 1 0x5000 4).1 = .ok [0, 0, 0, 0] :=
  ⟨atDesc_of (by decide +kernel), ⟨by decide, by decide, by decide⟩, by decide +kernel⟩
theorem wit_host_to_va :
    let ws := [3, 0x100, 0x5000, 4, 0, 0, 0, 0]
    AtDesc (ringing 16 ring0 ws) 16 0 3 ring0 (descAt ws) ∧ OnePiece ring0 (descAt ws) ∧
      (ringWrite (ringing 16 ring0 ws) 16 1 0x5000 (Memory.read [] 0x100 4) 2).1 = .ok [] :=
  ⟨atDesc_of (by decide +kernel), ⟨by decide, by decide, by decide⟩, by decide +kernel⟩
theorem wit_ring_fault :
    let ws := [2, 2 ^ 57, 0x100, 4, 0, 0, 0, 0]
    AtDesc (ringing 16 ring0 ws) 16 0 2 ring0 (descAt ws) ∧ OnePiece ring0 (descAt ws) ∧
      (ringRead (ringing 16 ring0 ws) 16 1 (2 ^ 57) 4).1 = .fault .addr (2 ^ 57) 16 :=
  ⟨atDesc_of (by decide +kernel), ⟨by decide, by decide, by decide⟩, by decide +kernel⟩
theorem wit_spar :
    let ws := [4, 0x5000, 0x5000, 4, 0, 1 + 1 * 2 ^ 10, 0, 0]
    AtDesc (ringing 16 ring0 ws) 16 0 4 ring0 (descAt ws) ∧ OnePiece ring0 (descAt ws) ∧ (descAt ws).dmod < 64 ∧
      (ringRead (ringing 16 ring0 ws) 16 1 0x5000 4).1 = .ok [0, 0, 0, 0] ∧
      (ringRead (ringing 16 ring0 ws) 16 1 0x5000 4).2.isThere ((descAt ws).dmod * 32 + localOf 16) = false :=
  ⟨atDesc_of (by decide +kernel), ⟨by decide, by decide, by decide⟩, by decide, by decide +kernel, by decide +kernel⟩
theorem wit_spar_there :
    let ws := [4, 0x5000, 0x5000, 4, 0, 0 + 1 * 2 ^ 10, 0, 0]
    AtDesc (ringing 16 ring0 ws) 16 0 4 ring0 (descAt ws) ∧ OnePiece ring0 (descAt ws) ∧ (descAt ws).dmod < 64 ∧
      (ringRead (ringing 16 ring0 ws) 16 1 0x5000 4).2.isThere ((descAt ws).dmod * 32 + localOf 16) = true :=
  ⟨atDesc_of (by decide +kernel), ⟨by decide, by decide, by decide⟩, by decide, by decide +kernel⟩
theorem wit_frame :
    let ws := [5, 0x40000, 0x41000, 4096 + 2 ^ 43, 0, 0, 0, 0]
    let s := ringing 0 ring0 ws
    let d := descAt ws
    AtDesc s 0 0 5 ring0 d ∧ (s.die d.sdie).life = .up ∧ (s.die d.ddie).life = .up ∧ d.sdie ≠ d.ddie ∧
      d.src + d.len ≤ (s.die d.sdie).memSize ∧ d.dst + d.len ≤ (s.die d.ddie).memSize ∧ (s.die d.sdie).memSize ≤ 2 ^ 48 ∧
      (s.die d.ddie).memSize ≤ 2 ^ 48 ∧ (∀ a ∈ framesOf d.src d.len, frameVas s d.sdie a = ring0.vas) ∧
      (∀ a ∈ framesOf d.dst d.len, frameFree s d.ddie a ring0.vas = true) ∧ s.bad = [] :=
  ⟨atDesc_of (by decide +kernel), by decide +kernel, by decide +kernel, by decide, by decide +kernel, by decide +kernel, by decide +kernel,
   by decide +kernel, by decide +kernel, by decide +kernel, rfl⟩
theorem wit_frame_not_own :
    let ws := [5, 0x42000, 0x41000, 4096 + 2 ^ 43, 0, 0, 0, 0]
    AtDesc (ringing 0 ring0 ws) 0 0 5 ring0 (descAt ws) ∧
      ∃ a ∈ framesOf (descAt ws).src (descAt ws).len, frameVas (ringing 0 ring0 ws) (descAt ws).sdie a ≠ ring0.vas :=
  ⟨atDesc_of (by decide +kernel), by decide +kernel⟩
theorem wit_zero :
    let ws := [6, 0, 0x41000, 4096 + 2 ^ 43, 0, 0, 0, 0]
    let d := descAt ws
    AtDesc (ringing 0 ring0 ws) 0 0 6 ring0 d ∧ ((ringing 0 ring0 ws).die d.ddie).life = .up ∧
      d.dst + d.len ≤ ((ringing 0 ring0 ws).die d.ddie).memSize ∧ ∀ a ∈ framesOf d.dst d.len, frameFree (ringing 0 ring0 ws) d.ddie a ring0.vas = true :=
  ⟨atDesc_of (by decide +kernel), by decide +kernel, by decide +kernel, by decide +kernel⟩
theorem wit_descriptor_end :
    let ws := [1, 0x5000, 0x5080, 0, 0, 0, 0, 0]
    AtDesc (ringing 0 ring0 ws) 0 0 (descAt ws).kind ring0 (descAt ws) ∧ (descAt ws).ctr = false ∧ (descAt ws).len = 0 ∧
      (ringing 0 { ring0 with state := 1 } ws).ringAt 0 0 = some ({ ring0 with state := 1 }, descAt ws) ∧
      (ringing 0 ring0 [7, 0, 0, 0, 0, 0, 0, 0]).ringAt 0 0 = some (ring0, descAt [7, 0, 0, 0, 0, 0, 0, 0]) ∧
      descLegal (ringing 0 ring0 [7, 0, 0, 0, 0, 0, 0, 0]) 0 1 (descAt [7, 0, 0, 0, 0, 0, 0, 0]) = false :=
  ⟨atDesc_of (by decide +kernel), by decide, by decide, by decide +kernel, by decide +kernel, by decide +kernel⟩

/-! ### The keel -/

/-- A request of the kernel of die 0 to the keel, and one of the host, with TAG 5. -/
def mailing (code : Nat) (ps : List Byte) : State :=
  { base leaf5 with
    keels := [(0, { verified := true })], vasIds := [1], mem := Memory.write [] 0x90000 (leBytes 4 code ++ leBytes 4 5 ++ ps)
    dies := [(0, { die0 leaf5 with kmbox := 0x90000, mail := true, sailBase := 0x200000, sailSize := 4096 })] }
theorem mail_at {code : Nat} {ps : List Byte}
    (h : (mailing code ps).up 0 = true ∧ ((mailing code ps).die 0).mail = true ∧
      (mailing code ps).ramBytes 0 ((mailing code ps).die 0).kmbox.toNat 128 = leBytes 4 code ++ leBytes 4 5 ++ ps ∧ ps.length = 120) :
    Mail (mailing code ps) 0 code 5 ps :=
  ⟨rfl, by decide, h.1, h.2.1, h.2.2.1, h.2.2.2, by decide⟩
def hosting (code : Nat) (ps : List Byte) (ids : List Nat) (images : AMap (List Byte)) : State :=
  { base leaf5 with
    keels := [(0, { verified := true, busy := true, images := images, buf := leBytes 4 code ++ leBytes 4 5 ++ ps })], vasIds := ids
    dies := [(0, die0 leaf5), (1, { life := .up }), (16, { life := .up })], trains := [] }
theorem hostMail_at {code : Nat} {ps : List Byte} {ids : List Nat} {images : AMap (List Byte)}
    (h : (hosting code ps ids images).up 16 = true ∧ (leBytes 4 code ++ leBytes 4 5 ++ ps).take 128 = leBytes 4 code ++ leBytes 4 5 ++ ps ∧
      ps.length = 120) : HostMail (hosting code ps ids images) 0 code 5 ps :=
  ⟨rfl, h.1, rfl, h.2.1, h.2.2, by decide⟩

theorem wit_host_only : Mail (mailing 1 (params [])) 0 1 5 (params []) ∧ Mail (mailing 2 (params [])) 0 2 5 (params []) ∧
    Mail (mailing 3 (params [])) 0 3 5 (params []) ∧ Mail (mailing 7 (params [])) 0 7 5 (params []) ∧
    Mail (mailing 8 (params [])) 0 8 5 (params []) :=
  ⟨mail_at (by decide +kernel), mail_at (by decide +kernel), mail_at (by decide +kernel), mail_at (by decide +kernel), mail_at (by decide +kernel)⟩
theorem wit_pcreate : HostMail (hosting 1 (params []) [1] []) 0 1 5 (params []) ∧ (∃ v, 1 ≤ v ∧ v < 4096 ∧ v ∉ [1]) ∧
    HostMail (hosting 1 (params []) (List.range 4096) []) 0 1 5 (params []) ∧ ∀ v, 1 ≤ v → v < 4096 → v ∈ List.range 4096 :=
  ⟨hostMail_at (by decide +kernel), ⟨2, by decide⟩, hostMail_at (by decide +kernel), fun _ _ h => List.mem_range.2 h⟩
theorem wit_passign :
    let ps := params [1 + 2 ^ 12 * 1 + 2 ^ 23 * 16]
    let s := hosting 2 ps [1] []
    HostMail s 0 2 5 ps ∧ 1 ∈ s.vasIds ∧ moduleOf 1 = 0 ∧ (s.die 1).life = .up ∧ isIo 16 = true ∧ (s.die 1).slots = [] ∧ packageFull s 0 1 = false ∧
      16 ≠ 1 ∧ (s.die 16).slots = [] ∧ packageFull s (moduleOf 16) 1 = false ∧
      (({ s with dies := [(1, { life := .up }), (16, { life := .up, slots := [(0, { vas := 1, en := true })] })] } : State).die 16).slotOf 1 =
        some (0, { vas := 1, en := true }) :=
  ⟨hostMail_at (by decide +kernel), by decide, by decide, by decide +kernel, by decide, by decide +kernel, by decide +kernel, by decide,
   by decide +kernel, by decide +kernel, by decide +kernel⟩
theorem wit_prelease :
    let ps := params [1 + 2 ^ 12 * 0]
    HostMail (hosting 3 ps [1] []) 0 3 5 ps ∧ moduleOf 0 = 0 ∧ ((hosting 3 ps [1] []).die 0).traceHold = [] ∧ ((hosting 3 ps [1] []).die 0).l2 = [] ∧
      ((hosting 3 ps [1] []).die 0).slotOf 1 = some (0, { vas := 1, root := 16, en := true, keys := 1 }) ∧
      (hosting 3 ps [1] []).trains = [] ∧ isCompute 0 = true :=
  ⟨hostMail_at (by decide +kernel), by decide, by decide +kernel, by decide +kernel, by decide +kernel, rfl, by decide⟩
theorem wit_keyload :
    Mail (mailing 4 (params [1 + 2 ^ 12 * 3])) 0 4 5 (params [1 + 2 ^ 12 * 3]) ∧
      ((mailing 4 (params [1 + 2 ^ 12 * 3])).die 0).slotOf 1 = some (0, { vas := 1, root := 16, en := true, keys := 1 }) ∧
      (1 : Nat).testBit 3 = false ∧
      Mail (mailing 4 (params [2 + 2 ^ 12 * 3])) 0 4 5 (params [2 + 2 ^ 12 * 3]) ∧
      ((mailing 4 (params [2 + 2 ^ 12 * 3])).die 0).slotOf 2 = none :=
  ⟨mail_at (by decide +kernel), by decide +kernel, by decide, mail_at (by decide +kernel), by decide +kernel⟩
theorem wit_verify :
    Mail (mailing 6 (params [0, 0])) 0 6 5 (params [0, 0]) ∧ 0 < ((mailing 6 (params [0, 0])).die 0).sailBase ∧
      Mail (mailing 6 (params [0x200000, 0])) 0 6 5 (params [0x200000, 0]) ∧
      ((mailing 6 (params [0x200000, 0])).die 0).sailBase ≤ 0x200000 ∧
      0x200000 + 256 ≤ ((mailing 6 (params [0x200000, 0])).die 0).sailBase + ((mailing 6 (params [0x200000, 0])).die 0).sailSize :=
  ⟨mail_at (by decide +kernel), by decide +kernel, mail_at (by decide +kernel), by decide +kernel, by decide +kernel⟩
theorem wit_enroll :
    let h : List Byte := List.replicate 48 7
    h.length = 48 ∧ HostMail (hosting 7 (h ++ List.replicate 72 0) [1] []) 0 7 5 (h ++ List.replicate 72 0) ∧
      ((hosting 7 (h ++ List.replicate 72 0) [1] []).keel 0).ownerHash = none :=
  ⟨by decide, hostMail_at (by decide +kernel), rfl⟩
theorem wit_svnlock :
    HostMail (hosting 8 (params [2]) [1] [(2 * 2048 + 16, image 2 3)]) 0 8 5 (params [2]) ∧
      mget ((hosting 8 (params [2]) [1] [(2 * 2048 + 16, image 2 3)]).keel 0).images (2 * 2048 + if 2 = 2 then 32 * 0 + 16 else 0) = some (image 2 3) :=
  ⟨hostMail_at (by decide +kernel), by decide +kernel⟩
theorem wit_attest :
    let ps := leBytes 8 1 ++ List.replicate 48 9 ++ leBytes 8 0x1000 ++ List.replicate 56 0
    HostMail (hosting 5 ps [1] []) 0 5 5 ps ∧ 1 ∈ (hosting 5 ps [1] []).vasIds :=
  ⟨hostMail_at (by decide +kernel), by decide⟩

/-! ### Ports and recovery -/

def window0 (va : Nat) : Window := { vas := 1, va := va, len := 4096, fn := 1, bar := 0x1000 }
/-- An I/O die with a landing window on page 5 or, of counters, page 6. -/
def port (leaf va : Nat) (d : Die) : State :=
  { base leaf5 with
    dies := [(16, { d with life := .up, memSize := 2 ^ 24, slots := (die0 leaf5).slots, windows := [window0 va]
                           tlb := [{ vas := 1, page := 0x5000, leaf := leaf + 16 * 2 ^ 12 }] })]
    mem := cells ((tableWords (leaf + 16 * 2 ^ 12)).map fun p => (16 * 2 ^ 48 + p.1, p.2)), tags := [(16 * 2 ^ 36 + 64, 16)] }
theorem lands_at {leaf off n : Nat} {d : Die}
    (h : (port leaf 0x5000 d).up 16 = true ∧ ((port leaf 0x5000 d).die 16).hold = [] ∧ ((port leaf 0x5000 d).die 16).port = [] ∧ ((port leaf 0x5000 d).die 16).ranges = [] ∧
      ((port leaf 0x5000 d).die 16).windows.find? (fun x => x.fn = 1 && x.bar ≤ off && off + n ≤ x.bar + x.len) = some (window0 0x5000)) :
    Lands (port leaf 0x5000 d) 16 1 off n (window0 0x5000) := ⟨h.1, by decide, h.2⟩
theorem wit_posted :
    let s := port leaf5 0x5000 {}
    let s0 := drainHold s 16
    Lands s 16 1 0x1008 4 (window0 0x5000) ∧ isCounter s0 16 1 (0x5000 + (0x1008 - 0x1000)) = false ∧
      (putAll s0 16 1 (0x5000 + (0x1008 - 0x1000)) [1, 2, 3, 4]).1 = .done ∧
      (getAll s0 16 1 (0x5000 + (0x1008 - 0x1000)) 4).1 = .inl (some [0, 0, 0, 0]) ∧ Lands s 16 1 0x1008 1 (window0 0x5000) :=
  ⟨lands_at (by decide +kernel), by decide +kernel, by decide +kernel, by decide +kernel, lands_at (by decide +kernel)⟩
theorem wit_posted_counter :
    let s := port leafC5 0x5000 {}
    let s0 := drainHold s 16
    Lands s 16 1 0x1008 4 (window0 0x5000) ∧ isCounter s0 16 1 (0x5000 + (0x1008 - 0x1000)) = true ∧ Lands s 16 1 0x1008 8 (window0 0x5000) ∧
      (0x5000 + (0x1008 - 0x1000)) % 8 = 0 ∧ (releaseWide s0 16).2 = true ∧
      (agentCtrAdd (releaseWide s0 16).1 16 1 (0x5000 + (0x1008 - 0x1000)) 1).1 = .done (.performed (leBytes 8 0)) :=
  ⟨lands_at (by decide +kernel), by decide +kernel, lands_at (by decide +kernel), by decide, by decide +kernel, by decide +kernel⟩
theorem wit_port_reset : (port leaf5 0x5000 {}).up 16 = true ∧ isIo 16 = true ∧ ((port leaf5 0x5000 {}).die 16).cxl ≠ true := by decide +kernel
theorem wit_spar_write :
    let p : SparPkt := { smod := 0, svas := 1, vas := 1, va := 0x5008, data := [1, 2, 3, 4] }
    let s := port leaf5 0x5000 { spar := [p] }
    (s.die 16).spar = p :: [] ∧ s.up 16 = true ∧ (s.die 16).hold = [] ∧ (s.die 16).port = [] ∧ (s.die 16).ranges = [] ∧ p.smod < 64 ∧ p.svas = p.vas ∧
      p.ctr = none ∧ p.src = none ∧ (putAll (drainHold s 16) 16 p.vas p.va p.data).1 = .done := by decide +kernel
theorem wit_spar_admitted :
    let a : Dword := BitVec.ofNat 64 (2 ^ 63 + 1 + 2 ^ 12 * 64 + 2 ^ 22 * 7)
    let p : SparPkt := { smod := 64, svas := 7, vas := 1, va := 0x5008, data := [1, 2, 3, 4] }
    let s := port leaf5 0x5000 { spar := [p], admits := [(0, a)] }
    64 ≤ p.smod ∧ (0, a) ∈ (s.die 16).admits ∧ a.toNat.testBit 63 = true ∧ bits a.toNat 11 0 = p.vas ∧ bits a.toNat 21 12 = p.smod ∧
      bits a.toNat 33 22 = p.svas ∧ (putAll (drainHold s 16) 16 p.vas p.va p.data).1 = .done := by decide +kernel
theorem wit_spar_refused :
    let p : SparPkt := { smod := 0, svas := 2, vas := 1, src := some (16, 0) }
    let s := port leaf5 0x5000 { spar := [p], rings := [(0, { state := 3 })] }
    (s.die 16).spar = p :: [] ∧ p.smod < 64 ∧ p.svas ≠ p.vas ∧ mget (s.die 16).rings 0 = some { state := 3 } := by decide +kernel
theorem wit_cxl :
    let s := port leaf5 0x5000 { cxl := true, hdmBase := 0x100000, hdmSize := 4096 }
    s.up 16 = true ∧ (s.die 16).cxl = true ∧ 64 % 64 = 0 ∧ 64 + 64 ≤ (s.die 16).hdmSize ∧ (List.replicate 64 (1 : Byte)).length = 64 ∧ s.bad = [] := by
  decide +kernel

theorem wit_bring_up :
    (let k : Keel := { store := [(2048, image 1 1)] }
     k.verified = false ∧ (({ State.reset with keels := [(0, k)] } : State).keel 0).goodImage true 1 0 = true) ∧
    (raised.keel 0).verified = true ∧ (raised.die (0 * 32 + 3)).life = .out ∧ raised.up (0 * 32 + 16) = true ∧
    (∀ i ∈ [17, 18, 19], (raised.die (0 * 32 + i)).life ≠ .out) ∧ (raised.keel 0).goodImage true 2 3 = true ∧
    (({ raised with dies := [] } : State).die 16).life = .out ∧ (raised.keel 0).goodImage true 2 16 = true := by decide +kernel
theorem wit_die_life : (base leaf5).up 0 = true ∧ ((base leaf5).die 0).life = .up ∧ (∃ p ∈ ((base leaf5).die 0).slots, p.2.en = true) ∧
    ({ base leaf5 with trains := [] } : State).trains = [] := by decide +kernel
theorem wit_scrub : 0x5000 < ((base leaf5).die 0).memSize ∧ ((base leaf5).die 0).poolBase = 0 ∧
    mget ({ base leaf5 with bad := [(0x5000 / 128, 1)] } : State).bad (0 * 2 ^ 41 + 0x5000 / 128) = some 1 ∧
    mget ({ base leaf5 with bad := [(0x5000 / 128, 4)] } : State).bad (0 * 2 ^ 41 + 0x5000 / 128) = some 4 := by decide +kernel
def drained : State := { base leaf5 with dies := [(0, { die0 leaf5 with life := .resetting })], trains := [] }
theorem wit_reset_drained : (drained.die 0).life = .resetting ∧ drained.trains = [] ∧ releaseWide drained 0 = (drained, true) :=
  ⟨by decide +kernel, rfl, both (by decide +kernel)⟩
theorem wit_rejoin :
    let s := { mirrored 0 none with
      dies := [(0, { dieP with life := .resetting, drained := true }), (partnerOf 0, dieP)], trains := []
      mem := poolMem 0 0 ++ cells (at8 (partnerOf 0 * 2 ^ 48 + 0x80030) [0x300000] ++
        at8 (partnerOf 0 * 2 ^ 48 + 0x300000) [3, 2 ^ 32 + 1]) }
    (s.die 0).life = .resetting ∧ s.trains = [] ∧ (s.die 0).l2 = [] ∧ (s.die 0).drained = true ∧
      (s.keel 0).admits ((s.keel 0).image 2 0) = true ∧ s.up (partnerOf 0) = true ∧ peerBase s 0 ≠ 0 ∧
      newestBuf s 0 = some (0, 1) ∧ count32 (s.ram (partnerOf 0) (peerBase s 0) 4) 1 = 2 ∧ 2 ≤ 65536 := by decide +kernel

/-! ### Events by themselves -/

theorem wit_streamers_complete :
    (let e := copyOf .queued true (tile 0)
     ((streamer e).quad 0).queue = [e] ∧ (streamer e).up 0 = true ∧ mayStart (streamer e) 0 e = true) ∧
    (let e := copyOf .moving false (tile 0)
     ((streamer e).quad 0).queue = [e] ∧ e.stat = .moving ∧ e.kind ≠ .combine ∧
      (match (moveGranule (streamer e) e).1 with | .ok _ => true | _ => false) = true ∧ e.byCtr = false ∧
      (streamer e).reel? e.group (e.sync % 2 ^ 18) = some reel0 ∧ reel0.watch = []) ∧
    (let e := copyOf .written false (tile 0)
     ((streamer e).quad 0).queue = [e] ∧ e.stat = .written ∧ (streamer e).reel? e.group (e.sync % 2 ^ 18) = some reel0) ∧
    (let e := copyOf .written true (tile 0)
     ((streamer e).quad 0).queue = [e] ∧ e.stat = .written ∧ e.byCtr = true) := by decide +kernel
theorem wit_combining_completes :
    (switch0.up 16 = true ∧ (switch0.die 16).contribs = [contrib0] ∧ (switch0.die 16).combines = [] ∧ ncon contrib0.entry.con = 2 ∧
      tFmt contrib0.entry.dst = 9) ∧
    tFmt combine0.dst = 9 ∧
    (let e := { copyOf .refused true (tile 0) with kind := .combine, dst := globalTile 0x5000 9 }
     ((streamer e).quad 0).queue = [e] ∧ e.stat = .refused ∧ switchOf (streamer e) e = .ok 16) ∧
    quadOfCore (coreOfGroup ({ id := 5, vas := 1, ctr := 0x6000, ready := true } : CombAdd).group) = quadAt 0 0 := by decide +kernel
theorem wit_routes_of_the_mesh : (0 : Fin 20) ≠ 15 ∧ (hops 0 15 = 6 ∧ hops 16 15 = 6 ∧ hops 6 17 = 2) := by decide +kernel
theorem wit_links_complete :
    (base leaf5).links = [] ∧ ((base leaf5).link (linkNo 0 1)).retired = false ∧ linked 0 1 = true ∧
      ({ base leaf5 with links := [(linkNo 0 1, { crc := true })] } : State).link (linkNo 0 1) = { crc := true } := by decide +kernel

/-! ### Encodings and steps -/

theorem wit_decode_encode : (Instr.iadd false (.reg 3) (.reg 1) (.reg 2)).wf = true ∧
    Instr.isNative (.iadd false (.reg 3) (.reg 1) (.reg 2)) = true ∧
    decodeWord (0x0A * 2 ^ 25 + 3 * 2 ^ 18 + 1 * 2 ^ 11 + 2 * 2 ^ 4) = some (.iadd false (.reg 3) (.reg 1) (.reg 2)) := by decide +kernel
theorem wit_step_runs :
    let i : Instr := .iadd true (.reg 3) (.reg 1) (.reg 2)
    let s := placed i
    (mget s.bundles 0).isSome = true ∧ (s.bundle 0).code[(s.bundle 0).pos]? = some (i.word, true) ∧ (s.bundle 0).glomer = false ∧
      decode (leBytes 4 i.word) = some (i, []) ∧ s.turns = [] ∧ s.focus = some 0 := by decide +kernel
theorem wit_step_turn :
    let s := { placed (.nop true) with turns := [.issue 0 0] }
    s.turns = .issue 0 0 :: [] ∧ 0 < 2 ∧ 0 = 2 * 0 + 0 ∧ (mget s.bundles 0).isSome = true ∧
      s.midWord (2 * 0 + (1 - 0)) = false ∧
      ({ placed (.nop true) with turns := [.event (.calibrationComplete 0)] } : State).turns = .event (.calibrationComplete 0) :: [] ∧
      (Instr.calibrationComplete 0).isEvent = true := by decide +kernel
theorem wit_step_glomer :
    let s := (placed (.glomerWord 0x14000000))
    let b := { s.bundle 0 with glomer := true, code := [(0x1400000000000000, true)], pos := 0 }
    ((s.setBundle 0 b).bundle 0).code[((s.setBundle 0 b).bundle 0).pos]? = some (0x1400000000000000, true) ∧
      ((s.setBundle 0 b).bundle 0).glomer = true := by decide +kernel
theorem test_resetInvariant : Inv State.reset := ⟨by decide, by decide, by decide⟩

end Sys2Proof.Tests
end

namespace Sys2Proof.Proofs
open Sys2Proof Sys2Proof.Machine Sys2Proof.Claims

/-! ### Rules of the state's operations that the events of a device use -/

/-- A map whose values alone are changed. -/
theorem mget_map {α β : Type} {g : Nat × α → Nat × β} (f : Nat → α → β) (hg : ∀ p, g p = (p.1, f p.1 p.2)) (m : AMap α) (k : Nat) :
    mget (m.map g) k = (mget m k).map (f k) := by
  induction m with
  | nil => rfl
  | cons p r ih =>
    obtain ⟨j, v⟩ := p
    simp only [List.map_cons, hg, mget, ih]
    split
    · rename_i h; subst h; rfl
    · rfl

theorem Kept.refl (s : State) : Kept s s := ⟨rfl, rfl, rfl, rfl, rfl, rfl⟩

theorem notes_notify_same (s : State) (d c x y z : Nat) :
    ((notify s d c x y z).die d).notes = (s.die d).notes ++ [noticeOf d c x y z] := by
  simp [notify, noticeMsg, noticeOf]
theorem die_notify_ne (s : State) {d e : Nat} (c x y z : Nat) (h : e ≠ d) : (notify s d c x y z).die e = s.die e := by
  rw [notify, State.die_modDie, if_neg h]

theorem link_setLink (s : State) (n k : Nat) (l : Link) : (setLink s n l).link k = if k = n then l else s.link k :=
  mgetD_mput s.links n k l {}
@[simp] theorem link_setLink_same (s : State) (n : Nat) (l : Link) : (setLink s n l).link n = l := mgetD_mput_same s.links n l {}

/-! ### Routes do not depend on the module (R12, R22) -/

@[simp] theorem localOf_shift (m a : Nat) : localOf (32 * m + a) = localOf a := by simp [localOf]
theorem localOf_of_lt {a : Nat} (h : a < 32) : localOf a = a := Nat.mod_eq_of_lt h
@[simp] theorem isIo_shift (m a : Nat) : isIo (32 * m + a) = isIo a := by simp [isIo]
@[simp] theorem isCompute_shift (m a : Nat) : isCompute (32 * m + a) = isCompute a := by simp [isCompute]
theorem moduleOf_shift (m : Nat) {a : Nat} (h : a < 32) : moduleOf (32 * m + a) = m := by simp only [moduleOf]; omega

theorem attachedEven_shift (m a : Nat) : attachedEven (32 * m + a) = 32 * m + attachedEven a := by
  simp only [attachedEven, localOf_shift, moduleOf]; omega

theorem columnsOf_shift (m a : Nat) : columnsOf (32 * m + a) = columnsOf a := by
  simp only [columnsOf, isIo_shift, attachedEven_shift, localOf_shift]

theorem columnGap_shift (m a b : Nat) : columnGap (32 * m + a) (32 * m + b) = columnGap a b := by
  simp only [columnGap, columnsOf_shift]

theorem nearerDie_shift (m a b : Nat) : nearerDie (32 * m + a) (32 * m + b) = 32 * m + nearerDie a b := by
  simp only [nearerDie, attachedEven_shift, Nat.add_assoc, columnGap_shift]
  split <;> rfl

/-- A hop of the mesh between two dies of a module leads from a die to its neighbour of the same module. -/
theorem meshHop_shift (m : Nat) {a b : Nat} (ha : a < 32) (hb : b < 32) (hab : a ≠ b) :
    meshHop (32 * m + a) (32 * m + b) = 32 * m + meshHop a b := by
  simp only [meshHop, localOf_shift, localOf_of_lt ha, localOf_of_lt hb]
  by_cases hright : a % 4 < b % 4
  · simp only [if_pos hright, Nat.add_assoc]
  · by_cases hleft : b % 4 < a % 4
    · simp only [if_neg hright, if_pos hleft]; omega
    · by_cases hdown : a < b
      · simp only [if_neg hright, if_neg hleft, if_pos hdown, Nat.add_assoc]
      · simp only [if_neg hright, if_neg hleft, if_neg hdown]; omega

theorem nearerDie_lt : ∀ a b : Fin 20, nearerDie a b < 32 := by decide +kernel

theorem hopWithin_shift (m : Nat) (a b : Fin 20) (hab : a ≠ b) :
    hopWithin (32 * m + a) (32 * m + b) = 32 * m + hopWithin a b := by
  have ha : a.val < 32 := by omega
  have hb : b.val < 32 := by omega
  simp only [hopWithin, isIo_shift, nearerDie_shift, Nat.add_left_cancel_iff]
  split
  · rfl
  · split
    · split
      · rfl
      · next he => exact meshHop_shift m ha (nearerDie_lt b a) fun e => he e.symm
    · exact meshHop_shift m ha hb (by omega)

theorem nextHop_shift (m : Nat) (a b : Fin 20) (hab : a ≠ b) : nextHop (32 * m + a) (32 * m + b) = 32 * m + nextHop a b := by
  have ha : a.val < 32 := by omega
  have hb : b.val < 32 := by omega
  have hm : moduleOf a.val = moduleOf b.val := by simp only [moduleOf]; omega
  simp only [nextHop, moduleOf_shift m ha, moduleOf_shift m hb, hm, if_true, hopWithin_shift m a b hab]

theorem nextHop_lt : ∀ a b : Fin 20, nextHop a b < 20 := by decide +kernel

/-- The route between two dies of a module is that of the first module. -/
theorem route_shift (m n : Nat) (a b : Fin 20) : route (32 * m + a) (32 * m + b) n = (route a b n).map (32 * m + ·) := by
  induction n generalizing a with
  | zero => rfl
  | succ n ih =>
    by_cases hab : a = b
    · simp [route, hab]
    · have hne : a.val ≠ b.val := fun e => hab (Fin.ext e)
      simp only [route, Nat.add_left_cancel_iff, hne, if_false, nextHop_shift m a b hab, List.map_cons]
      exact congrArg _ (ih ⟨nextHop a b, nextHop_lt a b⟩)

theorem linked_shift (m : Nat) {a b : Nat} (ha : a < 32) (hb : b < 32) : linked (32 * m + a) (32 * m + b) = linked a b := by
  have hm : moduleOf a = moduleOf b := by simp only [moduleOf]; omega
  simp only [linked, moduleOf_shift m ha, moduleOf_shift m hb, hm, isIo_shift, isCompute_shift, localOf_shift, ne_eq, not_true, if_false]

/-- Every die on a route within the first module is a die of it. -/
theorem mem_route_lt : ∀ (n : Nat) (a b : Fin 20), ∀ x ∈ route a b n, x < 20
  | 0, _, _, _, h => by simp [route] at h
  | n + 1, a, b, x, h => by
    simp only [route] at h
    split at h
    · simp at h
    · rcases List.mem_cons.mp h with rfl | h
      · exact nextHop_lt a b
      · exact mem_route_lt n ⟨nextHop a b, nextHop_lt a b⟩ b x h

/-- R22 in the first module. -/
theorem route_first_module : ∀ a b : Fin 20, a ≠ b → (a.val < 16 ∨ b.val < 16) →
    ((a.val :: route a b 16).zip (route a b 16)).all (fun p => linked p.1 p.2) = true ∧
      (route a b 16).getLast? = some b.val ∧ hops a b ≤ 6 := by decide +kernel

theorem routesOfTheMesh : RoutesOfTheMesh := by
  refine ⟨fun m a b hab hc => ?_, by decide +kernel⟩
  obtain ⟨hlinks, hend, hhops⟩ := route_first_module a b hab hc
  refine ⟨?_, ?_, ?_⟩
  · rw [route_shift, ← List.map_cons (f := (32 * m.val + ·)), List.zip_map, List.all_map]
    refine List.all_eq_true.mpr fun p hp => ?_
    obtain ⟨h1, h2⟩ := List.of_mem_zip hp
    have hlt : ∀ x ∈ a.val :: route a b 16, x < 32 := fun x hx =>
      (List.mem_cons.mp hx).elim (fun e => by omega) fun h => Nat.lt_trans (mem_route_lt 16 a b x h) (by decide)
    exact (linked_shift m (hlt p.1 h1) (hlt p.2 (List.mem_cons_of_mem _ h2))).trans (List.all_eq_true.mp hlinks p hp)
  · simp only [route_shift, List.getLast?_map, hend, Option.map_some]
  · simpa only [hops, route_shift, List.length_map] using hhops

/-! ### Links (R23, R397) -/

theorem linkSrc_of_lt (a : Nat) {b : Nat} (hb : b < 2048) : linkSrc (a * 2048 + b) = a := by simp only [linkSrc]; omega
theorem linkDst_of_lt (a : Nat) {b : Nat} (hb : b < 2048) : linkDst (a * 2048 + b) = b := by simp only [linkDst]; omega

theorem linked_self (a : Nat) : linked a a = false := by
  simp only [linked, ne_eq, not_true, if_false]
  cases isCompute a
  · simp only [Bool.and_false, Bool.false_and, Bool.false_eq_true, if_false]
  · simp

/-- The two directions of a link after it is retired; its state beside. -/
theorem retireLink_eq (s : State) (n : Nat) :
    let s1 := setLink s n { s.link n with crc := false, retired := true }
    retireLink s n = setLink s1 (linkNo (linkDst n) (linkSrc n)) { s1.link (linkNo (linkDst n) (linkSrc n)) with crc := false, retired := true } := rfl

theorem retireLink_links (s : State) {n : Nat} (h : linkNo (linkDst n) (linkSrc n) ≠ n) :
    (retireLink s n).link n = { s.link n with crc := false, retired := true } ∧
      (retireLink s n).link (linkNo (linkDst n) (linkSrc n)) =
        { s.link (linkNo (linkDst n) (linkSrc n)) with crc := false, retired := true } := by
  simp only [retireLink_eq, link_setLink, if_neg h, if_neg h.symm, if_true, and_self]

theorem retireLink_kept (s : State) (n : Nat) : Kept s (retireLink s n) ∧ (retireLink s n).mem = s.mem ∧ ∀ d, (retireLink s n).die d = s.die d :=
  ⟨Kept.refl s, rfl, fun _ => rfl⟩

theorem exec_linkCrcError (s : State) {n : Nat} (hl : linked (linkSrc n) (linkDst n) = true) (hr : (s.link n).retired = false)
    (hc : (s.link n).crc = false) : exec (.linkCrcError n) s = .next (setLink s n { s.link n with crc := true, log := (s.link n).log + 1 }) := by
  show execLinkCrcError n s = _
  simp [execLinkCrcError, hl, hr, hc]

theorem exec_linkReplay_good (s : State) {n : Nat} (hr : (s.link n).retired = false) (hc : (s.link n).crc = true) :
    exec (.linkReplay n true) s = .next (setLink s n { s.link n with crc := false, replays := 0, seq := (s.link n).seq + 1 }) := by
  show execLinkReplay n true s = _
  simp [execLinkReplay, hr, hc]

theorem exec_linkReplay_bad (s : State) {n : Nat} (hr : (s.link n).retired = false) (hc : (s.link n).crc = true)
    (h : (s.link n).replays < 15) :
    exec (.linkReplay n false) s = .next (setLink s n { s.link n with replays := (s.link n).replays + 1, log := (s.link n).log + 1 }) := by
  show execLinkReplay n false s = _
  simp [execLinkReplay, hr, hc, h]

/-- The link as a sixteenth failing replay leaves it, before it is retired. -/
def spent (s : State) (n : Nat) : State := setLink s n { s.link n with replays := 16, log := (s.link n).log + 1 }

theorem exec_linkReplay_last (s : State) {n : Nat} (hr : (s.link n).retired = false) (hc : (s.link n).crc = true)
    (h : (s.link n).replays = 15) :
    exec (.linkReplay n false) s = .next (notify (notify (retireLink (spent s n) n) (linkSrc n) 1 n 0 0) (linkDst n) 1 n 0 0) := by
  show execLinkReplay n false s = _
  simp [execLinkReplay, hr, hc, h, spent]

/-- The sixteenth replay that fails (R23). -/
theorem linkReplay_retires (s : State) {n a b : Nat} (hsrc : linkSrc n = a) (hdst : linkDst n = b) (hab : a ≠ b) (hne : linkNo b a ≠ n)
    (hr : (s.link n).retired = false) (hc : (s.link n).crc = true) (h15 : (s.link n).replays = 15) :
    ∃ t, exec (.linkReplay n false) s = .next t ∧
      t.link n = { s.link n with replays := 16, log := (s.link n).log + 1, crc := false, retired := true } ∧
      t.link (linkNo b a) = { s.link (linkNo b a) with crc := false, retired := true } ∧
      (t.die a).notes = (s.die a).notes ++ [noticeOf a 1 n 0 0] ∧
      (t.die b).notes = (s.die b).notes ++ [noticeOf b 1 n 0 0] ∧ t.mem = s.mem ∧ Kept s t := by
  have he := exec_linkReplay_last s hr hc h15
  have hl := retireLink_links (spent s n) (hsrc ▸ hdst ▸ hne)
  obtain ⟨hk, hm, hd⟩ := retireLink_kept (spent s n) n
  rw [hsrc, hdst] at he hl
  have hn : (spent s n).link n = { s.link n with replays := 16, log := (s.link n).log + 1 } := link_setLink_same ..
  have hb : (spent s n).link (linkNo b a) = s.link (linkNo b a) := (link_setLink ..).trans (if_neg hne)
  refine ⟨_, he, hl.1.trans (by rw [hn]), hl.2.trans (by rw [hb]), ?_, ?_, hm, hk⟩
  · rw [die_notify_ne _ _ _ _ _ hab, notes_notify_same, hd]; rfl
  · rw [notes_notify_same, die_notify_ne _ _ _ _ _ hab.symm, hd]; rfl

/-- The state after the routers of a die have been reset: its links start their sequence numbers anew. -/
def routersReset (s : State) (die : Nat) : State :=
  { s with links := s.links.map fun (p : Nat × Link) =>
      if linkSrc p.1 = die || linkDst p.1 = die then (p.1, { p.2 with seq := 0, replays := 0 }) else p }.modDie die
    fun d => { d with router := false }

theorem exec_routerReset (s : State) (die : Nat) (hr : (s.die die).router = true)
    (hd : ∀ p ∈ s.links, (p.1 / 2048 = die ∨ p.1 % 2048 = die) → p.2.crc = false ∧ p.2.wire = [] ∧ p.2.buf = []) :
    exec (.routerReset die) s = .next (routersReset s die) := by
  show execRouterReset die s = _
  refine if_neg ?_
  simp only [hr, Bool.not_true, Bool.false_or, List.any_eq_true, not_exists, not_and]
  intro p hp
  by_cases hm : p.1 / 2048 = die ∨ p.1 % 2048 = die
  · obtain ⟨h1, h2, h3⟩ := hd p hp hm
    simp [h1, h2, h3]
  · simp only [not_or] at hm
    simp [linkSrc, linkDst, hm]

theorem links_routersReset (s : State) (die n : Nat) :
    mget (routersReset s die).links n =
      (mget s.links n).map fun l => if linkSrc n = die ∨ linkDst n = die then { l with seq := 0, replays := 0 } else l := by
  refine mget_map (fun n l => if linkSrc n = die ∨ linkDst n = die then { l with seq := 0, replays := 0 } else l) (fun p => ?_) s.links n
  simp only [Bool.or_eq_true, decide_eq_true_eq]
  split <;> rfl

theorem router_routersReset (s : State) (die : Nat) : ((routersReset s die).die die).router = false := by
  rw [routersReset, State.die_modDie_same]

/-- Settles O44: routes are those of the first module, where each is walked to its end; the events of links by cases of the link's state. -/
theorem linkEvents : Obligations.LinkEvents := by
  refine ⟨routesOfTheMesh, fun s a b ha hb hl hr => ⟨fun hc => ?_, fun hc => ⟨exec_linkReplay_good s hr hc, fun h => ?_, fun h => ?_⟩⟩,
    fun s die hr hd => ?_⟩
  · exact exec_linkCrcError s (by rwa [linkSrc_of_lt a hb, linkDst_of_lt a hb]) hr hc
  · exact exec_linkReplay_bad s hr hc h
  · have hab : a ≠ b := by rintro rfl; simp [linked_self] at hl
    obtain ⟨t, he, hn, hback, hna, hnb, hmem, hk⟩ :=
      linkReplay_retires s (linkSrc_of_lt a hb) (linkDst_of_lt a hb) hab (by simp only [linkNo]; omega) hr hc h
    exact ⟨t, he, hn, hback, hna, fun _ => hnb, hmem, hk⟩
  · refine ⟨_, exec_routerReset s die hr hd, router_routersReset s die, rfl, Kept.refl s, fun n l hl => ?_⟩
    rw [links_routersReset, hl]; rfl

/-! ### What changes of dies leave alone -/

/-- The state without its dies: what no change of a die touches. -/
def noDies (s : State) : State := { s with dies := [] }

theorem Kept.of_noDies {s t : State} (h : noDies t = noDies s) : Kept s t :=
  have field {γ : Type} (g : State → γ) : g (noDies t) = g (noDies s) := congrArg g h
  ⟨field State.threads, field State.groups, field State.flights, field State.trains, field State.reqs, field State.hostMem⟩
theorem mem_of_noDies {s t : State} (h : noDies t = noDies s) : t.mem = s.mem :=
  have field : (noDies t).mem = (noDies s).mem := congrArg State.mem h
  field
theorem keels_of_noDies {s t : State} (h : noDies t = noDies s) : t.keels = s.keels :=
  have field : (noDies t).keels = (noDies s).keels := congrArg State.keels h
  field
theorem trains_of_noDies {s t : State} (h : noDies t = noDies s) : t.trains = s.trains :=
  have field : (noDies t).trains = (noDies s).trains := congrArg State.trains h
  field

/-- What a change of a die keeps of every die stands at every die. -/
theorem field_modDie {γ : Type} (g : Die → γ) {f : Die → Die} (hf : ∀ d, g (f d) = g d) (s : State) (a n : Nat) :
    g ((s.modDie a f).die n) = g (s.die n) := by
  rw [State.die_modDie]
  split
  · rename_i h; subst h; exact hf _
  · rfl

/-! ### Notices (R384) -/

theorem field_notify {γ : Type} (g : Die → γ) (hg : ∀ d n, g { d with notes := n } = g d) (s : State) (d c x y z n : Nat) :
    g ((notify s d c x y z).die n) = g (s.die n) := field_modDie g (fun d => hg d _) s d n

theorem notes_notify_mono {s : State} {n : Nat} {x : Msg} (h : x ∈ (s.die n).notes) (d c a b e : Nat) :
    x ∈ ((notify s d c a b e).die n).notes := by
  by_cases hn : n = d
  · subst hn; rw [notes_notify_same]; exact List.mem_append_left _ h
  · rwa [notify, State.die_modDie, if_neg hn]

theorem noDies_notifyAll (s : State) (ds : List Nat) (c die : Nat) : noDies (notifyAll s ds c die) = noDies s :=
  foldl_keep noDies _ ds s fun _ _ => rfl
theorem field_notifyAll {γ : Type} (g : Die → γ) (hg : ∀ d n, g { d with notes := n } = g d) (s : State) (ds : List Nat) (c die n : Nat) :
    g ((notifyAll s ds c die).die n) = g (s.die n) :=
  foldl_keep (fun s : State => g (s.die n)) _ ds s fun s d => field_notify g hg s d c die 0 0 n
theorem notes_notifyAll_mono {s : State} {n : Nat} {x : Msg} (h : x ∈ (s.die n).notes) (ds : List Nat) (c die : Nat) :
    x ∈ ((notifyAll s ds c die).die n).notes := by
  induction ds generalizing s with
  | nil => exact h
  | cons d r ih => exact ih (notes_notify_mono h d c die 0 0)

/-- Every die of the list is told. -/
theorem notes_notifyAll (s : State) {ds : List Nat} (c die : Nat) {d : Nat} (h : d ∈ ds) :
    noticeOf d c die 0 0 ∈ ((notifyAll s ds c die).die d).notes := by
  induction ds generalizing s with
  | nil => simp at h
  | cons a r ih =>
    rcases List.mem_cons.mp h with rfl | h
    · exact notes_notifyAll_mono (by rw [notes_notify_same]; simp) r c die
    · exact ih _ h

/-- A die that serves a partition counts all its members among its peers. -/
theorem mem_peersOf {s : State} {die d : Nat} {p : Nat × PSlot} (hp : p ∈ (s.die die).slots) (he : p.2.en = true) (hd : d ∈ s.members p.2.vas) :
    d ∈ peersOf s die := by
  simp only [peersOf, servedBy, List.mem_eraseDups, List.mem_flatMap]
  exact ⟨p.2.vas, List.mem_map.mpr ⟨p, List.mem_filter.mpr ⟨hp, he⟩, rfl⟩, hd⟩

theorem membersTold_notifyAll {s s1 : State} {die : Nat} (c : Nat)
    (h : ∀ p ∈ (s.die die).slots, p.2.en = true → ∀ d ∈ s.members p.2.vas, d ∈ peersOf s1 die) (s2 : State) :
    MembersTold s (notifyAll s2 (peersOf s1 die) c die) die c :=
  fun p hp he d hd => notes_notifyAll s2 c die (h p hp he d hd)

/-! ### Bring-up (R27, R391, R403) -/

/-- A keel runs the image of a KIND that runs once, if it admits it. -/
def runGood (verified : Bool) (k : Keel) (kind : Nat) : Keel := if k.goodImage verified kind 0 then k.runImage kind 0 else k

/-- The keel once its own firmware runs: the core rails rise. -/
def booted (k : Keel) : Keel := { k.runImage 1 0 with verified := true, enable := true }

/-- The keel after its own firmware and then the firmware it admits have come up. -/
def raised (verified : Bool) (k : Keel) : Keel := [3, 4, 5].foldl (runGood verified) (booted k)

/-- What tells that a keel's own firmware runs, and which. -/
def ownFirmware (k : Keel) : Bool × Bool × Option (List Byte) := (k.verified, k.enable, mget k.images 2048)

theorem ownFirmware_booted (k : Keel) : ownFirmware (booted k) = (true, true, some ((k.stored 1 0).take 256)) :=
  congrArg (fun i => (true, true, i)) (mget_mput_same ..)

theorem ownFirmware_runGood (b : Bool) (k : Keel) {kind : Nat} (h : kind ≠ 1) : ownFirmware (runGood b k kind) = ownFirmware k := by
  unfold runGood
  split
  · exact congrArg (fun i => (k.verified, k.enable, i)) (mget_mput_ne _ _ (by simp only [imageKey]; omega))
  · rfl

theorem ownFirmware_raised (b : Bool) (k : Keel) : ownFirmware (raised b k) = (true, true, some ((k.stored 1 0).take 256)) := by
  rw [raised, List.foldl_cons, List.foldl_cons, List.foldl_cons, List.foldl_nil, ownFirmware_runGood b _ (by decide),
    ownFirmware_runGood b _ (by decide), ownFirmware_runGood b _ (by decide), ownFirmware_booted]

/-- An image whose signature does not verify is not admitted. -/
theorem goodImage_unsigned (k : Keel) (kind die : Nat) : k.goodImage false kind die = false := by
  simp [Keel.goodImage, Keel.imageGood]

/-- An image that a keel admits is in its store. -/
theorem stored_of_goodImage {k : Keel} {b : Bool} {kind die : Nat} (h : k.goodImage b kind die = true) (hk : kind ≠ 0) :
    (mget k.store (imageKey kind die)).isSome = true := by
  cases hs : mget k.store (imageKey kind die) with
  | some v => rfl
  | none =>
    have : fieldAt [] 4 1 = kind := by
      simpa [Keel.stored, mgetD, hs] using (Bool.and_eq_true_iff.mp h).1
    exact absurd this.symm hk

/-- The module whose keel firmware VAUX_GOOD verifies. -/
def vauxModule (s : State) : Option Nat :=
  (List.range 64).find? fun m => !(s.keel m).verified && (mget (s.keel m).store (imageKey 1 0)).isSome

theorem exec_vauxGood (s : State) (b : Bool) :
    exec (.vauxGood b) s = .next (match vauxModule s with
      | none => s
      | some m => if (s.keel m).goodImage b 1 0 then s.modKeel m (raised b) else s) := by
  show execVauxGood b s = _
  unfold execVauxGood
  rw [← vauxModule]
  cases vauxModule s with
  | none => rfl
  | some m =>
    cases h : (s.keel m).goodImage b 1 0
    · simp [h]
    · show (if !(s.keel m).goodImage b 1 0 then Host.Outcome.next s else .next (s.modKeel m (raised b))) =
        .next (if (s.keel m).goodImage b 1 0 then s.modKeel m (raised b) else s)
      rw [h]; rfl

theorem vauxGood_unsigned (s : State) : exec (.vauxGood false) s = .next s := by
  rw [exec_vauxGood]
  cases vauxModule s with
  | none => rfl
  | some m => simp only [goodImage_unsigned, Bool.false_eq_true, if_false]

theorem keel_modKeel (s : State) (m : Nat) (f : Keel → Keel) : (s.modKeel m f).keel m = f (s.keel m) := by
  simp [State.keel, State.modKeel, mmod]

theorem vauxGood_raises (s : State) (m : Nat) (hm : m < 64) (hfirst : ∀ n < m, (s.keel n).verified = true ∨ mget (s.keel n).store 2048 = none)
    (hv : (s.keel m).verified = false) (hg : (s.keel m).goodImage true 1 0 = true) :
    exec (.vauxGood true) s = .next (s.modKeel m (raised true)) := by
  have hfind : vauxModule s = some m := by
    refine List.find?_range_eq_some.mpr ⟨?_, List.mem_range.mpr hm, fun n hn => ?_⟩
    · rw [hv, stored_of_goodImage hg (by decide)]; rfl
    · rcases hfirst n hn with h | h
      · simp [h]
      · simp [imageKey, h]
  rw [exec_vauxGood, hfind]
  exact congrArg Host.Outcome.next (if_pos hg)

/-! ### Dies join (R403) -/

/-- What a die that joins becomes. -/
def joinedDie (die : Nat) (d : Die) : Die :=
  { d with
    life := .up, memSize := if isCompute die then 48 * 2 ^ 30 else Config.ioMemory die, sailBase := 4096 * Config.sailBase die
    sailSize := 4096 * Config.sailFrames die }

/-- A die's turn to join has come. -/
structure Joins (s : State) (die : Nat) : Prop where
  keel : (s.keel (moduleOf die)).verified = true
  place : die < 2048 ∧ localOf die < 20
  out : (s.die die).life = .out
  order : mayJoin s die = true

theorem Joins.exec_dieJoin {s : State} {die : Nat} (h : Joins s die) (b : Bool) :
    exec (.dieJoin die b) s = .next (
      if (s.keel (moduleOf die)).goodImage b 2 die then
        let s1 := (s.modDie die (joinedDie die)).modKeel (moduleOf die) fun k => k.runImage 2 die
        notifyAll s1 (joinedOf s1 (moduleOf die)) 4 die
      else notifyAll (s.modDie die fun d => { d with life := .lost }) (joinedOf s (moduleOf die)) 6 die) := by
  obtain ⟨hk, ⟨hd, hl⟩, ho, hm⟩ := h
  show execDieJoin die b s = _
  have hd' : ¬ 2048 ≤ die := by omega
  have hl' : ¬ 20 ≤ localOf die := by omega
  cases hg : (s.keel (moduleOf die)).goodImage b 2 die
  · simp [execDieJoin, hk, hd', hl', ho, hm, hg]
  · simp [execDieJoin, hk, hd', hl', ho, hm, hg]; rfl

theorem Joins.of_order {s : State} {m l : Nat} (hm : m < 64) (hl : l < 20) (hk : (s.keel m).verified = true)
    (ho : (s.die (m * 32 + l)).life = .out) (h16 : l ≠ 16 → s.up (m * 32 + 16) = true)
    (hio : l < 16 → ∀ i ∈ [17, 18, 19], (s.die (m * 32 + i)).life ≠ .out) : Joins s (m * 32 + l) := by
  have hmod : moduleOf (m * 32 + l) = m := by simp only [moduleOf]; omega
  have hloc : localOf (m * 32 + l) = l := by simp only [localOf]; omega
  have hisIo : isIo (m * 32 + l) = true ↔ 16 ≤ l := by simp only [isIo, Bool.and_eq_true, decide_eq_true_eq]; omega
  refine ⟨by rw [hmod]; exact hk, ⟨by omega, by omega⟩, ho, ?_⟩
  simp only [mayJoin, hmod, hloc, Bool.and_eq_true, Bool.or_eq_true, decide_eq_true_eq, hisIo, List.all_eq_true]
  exact ⟨Decidable.or_iff_not_imp_left.mpr h16, Decidable.or_iff_not_imp_left.mpr fun h => hio (by omega)⟩

theorem mem_of_mget {α : Type} {m : AMap α} {k : Nat} {v : α} (h : mget m k = some v) : (k, v) ∈ m := by
  induction m with
  | nil => simp at h
  | cons q r ih =>
    obtain ⟨j, w⟩ := q
    simp only [mget] at h
    split at h
    · rename_i e; subst e; cases h; exact List.mem_cons_self
    · exact List.mem_cons_of_mem _ (ih h)

/-- A die that is up is among the dies of its module that have joined. -/
theorem mem_joinedOf {s : State} {d : Nat} (hu : s.up d = true) : d ∈ joinedOf s (moduleOf d) := by
  have hlife : (s.die d).life = .up := by simpa [State.up] using hu
  cases hg : mget s.dies d with
  | none => simp [State.die, mgetD, hg] at hlife
  | some v =>
    have hv : v.life = .up := by simpa [State.die, mgetD, hg] using hlife
    exact List.mem_map.mpr ⟨(d, v), List.mem_filter.mpr ⟨mem_of_mget hg, by simp [hv]⟩, rfl⟩

theorem Joins.passes {s : State} {die : Nat} (h : Joins s die) (hg : (s.keel (moduleOf die)).goodImage true 2 die = true) :
    ∃ t, exec (.dieJoin die true) s = .next t ∧ t.up die = true ∧
      (t.die die).memSize = (if isCompute die then 48 * 2 ^ 30 else Config.ioMemory die) ∧ (t.die die).slots = (s.die die).slots ∧
      mget (t.keel (moduleOf die)).images (2 * 2048 + die) = some (((s.keel (moduleOf die)).stored 2 die).take 256) ∧ t.mem = s.mem ∧ Kept s t := by
  refine ⟨_, (h.exec_dieJoin true).trans (by rw [if_pos hg]), ?_⟩
  dsimp only
  generalize hs : (s.modDie die (joinedDie die)).modKeel (moduleOf die) (fun k => k.runImage 2 die) = s1
  have hdie : s1.die die = joinedDie die (s.die die) := by rw [← hs]; exact State.die_modDie_same ..
  have hkeel : s1.keel (moduleOf die) = (s.keel (moduleOf die)).runImage 2 die := by rw [← hs, keel_modKeel]; rfl
  have hno := noDies_notifyAll s1 (joinedOf s1 (moduleOf die)) 4 die
  refine ⟨?_, ?_, ?_, ?_, ?_, ?_⟩
  · rw [State.up, field_notifyAll Die.life (fun _ _ => rfl), hdie]; rfl
  · rw [field_notifyAll Die.memSize (fun _ _ => rfl), hdie]; rfl
  · rw [field_notifyAll Die.slots (fun _ _ => rfl), hdie]; rfl
  · rw [State.keel, keels_of_noDies hno, ← State.keel, hkeel]; exact mget_mput_same ..
  · rw [mem_of_noDies hno, ← hs]; rfl
  · have hk := Kept.of_noDies hno
    rwa [← hs] at hk ⊢

theorem Joins.fails {s : State} {die : Nat} (h : Joins s die) :
    ∃ t, exec (.dieJoin die false) s = .next t ∧ (t.die die).life = .lost ∧ t.mem = s.mem ∧ Kept s t ∧
      ∀ d, moduleOf d = moduleOf die → s.up d = true → noticeOf d 6 die 0 0 ∈ (t.die d).notes := by
  refine ⟨_, (h.exec_dieJoin false).trans (by rw [goodImage_unsigned, if_neg (by decide)]), ?_⟩
  have hno := noDies_notifyAll (s.modDie die fun d => { d with life := .lost }) (joinedOf s (moduleOf die)) 6 die
  refine ⟨?_, mem_of_noDies hno, Kept.of_noDies hno, fun p hm hu => notes_notifyAll _ 6 die (hm ▸ mem_joinedOf hu)⟩
  rw [field_notifyAll Die.life (fun _ _ => rfl), State.die_modDie_same]

theorem exec_calibrationComplete (s : State) {die : Nat} (h : s.up die = true) :
    exec (.calibrationComplete die) s = .next (s.modDie die fun d => { d with calib := true }) :=
  congrArg Host.Outcome.next (if_pos h)
theorem exec_dieLogicHang (s : State) {die : Nat} (h : s.up die = true) :
    exec (.dieLogicHang die) s = .next (s.modDie die fun d => { d with life := .hung }) :=
  congrArg Host.Outcome.next (if_pos h)

/-! ### The scrubber (R422) -/

/-- Without a pool there is no scrub log. -/
theorem logFinding_noPool (s : State) {die : Nat} (h : (s.die die).poolBase = 0) (pa kind src : Nat) : logFinding s die pa kind src = s := by
  simp [logFinding, h]

theorem execScrubLine_eq {s : State} {die pa c : Nat} (hu : s.up die = true) (hpa : pa < (s.die die).memSize)
    (hb : mget s.bad (badKey die pa) = some c) :
    execScrubLine die pa s =
      match (generalizing := false) c with
      | 1 => .next (logFinding { s with bad := mput s.bad (badKey die pa) 3 } die pa 2 0)
      | 2 => .next (logFinding { s with bad := mput s.bad (badKey die pa) 3 } die pa 3 0)
      | 4 => .next (logFinding { s with bad := mdel s.bad (badKey die pa) } die pa 1 0)
      | 5 => .next (logFinding s die pa 4 0)
      | _ => .next s := by
  have hc : mgetD s.bad (badKey die pa) 0 = c := by rw [mgetD, hb]; rfl
  unfold execScrubLine
  rw [if_neg (by rw [hu]; simpa using hpa)]
  subst hc
  rfl

theorem scrubLine_poisons {s : State} {die pa c : Nat} (hu : s.up die = true) (hpa : pa < (s.die die).memSize) (hp : (s.die die).poolBase = 0)
    (hb : mget s.bad (badKey die pa) = some c) (hc : c = 1 ∨ c = 2) :
    exec (.scrubLine die pa) s = .next { s with bad := mput s.bad (badKey die pa) 3 } := by
  refine (execScrubLine_eq hu hpa hb).trans ?_
  rcases hc with rfl | rfl
  · exact congrArg Host.Outcome.next (logFinding_noPool (s := { s with bad := mput s.bad (badKey die pa) 3 }) hp ..)
  · exact congrArg Host.Outcome.next (logFinding_noPool (s := { s with bad := mput s.bad (badKey die pa) 3 }) hp ..)

theorem scrubLine_mends {s : State} {die pa : Nat} (hu : s.up die = true) (hpa : pa < (s.die die).memSize) (hp : (s.die die).poolBase = 0)
    (hb : mget s.bad (badKey die pa) = some 4) : exec (.scrubLine die pa) s = .next { s with bad := mdel s.bad (badKey die pa) } :=
  (execScrubLine_eq hu hpa hb).trans
    (congrArg Host.Outcome.next (logFinding_noPool (s := { s with bad := mdel s.bad (badKey die pa) }) hp ..))

/-! ### Warm reset: its start and its end (R425) -/

theorem startReset_eq {s : State} {die : Nat} (h : (s.die die).life = .up ∨ (s.die die).life = .hung) :
    startReset s die = notifyAll (s.modDie die fun d => { d with life := .resetting, drained := false }) (peersOf s die) 5 die := by
  rcases h with h | h <;> simp [startReset, h]

theorem startReset_tells {s : State} {die : Nat} (h : (s.die die).life = .up ∨ (s.die die).life = .hung) :
    ((startReset s die).die die).life = .resetting ∧ MembersTold s (startReset s die) die 5 ∧ (startReset s die).mem = s.mem ∧
      Kept s (startReset s die) := by
  rw [startReset_eq h]
  have hno := noDies_notifyAll (s.modDie die fun d => { d with life := .resetting, drained := false }) (peersOf s die) 5 die
  refine ⟨?_, membersTold_notifyAll 5 (fun p hp he d hd => mem_peersOf hp he hd) _, mem_of_noDies hno, Kept.of_noDies hno⟩
  rw [field_notifyAll Die.life (fun _ _ => rfl), State.die_modDie_same]

theorem failTrains_none {s : State} (h : s.trains = []) (die why : Nat) : failTrains s die why = s := by
  simp [failTrains, h]

/-- What a reset of its logic makes of a die. -/
def resetDie (d : Die) : Die :=
  { d with
    faults := [], fents := [], walks := [], tlb := [], l2 := [], l2home := [], pins := [], dir := [], heldIn := [], pubs := [], wakes := []
    token := none, tokenQ := [], queues := [], intake := [], todo := [], revokes := [], ranges := [], ckpt := none, combines := []
    contribs := [], partials := 0, combAdds := [], mail := false, sup := [] }

theorem die_resetLogic (s : State) (die n : Nat) : (resetLogic s die).die n = (s.modDie die resetDie).die n := rfl

/-- What a reset of a die's logic keeps of every die. -/
theorem field_resetLogic {γ : Type} (g : Die → γ) (hg : ∀ d, g (resetDie d) = g d) (s : State) (die n : Nat) :
    g ((resetLogic s die).die n) = g (s.die n) := by
  rw [die_resetLogic]; exact field_modDie g hg s die n

theorem resetLogic_empties (s : State) (die : Nat) : ((resetLogic s die).die die).l2 = [] ∧ ((resetLogic s die).die die).queues = [] := by
  rw [die_resetLogic, State.die_modDie_same]; exact ⟨rfl, rfl⟩

/-- What a reset of its die's logic leaves of a core: its counts and its samples. -/
def resetCore (c : Core) : Core := { cycles := c.cycles, seqs := c.seqs, starts := c.starts, sampled := c.sampled, samples := c.samples }

theorem resetLogic_core (s : State) {die ck : Nat} (h : dieOfCore ck = die) : (resetLogic s die).core ck = resetCore (s.core ck) := by
  have hcores : mget (resetLogic s die).cores ck = (mget s.cores ck).map (if dieOfCore ck ≠ die then id else resetCore) :=
    mget_map (fun k => if dieOfCore k ≠ die then id else resetCore) (fun p => by split <;> rfl) s.cores ck
  rw [if_neg (not_not_intro h)] at hcores
  rw [State.core, mgetD, hcores, State.core, mgetD]
  cases mget s.cores ck <;> rfl

theorem resetLogic_reqs (s : State) (die : Nat) : ∀ r ∈ (resetLogic s die).reqs, r.die ≠ die := by
  intro r hr
  obtain ⟨q, hq, rfl⟩ := List.mem_map.mp hr
  have hd : q.die ≠ die := by simpa using (List.mem_filter.mp hq).2
  split
  · exact hd
  · exact hd

theorem exec_warmResetDrained (s t1 : State) (die : Nat) (hl : (s.die die).life = .resetting) (ht : t1.trains = [])
    (hr : releaseWide s die = (t1, true)) :
    exec (.warmResetDrained die) s = .next ((resetLogic t1 die).modDie die fun d => { d with drained := true }) := by
  show execWarmResetDrained die s = _
  simp [execWarmResetDrained, hl, hr, failTrains_none ht]

theorem warmResetDrained_empties (s t1 : State) (die : Nat) (hl : (s.die die).life = .resetting) (ht : t1.trains = [])
    (hr : releaseWide s die = (t1, true)) :
    ∃ t, exec (.warmResetDrained die) s = .next t ∧ t.mem = t1.mem ∧ (t.die die).l2 = [] ∧ (t.die die).queues = [] ∧
      (t.die die).life = (t1.die die).life ∧ (t.die die).drained = true ∧
      (∀ ck, dieOfCore ck = die → (t.core ck).table = [] ∧ (t.core ck).l1 = [] ∧ (t.core ck).wakes = [] ∧
        (t.core ck).cycles = (t1.core ck).cycles) ∧ ∀ r ∈ t.reqs, r.die ≠ die := by
  obtain ⟨hl2, hq⟩ := resetLogic_empties t1 die
  refine ⟨_, exec_warmResetDrained s t1 die hl ht hr, rfl, ?_, ?_, ?_, ?_, fun ck hck => ?_, resetLogic_reqs t1 die⟩
  · rw [State.die_modDie_same]; exact hl2
  · rw [State.die_modDie_same]; exact hq
  · rw [State.die_modDie_same]; exact field_resetLogic Die.life (fun _ => rfl) t1 die die
  · rw [State.die_modDie_same]
  · rw [State.modDie_read_core, resetLogic_core t1 hck]
    exact ⟨rfl, rfl, rfl, rfl⟩

/-! ### Loss (R426) -/

/-- A lost die with its slots closed. -/
def closedDie (d : Die) : Die := { d with life := .lost, slots := d.slots.map fun p => (p.1, { p.2 with en := false }) }

/-- The peers of a lost die are told, and its slots are closed. -/
def slotsClosed (s : State) (die : Nat) : State := (notifyAll s ((peersOf s die).filter (· ≠ die)) 6 die).modDie die closedDie

/-- What the partner of a lost die carries on. -/
def carryingOn (old d : Die) : Die := { d with shoots := d.shoots ++ old.shoots, ends := d.ends ++ old.ends, adds := d.adds ++ old.adds }

/-- A lost die has nothing left to report. -/
def silencedDie (d : Die) : Die :=
  { d with
    traceHold := [], drained := false, shoots := [], ends := [], adds := [], traps := [], exits := [], notes := [], rings := [], windows := []
    hold := [], port := [] }

/-- The trains that a lost dispatcher was sending are sent by its partner. -/
def trainsTakenOver (s : State) (die : Nat) : State :=
  { s with trains := s.trains.map fun (p : Nat × Train) =>
      if (p.2.from_ = die ∧ p.2.stat = TrainStat.sending) then (p.1, { p.2 with from_ := partnerOf die }) else p }

/-- The loss of a die in a state without trains. -/
theorem loseDie_eq {s : State} (h : s.trains = []) (die : Nat) :
    loseDie s die =
      ((trainsTakenOver (resetLogic (slotsClosed s die) die) die).modDie (partnerOf die) (carryingOn (s.die die))).modDie die silencedDie := by
  have ht : (slotsClosed s die).trains = [] := (trains_of_noDies (noDies_notifyAll ..)).trans h
  calc loseDie s die
    _ = ((trainsTakenOver (resetLogic (failTrains (slotsClosed s die) die 5) die) die).modDie (partnerOf die)
          (carryingOn (s.die die))).modDie die silencedDie := rfl
    _ = _ := by rw [failTrains_none ht]

/-- What a loss keeps of every die once the slots are closed. -/
theorem field_loseDie {γ : Type} (g : Die → γ) (hs : ∀ d, g (silencedDie d) = g d) (hc : ∀ o d, g (carryingOn o d) = g d)
    (hr : ∀ d, g (resetDie d) = g d) {s : State} (h : s.trains = []) (die n : Nat) :
    g ((loseDie s die).die n) = g ((slotsClosed s die).die n) := by
  rw [loseDie_eq h, field_modDie g hs, field_modDie g (hc _)]
  exact field_resetLogic g hr _ die n

theorem loseDie_life {s : State} (h : s.trains = []) (die : Nat) : ((loseDie s die).die die).life = .lost := by
  rw [field_loseDie Die.life (fun _ => rfl) (fun _ _ => rfl) (fun _ => rfl) h, slotsClosed, State.die_modDie_same]; rfl

theorem loseDie_closes {s : State} (h : s.trains = []) (die : Nat) : ∀ p ∈ ((loseDie s die).die die).slots, p.2.en = false := by
  rw [field_loseDie Die.slots (fun _ => rfl) (fun _ _ => rfl) (fun _ => rfl) h, slotsClosed, State.die_modDie_same]
  intro p hp
  obtain ⟨q, -, rfl⟩ := List.mem_map.mp hp
  rfl

theorem mem_loseDie {s : State} (h : s.trains = []) (die : Nat) : (loseDie s die).mem = s.mem := by
  have hclosed : (slotsClosed s die).mem = s.mem := mem_of_noDies (noDies_notifyAll ..)
  have hreset : (resetLogic (slotsClosed s die) die).mem = (slotsClosed s die).mem := rfl
  rw [loseDie_eq h, State.modDie_mem, State.modDie_mem]
  exact hreset.trans hclosed

theorem loseDie_tells {s : State} (h : s.trains = []) {die : Nat} {p : Nat × PSlot} (hp : p ∈ (s.die die).slots) (he : p.2.en = true) {d : Nat}
    (hd : d ∈ s.members p.2.vas) (hne : d ≠ die) : noticeOf d 6 die 0 0 ∈ ((loseDie s die).die d).notes := by
  have hnotes : ((loseDie s die).die d).notes = ((slotsClosed s die).die d).notes := by
    rw [loseDie_eq h, State.die_modDie, if_neg hne, field_modDie Die.notes (f := carryingOn (s.die die)) fun _ => rfl]
    exact field_resetLogic Die.notes (fun _ => rfl) _ die d
  rw [hnotes, slotsClosed, State.die_modDie, if_neg hne]
  exact notes_notifyAll s 6 die (List.mem_filter.mpr ⟨mem_peersOf hp he hd, by simpa using hne⟩)

theorem exec_dieLoss {s : State} {die : Nat} (h : (s.die die).life = .up ∨ (s.die die).life = .hung) :
    exec (.dieLoss die) s = .next (loseDie s die) := by
  show execDieLoss die s = _
  rcases h with h | h <;> simp [execDieLoss, h]

theorem exec_warmResetDrainTimeout {s : State} {die : Nat} (h : (s.die die).life = .resetting) :
    exec (.warmResetDrainTimeout die) s = .next (loseDie s die) :=
  congrArg Host.Outcome.next (if_pos h)

/-! ### Rejoining (R424, R425) -/

theorem field_sendWake {γ : Type} (g : Die → γ) (hg : ∀ d w, g { d with wakes := w } = g d) (s : State) (src dst vas : Nat) (cls : PClass)
    (m : WakeMsg) (n : Nat) : g ((sendPacket s src dst vas cls (.wake m)).die n) = g (s.die n) := by
  unfold sendPacket
  dsimp only
  split
  · exact field_modDie g (fun d => hg d _) s dst n
  · split
    · rfl
    · rfl

theorem mem_sendWake (s : State) (src dst vas : Nat) (cls : PClass) (m : WakeMsg) : (sendPacket s src dst vas cls (.wake m)).mem = s.mem := by
  unfold sendPacket
  dsimp only
  split
  · rfl
  · split
    · rfl
    · rfl

theorem field_wakeHome {γ : Type} (g : Die → γ) (hg : ∀ d w, g { d with wakes := w } = g d) (s : State) (die n : Nat) :
    g ((wakeHome s die).die n) = g (s.die n) :=
  foldl_keep (fun s : State => g (s.die n)) _ s.cores s fun _ _ => field_sendWake g hg ..
theorem mem_wakeHome (s : State) (die : Nat) : (wakeHome s die).mem = s.mem :=
  foldl_keep State.mem _ s.cores s fun _ _ => mem_sendWake ..

/-- What is put into a map replaces at most the entry that was read at its key. -/
theorem mem_mput_of_mem {α : Type} {m : AMap α} (k : Nat) (v : α) {p : Nat × α} (h : p ∈ m) :
    p ∈ mput m k v ∨ (p.1 = k ∧ mget m k = some p.2) := by
  induction m with
  | nil => simp at h
  | cons q r ih =>
    obtain ⟨j, w⟩ := q
    simp only [mput]
    split
    · exact .inl (List.mem_cons_of_mem _ h)
    · split
      · next heq =>
        rcases List.mem_cons.mp h with rfl | h
        · exact .inr ⟨heq.symm, by rw [mget, if_pos heq.symm]⟩
        · exact .inl (List.mem_cons_of_mem _ h)
      · next hne =>
        rcases List.mem_cons.mp h with rfl | h
        · exact .inl List.mem_cons_self
        · rcases ih h with h | ⟨h1, h2⟩
          · exact .inl (List.mem_cons_of_mem _ h)
          · exact .inr ⟨h1, by rwa [mget, if_neg (Ne.symm hne)]⟩

/-- A die whose slots stay serves the same partitions. -/
theorem members_modDie {s : State} {die : Nat} {f : Die → Die} (hf : (f (s.die die)).slots = (s.die die).slots) {vas d : Nat}
    (h : d ∈ s.members vas) :
    d ∈ (s.modDie die f).members vas := by
  obtain ⟨p, hp, rfl⟩ := List.mem_map.mp h
  obtain ⟨hp, hslot⟩ := List.mem_filter.mp hp
  rcases mem_mput_of_mem die (f (s.die die)) hp with hp | ⟨rfl, hg⟩
  · exact List.mem_map.mpr ⟨p, List.mem_filter.mpr ⟨hp, hslot⟩, rfl⟩
  · have hdie : s.die p.1 = p.2 := by rw [State.die, mgetD, hg]; rfl
    refine List.mem_map.mpr ⟨(p.1, f (s.die p.1)), List.mem_filter.mpr ⟨mem_of_mget (mget_mput_same ..), ?_⟩, rfl⟩
    rw [Die.slotOf, hf, hdie]
    exact hslot

/-- The die with the registers of its checkpoint, up, and with the log of its messages before what waits (R424). -/
def rejoined (b stamp : Nat) (msgs : List Msg) (d : Die) : Die :=
  { (d.restoreRegs (mgetD d.images b []) (mgetD d.ringImages b [])) with
    life := .up, drained := false, brHead := BitVec.ofNat 32 stamp, brTail := BitVec.ofNat 32 stamp, inbox := msgs ++ d.inbox }

/-- The state with a die's sail region and registers as its checkpoint of a buffer and a stamp holds them. -/
def restored (s : State) (die b stamp : Nat) (msgs : List Msg) : State :=
  (s.setRamBytes die (s.die die).sailBase
    (s.ramBytes (partnerOf die) (peerBase s die + 0x1000 + b * bufSize (s.die die)) (s.die die).sailSize)).modDie die (rejoined b stamp msgs)

theorem die_restored (s : State) (die b stamp : Nat) (msgs : List Msg) : (restored s die b stamp msgs).die die = rejoined b stamp msgs (s.die die) :=
  State.die_modDie_same ..

/-- A die may come back from its checkpoint of a buffer and a stamp. -/
structure Rejoins (s : State) (die b stamp : Nat) : Prop where
  resetting : (s.die die).life = .resetting
  trains : s.trains = []
  clean : (s.die die).l2 = []
  drained : (s.die die).drained = true
  image : (s.keel (moduleOf die)).admits ((s.keel (moduleOf die)).image 2 die) = true
  partner : s.up (partnerOf die) = true
  buffer : peerBase s die ≠ 0
  newest : newestBuf s die = some (b, stamp)
  logged : count32 (s.ram (partnerOf die) (peerBase s die) 4) stamp ≤ 65536

/-- The messages that a die which rejoins takes again. -/
def replayedMsgs (s : State) (die stamp : Nat) : List Msg := loggedMsgs s die stamp (count32 (s.ram (partnerOf die) (peerBase s die) 4) stamp)

theorem Rejoins.exec_rejoin {s : State} {die b stamp : Nat} (h : Rejoins s die b stamp) :
    exec (.warmResetRejoin die) s =
      .next (let s1 := restored s die b stamp (replayedMsgs s die stamp); wakeHome (notifyAll s1 (peersOf s1 die) 4 die) die) := by
  obtain ⟨hr, ht, hl2, hdr, him, hq, hb, hn, hlog⟩ := h
  show execWarmResetRejoin die s = _
  unfold execWarmResetRejoin
  rw [if_neg (by simp [hr, ht, hl2, hdr]), if_neg (by simp [him])]
  simp only [hn]
  rw [if_neg (by simp [hq, hb, hlog])]
  rfl

theorem Rejoins.tells {s : State} {die b stamp : Nat} (h : Rejoins s die b stamp) :
    ∃ t, exec (.warmResetRejoin die) s = .next t ∧ t.up die = true ∧ (t.die die).brHead = BitVec.ofNat 32 stamp ∧
      (t.die die).brTail = BitVec.ofNat 32 stamp ∧ (∀ x ∈ replayedMsgs s die stamp, x ∈ (t.die die).inbox) ∧
      t.mem = (s.setRamBytes die (s.die die).sailBase
        (s.ramBytes (partnerOf die) (peerBase s die + 0x1000 + b * bufSize (s.die die)) (s.die die).sailSize)).mem ∧
      MembersTold s t die 4 := by
  refine ⟨_, h.exec_rejoin, ?_⟩
  dsimp only
  generalize hs : restored s die b stamp (replayedMsgs s die stamp) = s1
  have hdie : s1.die die = rejoined b stamp (replayedMsgs s die stamp) (s.die die) := by rw [← hs, die_restored]
  have keeps {γ : Type} (g : Die → γ) (hn : ∀ d n, g { d with notes := n } = g d) (hw : ∀ d w, g { d with wakes := w } = g d) :
      g ((wakeHome (notifyAll s1 (peersOf s1 die) 4 die) die).die die) = g (rejoined b stamp (replayedMsgs s die stamp) (s.die die)) := by
    rw [field_wakeHome g hw, field_notifyAll g hn, hdie]
  refine ⟨?_, ?_, ?_, fun x hx => ?_, ?_, fun p hp he d hd => ?_⟩
  · rw [State.up, keeps Die.life (fun _ _ => rfl) (fun _ _ => rfl)]; rfl
  · exact keeps Die.brHead (fun _ _ => rfl) (fun _ _ => rfl)
  · exact keeps Die.brTail (fun _ _ => rfl) (fun _ _ => rfl)
  · rw [keeps Die.inbox (fun _ _ => rfl) (fun _ _ => rfl)]; exact List.mem_append_left _ hx
  · rw [mem_wakeHome, mem_of_noDies (noDies_notifyAll ..), ← hs]; rfl
  · rw [field_wakeHome Die.notes (fun _ _ => rfl)]
    refine notes_notifyAll s1 4 die (mem_peersOf (p := p) (by rw [hdie]; exact hp) he ?_)
    rw [← hs]
    exact members_modDie (s := s.setRamBytes ..) rfl hd

theorem mem_loggedMsgs (s : State) (die stamp : Nat) {n i : Nat} (h : i < n) :
    Msg.ofBytes (s.ramBytes (partnerOf die) (peerBase s die + 0x1000 + 2 * bufSize (s.die die) + 64 * ((stamp + i) % 65536)) 64) ∈
      loggedMsgs s die stamp n :=
  List.mem_map.mpr ⟨i, List.mem_range.mpr h, rfl⟩

/-- Settles O51: bring-up by the keel's choice of a module and by the order of joining; every other event by what it leaves of each die. -/
theorem recoveryEvents : Obligations.RecoveryEvents := by
  refine ⟨fun s m hm hfirst hv hg => ?_, fun s => ?_, fun s m l hm hl hk ho h16 hio => ?_, fun s die hu => ?_, fun s die pa c hu hpa hp hb => ?_,
    fun s die hl => ?_, fun s die hl => ⟨fun t1 _ ht hr => ?_, fun ht => ?_, fun b stamp ht hl2 hdr him hq hb hn hlog => ?_⟩⟩
  · obtain ⟨hver, hen, him⟩ : _ ∧ _ ∧ _ := by simpa only [ownFirmware, Prod.mk.injEq] using ownFirmware_raised true (s.keel m)
    refine ⟨_, vauxGood_raises s m hm hfirst hv hg, ?_, ?_, ?_, rfl, rfl⟩
    · rw [keel_modKeel]; exact hver
    · rw [keel_modKeel]; exact hen
    · rw [keel_modKeel]; exact him
  · exact vauxGood_unsigned s
  · have hj := Joins.of_order hm hl hk ho h16 hio
    have hmod : moduleOf (m * 32 + l) = m := by simp only [moduleOf]; omega
    have hcomp : isCompute (m * 32 + l) = true ↔ l < 16 := by simp only [isCompute, decide_eq_true_eq]; omega
    have hpass := hj.passes
    have hfail := hj.fails
    rw [hmod] at hpass hfail
    simp only [hcomp] at hpass
    obtain ⟨t, he, hlost, hmem, hkept, htold⟩ := hfail
    exact ⟨hpass, t, he, hlost, hmem, hkept, fun p _ _ hpm hu => htold p.1 hpm hu⟩
  · exact ⟨exec_calibrationComplete s hu, exec_dieLogicHang s hu⟩
  · exact ⟨scrubLine_poisons hu hpa hp hb, fun hc => scrubLine_mends hu hpa hp (hc ▸ hb)⟩
  · obtain ⟨hlife, htold, hmem, hkept⟩ := startReset_tells hl
    exact ⟨⟨_, rfl, hlife, htold, hmem, hkept⟩, ⟨_, rfl, hlife, htold, hmem, hkept⟩, fun ht =>
      ⟨_, exec_dieLoss hl, loseDie_life ht die, loseDie_closes ht die, mem_loseDie ht die, fun p hp he d hd hne => loseDie_tells ht hp he hd hne⟩⟩
  · exact warmResetDrained_empties s t1 die hl ht hr
  · exact ⟨_, exec_warmResetDrainTimeout hl, loseDie_life ht die, mem_loseDie ht die⟩
  · obtain ⟨t, he, hup, hhead, htail, hin, hmem, htold⟩ := Rejoins.tells ⟨hl, ht, hl2, hdr, him, hq, hb, hn, hlog⟩
    exact ⟨t, he, hup, hhead, htail, fun i hi => hin _ (mem_loggedMsgs s die stamp hi), hmem, htold⟩

/-! ### Spar writes that arrive while another is made (R24, R253, R401)

A write that an I/O die makes for a Spar write first drops the die's own copy of the line. Its write-back takes in the held notices that are on their way
to the copy's home, and with them every packet that travels before such a notice in the same order. Nothing in a state says that an I/O die has
no copies of its own memory, nor that no Spar write travels before a held notice: where both stand, the Spar write that travels arrives while
the first one is made, and the die's list of Spar writes is not empty after it. -/

/-- The Spar write that I/O die 16 takes, and the one that is still on its way there. -/
def sparTaken : SparPkt := { svas := 1, vas := 1, va := 0, data := [1] }
def sparTravelling : SparPkt := { svas := 1, vas := 1, va := 128, data := [2] }

/-- Die 0, which homes page 0 of VAS 1. -/
def homeDie : Die :=
  { life := .up, memSize := 2 ^ 24, slots := [(0, { vas := 1, en := true, keys := 1 })], tlb := [{ vas := 1, leaf := 7 }] }

/-- I/O die 16, whose replica names die 0 as the home of page 0, with a dirty copy of its first line from a time when die 16 was the home. -/
def writerDie : Die :=
  { life := .up, memSize := 2 ^ 24, slots := [(0, { vas := 1, en := true, keys := 1 })], walks := [(1, 0, 0, 1)]
    l2 := [(lineKey 1 0, { dirty := 1, leaf := 7 + 16 * 2 ^ 12 })], spar := [sparTaken] }

/-- The second Spar write travels from die 0 to die 16 before a held notice for the line. -/
def sparRace : State :=
  { dies := [(0, homeDie), (16, writerDie)]
    mem := [(ramKey 16 4096, 7)]
    links := [(linkNo 0 16, { buf := [{ no := 1, dst := 16, vas := 1, body := .spar sparTravelling },
                                      { no := 2, dst := 16, vas := 1, body := .held { vas := 1, die := 16 } }] })] }

theorem sparRace_putAll : (putAll (drainHold sparRace 16) 16 sparTaken.vas sparTaken.va sparTaken.data).1 = .done := by decide +kernel

/-- The Spar writes that a step leaves at die 16. -/
def sparLeft : Host.Outcome State Fault Refusal → List SparPkt
  | .next t => (t.die 16).spar
  | _ => []

theorem sparRace_left : sparLeft (exec (.sparWrite 16) sparRace) = [sparTravelling] := by decide +kernel

/-- Refutes O52: after SPAR_WRITE the I/O die may have another Spar write to take, one that has arrived with the held notice that the write
itself has hastened. -/
theorem not_eventsComplete : ¬ Obligations.EventsComplete := by
  rintro ⟨-, -, -, -, -, hports⟩
  obtain ⟨-, hio⟩ := hports sparRace 16
  obtain ⟨-, -, -, hspar⟩ := hio (by decide +kernel) (by decide)
  obtain ⟨t, hexec, hempty, -⟩ := hspar sparTaken _ (by decide +kernel) (by decide +kernel) (by decide +kernel) (by decide +kernel)
    (by decide) rfl rfl rfl
    (Prod.ext sparRace_putAll rfl)
  have hleft := sparRace_left
  rw [hexec] at hleft
  exact absurd (hempty.symm.trans hleft) (by decide)

end Sys2Proof.Proofs
